-- ==== Sys2Proof/Word.lean ====
section
/-! DEFINITION. The word types of the Nytal Myane (R2): bytes, ring words, scalars, capability bits and 256-byte lines. -/

namespace Sys2Proof

/-- A byte of memory (R2). -/
abbrev Byte := BitVec 8

/-- A ring word: one lane of a fetch line (R211, R215). -/
abbrev Word := BitVec 32

/-- A conductor scalar (R221). -/
abbrev DWord := BitVec 64

/-- 256 bytes: a vector register, a landing bay, a FIFO line, a lane beat or a bank line (R44, R46, R51, R131, R221).
Byte i holds bits [8i+7:8i] (R2). -/
abbrev Line := BitVec 2048

/-- A beat of the weight ring: 1,024 bytes (R141). -/
abbrev Beat := BitVec 8192

/-- A logical station of the package: cluster * 96 + station (R13, R179). -/
abbrev Stn := Fin 384

end Sys2Proof
end

