-- ==== Sys2Proof/Config.lean ====
section
/-!
DEFINITION. What an implementation of the Myane fixes or leaves open. `Config.free` is the source of every value that the
manual calls unpredictable (R5) and of every choice and latency that it leaves open: it has no body, so nothing can be proved
about a value of it. The state holds the counter to which it is applied.
-/

namespace Sys2Proof

/-- The free values: unpredictable values (R5), and the choices and latencies that no rule fixes (R102, R105, R204). -/
opaque Config.free : Nat → Nat

/-- The ECDSA P-256 signature of a report's digest under the device's identity key, which never leaves the device (R405). -/
opaque Config.sign : List Byte → List Byte

/-- The device serial number (R405). -/
opaque Config.serial : List Byte

end Sys2Proof
end

