-- ==== Sys2Proof/Syntax.lean ====
section
/-!
DEFINITION. The instructions and unit steps of the Nytal Myane, one constructor per row of spec/opcode_table.json, with the
data that the steps of the outside world carry. A register number, an immediate or a flag bit of an instruction word is a bit
vector of its field's width; a station, a channel or a slot that a unit step names is a natural number.
-/

namespace Sys2Proof

/-- The seven instruction streams of a station (R165). -/
inductive Engine where
  | conductor | vector | matrix | copy0 | copy1 | tap | fabric
  deriving DecidableEq, Repr

/-- The six opcode spaces; both copy channels share one (R226). -/
inductive Space where
  | conductor | vector | matrix | copy | tap | fabric
  deriving DecidableEq, Repr

/-- The opcode space of a stream (R226). -/
def Engine.space : Engine → Space
  | .conductor => .conductor
  | .vector => .vector
  | .matrix => .matrix
  | .copy0 => .copy
  | .copy1 => .copy
  | .tap => .tap
  | .fabric => .fabric

/-- The engine code of a stream (R165, R212). -/
def Engine.code : Engine → Nat
  | .conductor => 1
  | .vector => 2
  | .matrix => 3
  | .copy0 => 4
  | .copy1 => 5
  | .tap => 6
  | .fabric => 7

/-- The stream of an engine code (R165). -/
def Engine.ofCode : Nat → Option Engine
  | 1 => some .conductor
  | 2 => some .vector
  | 3 => some .matrix
  | 4 => some .copy0
  | 5 => some .copy1
  | 6 => some .tap
  | 7 => some .fabric
  | _ => none

/-- The streams in ascending engine code (R165, R170). -/
def Engine.all : List Engine := [.conductor, .vector, .matrix, .copy0, .copy1, .tap, .fabric]

/-- The extension word of a vector instruction (R220). -/
structure VExt where
  qe : BitVec 1
  q : BitVec 3
  t : BitVec 4
  rm : BitVec 2
  low : BitVec 22
  deriving DecidableEq, Repr

/-- The extension words of an array operation: none, the chunk's first index, or that and V0 with KC - 1 (R300). -/
inductive MExt where
  | none
  | g (g : Word)
  | gk (g : Word) (v0 : BitVec 24) (kc1 : BitVec 8)
  deriving DecidableEq, Repr

/-- The extension word of `mrd` and `mwr`: the `.st` form and its column (R307). -/
structure RowExt where
  st : BitVec 1
  col : BitVec 7
  deriving DecidableEq, Repr

/-- A map tag (R309, R326). -/
structure MapTag where
  mape : BitVec 1
  mslot : BitVec 2
  mgen : BitVec 6
  deriving DecidableEq, Repr

/-- What the service processor names when it starts a partition (R17, R25, R39, R68, R132, R188, R346, R372,
R407): its stations, its
registers, the resident program's bytes by bank offset, its channels, slots and mailboxes, the peers bound to it, whether it is the
ring manager's, and the host window. -/
structure PartCfg where
  stns : List Stn
  otcfg : DWord
  pstk : DWord
  plseed : DWord
  plctl : DWord
  codecfg : DWord
  program : List (Nat × Byte)
  channels : List Nat
  slots : List Nat
  mailboxes : List Nat
  bindings : List (Nat × Nat)
  ringManager : Bool
  hwin : DWord
  deriving DecidableEq, Repr

/-- What the service processors set at ring bring-up, or at a package that is to join a ring, with the segments of the model image that a
source member fills its lines with: line, index, bytes (R57, R145, R146, R160, R163). -/
structure RingCfg where
  cyc : Nat
  ringcfg : DWord
  rmodel : DWord
  rlcfg0 : DWord
  rlcfg1 : DWord
  rlsrc0 : DWord
  rlsrc1 : DWord
  stkcirc : DWord
  newcomer : Bool
  image : List (Nat × Nat × List Byte)
  deriving DecidableEq, Repr

/-- A firmware image, and the unit on which it is to be activated, named by its kind and number; with none it is staged (R406). -/
structure Firmware where
  image : List Byte
  unit : Option (Nat × Nat)
  deriving DecidableEq, Repr

/-- A packet of the scale-up fabric: the device header of R359 with the address that its transaction carries, the bound that a
write to a peer carries (R342), the peer list of a multicast (R345), the data bytes, and bits [65:48] of the header, which are
reserved. -/
structure Packet where
  src : Nat
  dst : Nat
  plane : Nat
  seq : Nat
  cls : Nat
  opk : Nat
  orig : Nat
  opart : Nat
  ctx : Nat
  cmp : Bool
  cfmt : Nat
  fmt : Nat
  rseq : Nat
  arg : Nat
  obj : Nat
  off : Nat
  limit : Nat
  len : Nat
  aop : Nat
  asz : Nat
  opnd : DWord
  newv : DWord
  peers : List Nat
  chx : Nat
  poison : Bool
  pinned : Bool
  data : List Byte
  rsv : Nat := 0
  deriving DecidableEq, Repr

/-- A host access through CXL.mem: a read, or a write with its bytes (R372). -/
inductive HostAccess where
  | read (off len : Nat)
  | write (off : Nat) (data : List Byte)
  deriving DecidableEq, Repr

/-- A host atomic through BAR2 (R373). -/
structure HostAtomic where
  off : Nat
  cas : Bool
  swap : Bool
  wide : Bool
  opnd : DWord
  newv : DWord
  deriving DecidableEq, Repr

/-- The end of a request to the host: data with its poison bit, or an abort of an AtomicOp (R370, R371, R386). -/
structure HostCompletion where
  id : Nat
  data : List Byte
  poison : Bool
  aborted : Bool
  deriving DecidableEq, Repr

/-- A reply to a landing bay: its bytes, or a void reply (R39, R44). -/
structure BayReply where
  data : Line
  void : Bool
  poison : Bool
  deriving DecidableEq, Repr

/-- One constructor per row of the opcode table: the instructions of the six streams, then the steps that units
and the outside world take. -/
inductive Instr where
  -- stream: conductor
  /-- `ADD`: R236. -/
  | add (d : BitVec 5) (a : BitVec 5) (b : BitVec 5)
  /-- `SUB`: R236. -/
  | sub (d : BitVec 5) (a : BitVec 5) (b : BitVec 5)
  /-- `MUL`: R236. -/
  | mul (d : BitVec 5) (a : BitVec 5) (b : BitVec 5)
  /-- `MULH`: R236. -/
  | mulh (d : BitVec 5) (a : BitVec 5) (b : BitVec 5)
  /-- `MULHU`: R236. -/
  | mulhu (d : BitVec 5) (a : BitVec 5) (b : BitVec 5)
  /-- `DIV`: R237. -/
  | div (d : BitVec 5) (a : BitVec 5) (b : BitVec 5)
  /-- `DIVU`: R237. -/
  | divu (d : BitVec 5) (a : BitVec 5) (b : BitVec 5)
  /-- `REM`: R237. -/
  | rem (d : BitVec 5) (a : BitVec 5) (b : BitVec 5)
  /-- `REMU`: R237. -/
  | remu (d : BitVec 5) (a : BitVec 5) (b : BitVec 5)
  /-- `AND`: R236. -/
  | and (d : BitVec 5) (a : BitVec 5) (b : BitVec 5)
  /-- `OR`: R236. -/
  | or (d : BitVec 5) (a : BitVec 5) (b : BitVec 5)
  /-- `XOR`: R236. -/
  | xor (d : BitVec 5) (a : BitVec 5) (b : BitVec 5)
  /-- `ANDN`: R236. -/
  | andn (d : BitVec 5) (a : BitVec 5) (b : BitVec 5)
  /-- `SHL`: R236. -/
  | shl (d : BitVec 5) (a : BitVec 5) (b : BitVec 5)
  /-- `SHR`: R236. -/
  | shr (d : BitVec 5) (a : BitVec 5) (b : BitVec 5)
  /-- `SRA`: R236. -/
  | sra (d : BitVec 5) (a : BitVec 5) (b : BitVec 5)
  /-- `ROTL`: R236. -/
  | rotl (d : BitVec 5) (a : BitVec 5) (b : BitVec 5)
  /-- `MIN`: R236. -/
  | min (d : BitVec 5) (a : BitVec 5) (b : BitVec 5)
  /-- `MAX`: R236. -/
  | max (d : BitVec 5) (a : BitVec 5) (b : BitVec 5)
  /-- `MINU`: R236. -/
  | minu (d : BitVec 5) (a : BitVec 5) (b : BitVec 5)
  /-- `MAXU`: R236. -/
  | maxu (d : BitVec 5) (a : BitVec 5) (b : BitVec 5)
  /-- `CLZ`: R236. -/
  | clz (d : BitVec 5) (a : BitVec 5)
  /-- `POPC`: R236. -/
  | popc (d : BitVec 5) (a : BitVec 5)
  /-- `SEQ`: R236. -/
  | seq (d : BitVec 5) (a : BitVec 5) (b : BitVec 5)
  /-- `SLT`: R236. -/
  | slt (d : BitVec 5) (a : BitVec 5) (b : BitVec 5)
  /-- `SLTU`: R236. -/
  | sltu (d : BitVec 5) (a : BitVec 5) (b : BitVec 5)
  /-- `SEL`: R236. -/
  | sel (d : BitVec 5) (a : BitVec 5) (b : BitVec 5)
  /-- `ADDI`: R238. -/
  | addi (d : BitVec 5) (a : BitVec 5) (i : BitVec 9)
  /-- `ANDI`: R238. -/
  | andi (d : BitVec 5) (a : BitVec 5) (i : BitVec 9)
  /-- `ORI`: R238. -/
  | ori (d : BitVec 5) (a : BitVec 5) (i : BitVec 9)
  /-- `XORI`: R238. -/
  | xori (d : BitVec 5) (a : BitVec 5) (i : BitVec 9)
  /-- `SHLI`: R238. -/
  | shli (d : BitVec 5) (a : BitVec 5) (i : BitVec 6)
  /-- `SHRI`: R238. -/
  | shri (d : BitVec 5) (a : BitVec 5) (i : BitVec 6)
  /-- `SRAI`: R238. -/
  | srai (d : BitVec 5) (a : BitVec 5) (i : BitVec 6)
  /-- `LI`: R239, W = 0. -/
  | li (d : BitVec 5) (i : BitVec 13)
  /-- `LI_WIDE`: R239, W = 1: the immediate is the extension word. -/
  | liWide (d : BitVec 5) (v : BitVec 32)
  /-- `LIH`: R239, W = 0. -/
  | lih (d : BitVec 5) (i : BitVec 13)
  /-- `LIH_WIDE`: R239, W = 1. -/
  | lihWide (d : BitVec 5) (v : BitVec 32)
  /-- `BEQ`: R240. -/
  | beq (a : BitVec 5) (b : BitVec 5) (o : BitVec 9)
  /-- `BNE`: R240. -/
  | bne (a : BitVec 5) (b : BitVec 5) (o : BitVec 9)
  /-- `BLT`: R240. -/
  | blt (a : BitVec 5) (b : BitVec 5) (o : BitVec 9)
  /-- `BGE`: R240. -/
  | bge (a : BitVec 5) (b : BitVec 5) (o : BitVec 9)
  /-- `BLTU`: R240. -/
  | bltu (a : BitVec 5) (b : BitVec 5) (o : BitVec 9)
  /-- `BGEU`: R240. -/
  | bgeu (a : BitVec 5) (b : BitVec 5) (o : BitVec 9)
  /-- `JMP`: R241. -/
  | jmp (a : BitVec 5) (t : BitVec 9)
  /-- `CALL`: R241. -/
  | call (d : BitVec 5) (a : BitVec 5) (t : BitVec 9)
  /-- `RET`: R241. -/
  | ret (a : BitVec 5)
  /-- `LPSET`: R242. -/
  | lpset (a : BitVec 5) (l : BitVec 1) (t : BitVec 9)
  /-- `LPBRK`: R243. -/
  | lpbrk (a : BitVec 5) (l : BitVec 1) (t : BitVec 9)
  /-- `LDS`: R244. -/
  | lds (d : BitVec 5) (c : BitVec 4) (sz : BitVec 3) (i : BitVec 7)
  /-- `STS`: R244. -/
  | sts (d : BitVec 5) (c : BitVec 4) (sz : BitVec 3) (i : BitVec 7)
  /-- `RLD`: R246. -/
  | rld (d : BitVec 4) (c : BitVec 4) (sz : BitVec 3) (i : BitVec 7)
  /-- `BAYRD`: R247. -/
  | bayrd (d : BitVec 5) (a : BitVec 4) (b : BitVec 5) (u : BitVec 1) (z : BitVec 2)
  /-- `ALIGN`: R106, R248. -/
  | align
  /-- `FENCE`: R108, R248. -/
  | fence (k : BitVec 3) (m : BitVec 9)
  /-- `AMO`: R249. -/
  | amo (d : BitVec 4) (a : BitVec 4) (b : BitVec 5) (z : BitVec 1) (o : BitVec 3)
  /-- `ACAS`: R250; b is half the even register number. -/
  | acas (d : BitVec 4) (a : BitVec 4) (b : BitVec 4) (z : BitVec 1)
  /-- `ARED`: R251. -/
  | ared (a : BitVec 4) (b : BitVec 5) (z : BitVec 1) (o : BitVec 3)
  /-- `CDERIVE`: R253. -/
  | cderive (d : BitVec 4) (a : BitVec 4) (b : BitVec 5) (m : BitVec 4)
  /-- `CBOUND`: R254. -/
  | cbound (d : BitVec 4) (a : BitVec 4) (b : BitVec 5)
  /-- `CFIELD`: R255. -/
  | cfield (d : BitVec 5) (a : BitVec 4) (f : BitVec 4)
  /-- `FORK`: R168, R256. -/
  | fork (r : BitVec 1) (i : BitVec 16)
  /-- `FORK_PF`: R167, R256. -/
  | forkPf (r : BitVec 1) (i : BitVec 16)
  /-- `RDV`: R171, R257. -/
  | rdv
  /-- `BARR`: R180, R258. -/
  | barr (t : BitVec 3)
  /-- `BWAIT`: R181, R258. -/
  | bwait (a : BitVec 5) (t : BitVec 3)
  /-- `BWAIT_P`: R181, R258, parity form. -/
  | bwaitP (a : BitVec 5) (t : BitVec 3)
  /-- `HSIG`: R185, R259. -/
  | hsig (n : BitVec 6)
  /-- `HSIG_LO`: R185, R259. -/
  | hsigLo (n : BitVec 6)
  /-- `HCHK`: R185, R259; k is the .keep form. -/
  | hchk (k : BitVec 1) (n : BitVec 6)
  /-- `PAUSE`: R260. -/
  | pause (i : BitVec 16)
  /-- `RESYNC`: R175, R261. -/
  | resync (i : BitVec 16)
  /-- `BOARD`: R262. -/
  | board (d : BitVec 5) (a : BitVec 5) (b : BitVec 5) (m : BitVec 4)
  /-- `WBSET`: R263. -/
  | wbset (d : BitVec 5) (a : BitVec 5) (b : BitVec 5) (m : BitVec 4)
  /-- `SIG`: R112, R264. -/
  | sig (k : BitVec 3) (f : BitVec 2) (n : BitVec 6)
  /-- `MBRECV`: R265. -/
  | mbrecv (d : BitVec 4)
  /-- `MBPOST`: R266. -/
  | mbpost (a : BitVec 5) (b : BitVec 4)
  /-- `CSR`: R267. -/
  | csr (d : BitVec 5) (o : BitVec 2) (n : BitVec 12)
  /-- `TRAP`: R268. -/
  | trap (i : BitVec 16)
  /-- `ERET`: R268, R382. -/
  | eret
  /-- `HALT`: R268. -/
  | halt
  /-- `RCSNAP`: R269. -/
  | rcsnap (d : BitVec 4) (a : BitVec 5)
  /-- `SMARK`: R270. -/
  | smark (k : BitVec 3) (i : BitVec 16)
  /-- `BCFG`: R179, R271. -/
  | bcfg (a : BitVec 4) (b : BitVec 5) (t : BitVec 3)
  /-- `RPT`: R222, R223: the repeat word; it may stand before an instruction of any stream. -/
  | rpt (p : BitVec 5) (n : BitVec 9) (d : BitVec 3) (a : BitVec 3) (b : BitVec 3)
  -- stream: vector
  /-- `VADD`: R276. -/
  | vadd (d : BitVec 6) (a : BitVec 6) (b : BitVec 6) (x : Option VExt)
  /-- `VSUB`: R276. -/
  | vsub (d : BitVec 6) (a : BitVec 6) (b : BitVec 6) (x : Option VExt)
  /-- `VMUL`: R276. -/
  | vmul (d : BitVec 6) (a : BitVec 6) (b : BitVec 6) (x : Option VExt)
  /-- `VFMA`: R276. -/
  | vfma (d : BitVec 6) (a : BitVec 6) (b : BitVec 6) (x : Option VExt)
  /-- `VFMS`: R276. -/
  | vfms (d : BitVec 6) (a : BitVec 6) (b : BitVec 6) (x : Option VExt)
  /-- `VMAX`: R276. -/
  | vmax (d : BitVec 6) (a : BitVec 6) (b : BitVec 6) (x : Option VExt)
  /-- `VMIN`: R276. -/
  | vmin (d : BitVec 6) (a : BitVec 6) (b : BitVec 6) (x : Option VExt)
  /-- `VABS`: R276. -/
  | vabs (d : BitVec 6) (a : BitVec 6) (x : Option VExt)
  /-- `VNEG`: R276. -/
  | vneg (d : BitVec 6) (a : BitVec 6) (x : Option VExt)
  /-- `VAND`: R276. -/
  | vand (d : BitVec 6) (a : BitVec 6) (b : BitVec 6) (x : Option VExt)
  /-- `VOR`: R276. -/
  | vor (d : BitVec 6) (a : BitVec 6) (b : BitVec 6) (x : Option VExt)
  /-- `VXOR`: R276. -/
  | vxor (d : BitVec 6) (a : BitVec 6) (b : BitVec 6) (x : Option VExt)
  /-- `VSHL`: R276. -/
  | vshl (d : BitVec 6) (a : BitVec 6) (b : BitVec 6) (x : Option VExt)
  /-- `VSHR`: R276. -/
  | vshr (d : BitVec 6) (a : BitVec 6) (b : BitVec 6) (x : Option VExt)
  /-- `VSRA`: R276. -/
  | vsra (d : BitVec 6) (a : BitVec 6) (b : BitVec 6) (x : Option VExt)
  /-- `VCMP`: R277. -/
  | vcmp (d : BitVec 3) (a : BitVec 6) (b : BitVec 6) (x : Option VExt)
  /-- `VSEL`: R278; the extension word is required. -/
  | vsel (d : BitVec 6) (a : BitVec 6) (b : BitVec 6) (x : VExt)
  /-- `PAND`: R279. -/
  | pand (d : BitVec 3) (a : BitVec 3) (b : BitVec 3)
  /-- `POR`: R279. -/
  | por (d : BitVec 3) (a : BitVec 3) (b : BitVec 3)
  /-- `PXOR`: R279. -/
  | pxor (d : BitVec 3) (a : BitVec 3) (b : BitVec 3)
  /-- `PNOT`: R279. -/
  | pnot (d : BitVec 3) (a : BitVec 3)
  /-- `VCVT`: R280; the extension word is required. -/
  | vcvt (d : BitVec 6) (a : BitVec 6) (x : VExt)
  /-- `VQUANT`: R281. -/
  | vquant (d : BitVec 6) (a : BitVec 6) (x : Option VExt)
  /-- `VDEQ`: R282. -/
  | vdeq (d : BitVec 6) (a : BitVec 6) (x : Option VExt)
  /-- `VSCALE`: R283. -/
  | vscale (d : BitVec 6) (a : BitVec 6) (b : BitVec 6) (x : Option VExt)
  /-- `VEXP2`: R284. -/
  | vexp2 (d : BitVec 6) (a : BitVec 6) (x : Option VExt)
  /-- `VRCP`: R284. -/
  | vrcp (d : BitVec 6) (a : BitVec 6) (x : Option VExt)
  /-- `VRSQ`: R284. -/
  | vrsq (d : BitVec 6) (a : BitVec 6) (x : Option VExt)
  /-- `VLOG2`: R284. -/
  | vlog2 (d : BitVec 6) (a : BitVec 6) (x : Option VExt)
  /-- `VREDSUM`: R286. -/
  | vredsum (d : BitVec 6) (a : BitVec 6) (b : BitVec 6) (x : Option VExt)
  /-- `VREDMAX`: R287. -/
  | vredmax (d : BitVec 6) (a : BitVec 6) (x : Option VExt)
  /-- `VSCAN`: R288. -/
  | vscan (d : BitVec 6) (a : BitVec 6) (b : BitVec 6) (x : Option VExt)
  /-- `VPERM`: R289. -/
  | vperm (d : BitVec 6) (a : BitVec 6) (b : BitVec 6) (x : Option VExt)
  /-- `VBCAST`: R289. -/
  | vbcast (d : BitVec 6) (a : BitVec 6) (x : Option VExt)
  /-- `VSLIDE`: R289. -/
  | vslide (d : BitVec 6) (a : BitVec 6) (b : BitVec 6) (x : Option VExt)
  /-- `VPACK`: R289. -/
  | vpack (d : BitVec 6) (a : BitVec 6) (b : BitVec 6) (x : Option VExt)
  /-- `VLD`: R290. -/
  | vld (d : BitVec 6) (c : BitVec 4) (i : BitVec 8) (x : Option VExt)
  /-- `VST`: R290. -/
  | vst (d : BitVec 6) (c : BitVec 4) (i : BitVec 8) (x : Option VExt)
  /-- `VGAT`: R292; the extension word is required. -/
  | vgat (d : BitVec 6) (c : BitVec 4) (i : BitVec 8) (x : VExt)
  /-- `VSCT`: R292; the extension word is required. -/
  | vsct (d : BitVec 6) (c : BitVec 4) (i : BitVec 8) (x : VExt)
  /-- `VRNG`: R294. -/
  | vrng (d : BitVec 6) (a : BitVec 6) (b : BitVec 6) (x : Option VExt)
  /-- `VDROP`: R294. -/
  | vdrop (d : BitVec 6) (a : BitVec 6) (b : BitVec 6) (x : Option VExt)
  /-- `VTOPK`: R295. -/
  | vtopk (d : BitVec 6) (a : BitVec 6) (b : BitVec 6) (x : Option VExt)
  /-- `VMOV`: R289. -/
  | vmov (d : BitVec 6) (a : BitVec 6) (x : Option VExt)
  /-- `VLI`: R289. -/
  | vli (d : BitVec 6) (i : BitVec 12) (x : Option VExt)
  /-- `VLSE`: R296. -/
  | vlse (d : BitVec 6) (a : BitVec 6) (b : BitVec 6) (x : Option VExt)
  /-- `VPUSH`: R297. -/
  | vpush (a : BitVec 6) (x : Option VExt)
  /-- `VPOP`: R297. -/
  | vpop (d : BitVec 6) (x : Option VExt)
  -- stream: matrix
  /-- `MFMT`: R299; w is the new MXFMT[31:19]. -/
  | mfmt (w : BitVec 13)
  /-- `MZERO`: R307. -/
  | mzero (t : BitVec 3) (u : BitVec 3)
  /-- `MMA`: R300, R304. -/
  | mma (t : BitVec 3) (u : BitVec 3) (f : BitVec 1) (w : BitVec 2) (c : BitVec 2) (x : MExt)
  /-- `MMAW`: R300, R304. -/
  | mmaw (t : BitVec 3) (u : BitVec 3) (f : BitVec 1) (r : BitVec 1) (w : BitVec 2) (c : BitVec 2) (x : MExt)
  /-- `MMAT`: R300, R304. -/
  | mmat (t : BitVec 3) (u : BitVec 3) (f : BitVec 1) (w : BitVec 2) (c : BitVec 2) (x : MExt)
  /-- `MWAIT`: R306. -/
  | mwait (t : BitVec 3) (n : BitVec 6)
  /-- `MRD`: R307. -/
  | mrd (t : BitVec 3) (v : BitVec 5) (r : BitVec 6) (x : Option RowExt)
  /-- `MWR`: R307. -/
  | mwr (t : BitVec 3) (v : BitVec 5) (r : BitVec 6) (x : Option RowExt)
  /-- `MVOC`: R300, R317. -/
  | mvoc (t : BitVec 3) (u : BitVec 3) (f : BitVec 1) (l : BitVec 1) (w : BitVec 2) (c : BitVec 2) (x : MExt)
  /-- `MVOCB_FWD`: R321. -/
  | mvocbFwd (t : BitVec 3) (u : BitVec 3) (f : BitVec 1) (l : BitVec 1) (w : BitVec 2) (c : BitVec 2) (x : MExt)
  /-- `MVOCB_BWD`: R322. -/
  | mvocbBwd (t : BitVec 3) (u : BitVec 3) (f : BitVec 1) (p : BitVec 3) (w : BitVec 2) (c : BitVec 2) (x : MExt)
  /-- `HMERGE`: R320; lo = 1 is the .lo form. -/
  | hmerge (lo : BitVec 1) (v : BitVec 6) (row : BitVec 6)
  /-- `HREAD`: R319. -/
  | hread (v : BitVec 6) (row : BitVec 6)
  /-- `MAPLD`: R312; mw is MW - 1. -/
  | mapld (s : BitVec 2) (gen : BitVec 6) (mw : BitVec 3) (c : BitVec 4) (rse : BitVec 1) (sem : BitVec 6)
  /-- `MNORM`: R318; m 0 .init, 1 .nrm, 2 .get. -/
  | mnorm (m : BitVec 2) (v : BitVec 6) (row : BitVec 6)
  -- stream: copy
  /-- `CPY`: R324, R325. -/
  | cpy (d : BitVec 16)
  /-- `CPYF`: R326. -/
  | cpyf (d : BitVec 16) (x : Option MapTag)
  /-- `CPYT`: R325. -/
  | cpyt (d : BitVec 16)
  /-- `CPYW`: R327. -/
  | cpyw (d : BitVec 16)
  /-- `CPYR`: R325. -/
  | cpyr (d : BitVec 16)
  /-- `CWP`: R328. -/
  | cwp (c : BitVec 1) (h : BitVec 6) (m : BitVec 4) (x : Option (BitVec 32))
  /-- `CWAIT`: R328. -/
  | cwait (c : BitVec 1) (m : BitVec 4) (x : Option (BitVec 32))
  /-- `CHEAD`: R329. -/
  | chead (h : BitVec 6) (a : BitVec 4)
  /-- `CMAP`: R330; n is CHUNKS - 1. -/
  | cmap (k : BitVec 3) (a : BitVec 4) (n : BitVec 8)
  /-- `CMWAIT`: R331; t = 1 is the test form. -/
  | cmwait (k : BitVec 3) (hs : BitVec 6) (t : BitVec 1) (h : BitVec 3) (v : BitVec 32)
  /-- `CFENCE`: R332. -/
  | cfence (k : BitVec 3) (m : BitVec 9)
  /-- `CABORT`: R333, form cabort chC. -/
  | cabort (c : BitVec 1)
  /-- `CABORT_BT`: R333, form cabort.bt. -/
  | cabortBt (h : BitVec 6)
  -- stream: tap
  /-- `LTAP`: R336. -/
  | ltap (l : BitVec 5) (k : BitVec 3) (i : BitVec 10) (x : Option (BitVec 32))
  /-- `LDRIVE`: R337; h is the span. -/
  | ldrive (l : BitVec 5) (k : BitVec 3) (i : BitVec 10) (h : BitVec 7)
  /-- `LFWD`: R338; h is the span. -/
  | lfwd (l : BitVec 5) (o : BitVec 5) (h : BitVec 7)
  /-- `LSEL`: R339. -/
  | lsel (i : BitVec 6) (c : BitVec 4) (x : Option (BitVec 32))
  /-- `LIDLE`: R339. -/
  | lidle (n : BitVec 10)
  /-- `LCFG`: R339. -/
  | lcfg (w : BitVec 4)
  -- stream: fabric
  /-- `FPUT`: R342. -/
  | fput (d : BitVec 16)
  /-- `FGET`: R342. -/
  | fget (d : BitVec 16)
  /-- `FAMO`: R344. -/
  | famo (d : BitVec 16)
  /-- `FACAS`: R344. -/
  | facas (d : BitVec 16)
  /-- `FMCAST`: R345. -/
  | fmcast (d : BitVec 16)
  /-- `FRED`: R342. -/
  | fred (d : BitVec 16)
  /-- `GLOAD`: R347. -/
  | gload (d : BitVec 16)
  /-- `GRUN`: R347. -/
  | grun (d : BitVec 16)
  /-- `GPATCH`: R347. -/
  | gpatch (d : BitVec 16)
  /-- `GSTAT`: R348. -/
  | gstat (h : BitVec 6) (d : BitVec 4)
  /-- `GABORT`: R349. -/
  | gabort (h : BitVec 6)
  /-- `FBAR`: R350. -/
  | fbar (h : BitVec 6) (m : BitVec 6)
  /-- `RINGCFG`: R354. -/
  | ringcfg (k : BitVec 3) (f : BitVec 9) (v : BitVec 32)
  /-- `RINGBYP`: R355. -/
  | ringbyp (k : BitVec 3) (s : BitVec 1) (f : BitVec 9)
  /-- `RINGINJ`: R356. -/
  | ringinj (d : BitVec 16)
  /-- `FSYNC`: R351. -/
  | fsync (k : BitVec 3) (m : BitVec 9)
  -- steps of units and of the outside world
  /-- `REPEAT_ITERATION`: one iteration of a repeat at its own nominal cycle (R224). -/
  | repeatIteration (k : Stn) (e : Engine)
  /-- `ARRAY_OPERATION_COMPLETE`: the array operations that complete in this nominal cycle (R304). -/
  | arrayOperationComplete (k : Stn)
  /-- `MAP_TABLE_LATCH`: the map table read by `mapld` is latched and judged (R312). -/
  | mapTableLatch (k : Stn) (slot : Nat)
  /-- `MAP_INSTALL`: a pending map table is installed (R312). -/
  | mapInstall (k : Stn) (slot : Nat)
  /-- `FETCH_LINE`: the fetch unit reads and dispatches its next line (R213). -/
  | fetchLine (k : Stn)
  /-- `ISSUE_GROUP`: the issue group of a nominal cycle, or a frozen cycle (R170, R173). -/
  | issueGroup (k : Stn)
  /-- `SCALAR_RESULT_WRITE`: the conductor's results that are due (R233). -/
  | scalarResultWrite (k : Stn)
  /-- `VECTOR_RESULT_WRITE`: the vector and matrix results that are due (R273). -/
  | vectorResultWrite (k : Stn)
  /-- `TIMED_ACCESS_PERFORM`: a timed line access in its array or channel cycle (R60). -/
  | timedAccessPerform (id : Nat)
  /-- `TIMED_REPLY_DELIVER`: a reply or a refusal status becomes usable (R55). -/
  | timedReplyDeliver (id : Nat)
  /-- `TIMED_STACK_REQUEST`: a timed stack request reaches the memory port (R58). -/
  | timedStackRequest (id : Nat)
  /-- `UNTIMED_PART_PERFORM`: a part of an untimed operation is translated and performed (R102). -/
  | untimedPartPerform (id : Nat) (part : Nat)
  /-- `BAY_REPLY_LAND`: a reply lands in a bay (R44). -/
  | bayReplyLand (k : Stn) (bay : Nat) (r : BayReply)
  /-- `COPY_TIMED_PIECE`: a timed copy issues its next piece (R127). -/
  | copyTimedPiece (k : Stn) (ch : Nat)
  /-- `FIFO_LINE_APPEND`: the next line of a copy is appended to its operand FIFO (R131). -/
  | fifoLineAppend (k : Stn) (ch : Nat)
  /-- `SLACK_READ`: the data of a slack read land (R151). -/
  | slackRead (k : Stn)
  /-- `BT_CHAIN_RECORD`: a block-transfer channel takes the next record of its chain (R134). -/
  | btChainRecord (ch : Nat)
  /-- `BT_HAND_BACK`: a finished record is handed back (R135). -/
  | btHandBack (ch : Nat)
  /-- `TRANSPORT_HEAD_READ`: the transport reads a beat at the head and drives it (R147). -/
  | transportHeadRead (line : Nat)
  /-- `TAIL_WRITE`: an arrived beat is written at the tail (R147). -/
  | tailWrite (line : Nat)
  /-- `SEGMENT_CRC_VERDICT`: the CRC verdict of a segment is known (R143). -/
  | segmentCrcVerdict (line : Nat) (frame : Nat)
  /-- `LINK_LOST`: an input port declares its link lost (R162). -/
  | linkLost (line : Nat)
  /-- `RING_STATE_TRANSITION`: a transition of the repair table (R163). -/
  | ringStateTransition (kind : Nat) (qm : Nat) (lnk : Nat) (trim : Nat) (toff : Option Nat)
  /-- `RING_CONFIG_EFFECTIVE`: a `ringcfg` change takes effect at its frame (R354). -/
  | ringConfigEffective
  /-- `RING_INJECTION_STAGED`: the segment of a `ringinj` has been read (R356). -/
  | ringInjectionStaged (entry : Nat) (data : List Byte)
  /-- `COACHMAN_FRAME`: the coachman computes the boarded sets of a frame (R156). -/
  | coachmanFrame (cl : Nat)
  /-- `COACHMAN_TABLE_UPDATE`: the coachman performs the table writes of a cycle (R262). -/
  | coachmanTableUpdate (cl : Nat)
  /-- `COACHMAN_PRESENT`: a frame's boarding result reaches a station (R157). -/
  | coachmanPresent (k : Stn)
  /-- `TIMETABLE_SLIP_CHECK`: the lag of a station is judged at its slip cycle (R177). -/
  | timetableSlipCheck (k : Stn)
  /-- `TEAM_SLIP_TRAP`: a team-mate of a slipped station takes subcode 0x2 (R177). -/
  | teamSlipTrap (k : Stn)
  /-- `BARRIER_PHASE_COMPLETE`: a phase of a route tag completes (R180). -/
  | barrierPhaseComplete (tag : Nat)
  /-- `BUDGET_EXPIRY`: a task's budget runs out (R194). -/
  | budgetExpiry (k : Stn)
  /-- `CHECKPOINT`: a station reaches a checkpoint at which it holds (R198). -/
  | checkpoint (k : Stn)
  /-- `PREEMPT_HALT`: a held station halts (R202). -/
  | preemptHalt (k : Stn)
  /-- `SAVE_IMAGE`: a halted station writes its save image (R204). -/
  | saveImage (k : Stn)
  /-- `REDIRECTED_REPLY`: a reply meets a redirect entry (R208). -/
  | redirectedReply (ctx : Nat) (k : Stn) (bay : Nat) (r : BayReply)
  /-- `RESTORE_LOAD`: a station has loaded its image (R209). -/
  | restoreLoad (k : Stn)
  /-- `TEAM_RESUME`: a restored team resumes (R210). -/
  | teamResume (p : Nat) (team : Nat)
  /-- `RECOVERY_POINT_SAVE`: a station writes its recovery image (R390). -/
  | recoveryPointSave (k : Stn)
  /-- `RECOVERY_POINT_COMMIT`: a team's recovery point commits (R390). -/
  | recoveryPointCommit (p : Nat) (team : Nat)
  /-- `ROLLBACK_RESTORE`: a team is restored from its recovery point (R392). -/
  | rollbackRestore (p : Nat) (team : Nat)
  /-- `TRAP_ENTRY`: a station enters its trap handler (R378). -/
  | trapEntry (k : Stn)
  /-- `SIG_FIRE`: the oldest signal of a station fires (R264). -/
  | sigFire (k : Stn)
  /-- `SIG_FLAG_STORE`: the oldest flag store of a station is performed (R264). -/
  | sigFlagStore (k : Stn)
  /-- `FABRIC_COMMAND_ACCEPT`: the oldest waiting fabric command enters the command queue (R340). -/
  | fabricCommandAccept
  /-- `FABRIC_WRITE_BACK`: a fabric command writes its descriptor back (R340). -/
  | fabricWriteBack (id : Nat)
  /-- `FABRIC_RESEND`: an unanswered packet is sent again (R361). -/
  | fabricResend (idx : Nat)
  /-- `FABRIC_TIMEOUT`: a packet is given up after the fabric time-out (R361). -/
  | fabricTimeout (idx : Nat)
  /-- `GRAPH_BARRIER_ARRIVAL`: a barrier arrival of a graph's group (R350). -/
  | graphBarrierArrival (rank : Nat) (group : Nat) (phase : Nat)
  /-- `GRAPH_SIGNAL`: a signal of a graph operation (R369). -/
  | graphSignal (group : Nat) (op : Nat)
  /-- `GRAPH_REPLAY_START`: a replay starts (R347). -/
  | graphReplayStart (slot : Nat)
  /-- `GRAPH_OPERATION_START`: an operation of a replay starts (R369). -/
  | graphOperationStart (slot : Nat) (op : Nat)
  /-- `GRAPH_OPERATION_FINISH`: an operation of a replay finishes (R369). -/
  | graphOperationFinish (slot : Nat) (op : Nat)
  /-- `GRAPH_REPLAY_END`: a replay ends (R347). -/
  | graphReplayEnd (slot : Nat)
  /-- `GRAPH_STALL_TIMEOUT`: a replay has made no progress for the time-out (R369). -/
  | graphStallTimeout (slot : Nat)
  /-- `MIGRATION_EPOCH_START`: a migration epoch begins (R118). -/
  | migrationEpochStart
  /-- `MIGRATION_MOVE`: a triggered move of a page is carried out: 0 from here, 1 to here, 2 away from here, 3
  between peers; `dobj` and `dpage` name the page drawn elsewhere, and in role 1 `dobj` is the number of moves of the epoch (R119). -/
  | migrationMove (role : Nat) (p : Nat) (obj : Nat) (page : Nat) (node : Nat) (dobj : Nat) (dpage : Nat) (data : List Byte)
  /-- `HOST_MAILBOX_POST`: a host post to a mailbox (R374). -/
  | hostMailboxPost (mb : Nat) (aligned : Bool) (data : List Byte)
  /-- `TELEMETRY_SAMPLE`: a program-counter sample of a partition (R401). -/
  | telemetrySample (p : Nat)
  /-- `PIN_FILL_COMPLETE`: a pin-table fill completes (R33). -/
  | pinFillComplete (k : Stn)
  /-- `OTINV_COMPLETE`: an invalidation completes (R38). -/
  | otinvComplete (p : Nat)
  /-- `PARTITION_START`: the service processor starts a partition (R188). -/
  | partitionStart (p : Nat) (cfg : PartCfg)
  /-- `RING_BRING_UP`: the service processors bring the ring up (R160). -/
  | ringBringUp (cfg : RingCfg)
  /-- `RING_BEAT_ARRIVAL`: a beat reaches the input port (R147). -/
  | ringBeatArrival (line : Nat) (beat : Beat) (good : Bool)
  /-- `FABRIC_REQUEST_ARRIVAL`: a request packet arrives from a peer (R362). -/
  | fabricRequestArrival (pkt : Packet)
  /-- `FABRIC_REPLY_ARRIVAL`: a reply packet arrives from a peer (R361). -/
  | fabricReplyArrival (pkt : Packet)
  /-- `PLANE_DOWN`: a fabric port loses its link (R358). -/
  | planeDown (plane : Nat)
  /-- `HOST_WINDOW_ACCESS`: a host access through the window (R372). -/
  | hostWindowAccess (a : HostAccess)
  /-- `HOST_ATOMIC`: a host atomic through BAR2 (R373). -/
  | hostAtomic (a : HostAtomic)
  /-- `HOST_POST_WINDOW_READ`: a host read of a post window (R374). -/
  | hostPostWindowRead (mb : Nat)
  /-- `THERMAL_THRESHOLD`: the hottest sensor reading (R409). -/
  | thermalThreshold (temp : Nat)
  /-- `BOOT`: measured boot and bring-up (R404). -/
  | boot (images : List (List Byte)) (node : Nat) (planes : Nat)
  /-- `ATTESTATION_REQUEST`: an attestation request (R405). -/
  | attestationRequest (nonce : List Byte) (parts : List Nat)
  /-- `FIRMWARE_ACTIVATION`: a firmware image is staged, or activated on a unit, named by its kind and number (R406). -/
  | firmwareActivation (image : Firmware) (failed : Bool)
  /-- `PIN_FILL`: PINCTL is written with GO = 1 (R33). -/
  | pinFill (k : Stn) (v : Nat)
  /-- `OTINV`: OTINV is written (R38). -/
  | otinv (k : Stn) (v : DWord)
  /-- `BTHEAD_WRITE`: BTHEAD is written (R132). -/
  | btheadWrite (ch : Nat) (bits : BitVec 128) (tag : Bool)
  /-- `PKRETRY`: PKRETRY is written (R139). -/
  | pkretry (p : Nat)
  /-- `CFST_RESUME`: 1 is written to CFST.PK (R140). -/
  | cfstResume (k : Stn) (ch : Nat)
  /-- `SSSTAT_WRITE`: SSSTAT is written (R76). -/
  | ssstatWrite (k : Stn) (u : Nat) (v : DWord)
  /-- `SSCFG_WRITE`: SSCFG is written (R76). -/
  | sscfgWrite (k : Stn) (u : Nat) (v : DWord)
  /-- `MIGFREE_PUSH`: MIGFREE is written (R117). -/
  | migfreePush (p : Nat) (v : DWord)
  /-- `MBCFG_WRITE`: MBCFG is written (R190). -/
  | mbcfgWrite (k : Stn) (v : DWord)
  /-- `TDQ_WRITE`: TDQ is written (R192). -/
  | tdqWrite (k : Stn) (v : DWord)
  /-- `TSKCUR_WRITE`: TSKCUR is written (R193). -/
  | tskcurWrite (k : Stn) (v : DWord)
  /-- `HCFG_WRITE`: HCFG is written (R314). -/
  | hcfgWrite (k : Stn) (v : DWord)
  /-- `PREREQ`: PREREQ is written (R201). -/
  | prereq (k : Stn) (v : DWord)
  /-- `PRRST`: PRRST is written (R209). -/
  | prrst (k : Stn) (v : DWord)
  /-- `RBREQ`: RBREQ is written (R392). -/
  | rbreq (k : Stn) (v : DWord)
  /-- `HOST_SNOOP`: a host snoop (R370). -/
  | hostSnoop (addr : Nat)
  /-- `HOST_COMPLETION`: the end of a request to the host (R371). -/
  | hostCompletion (c : HostCompletion)
  /-- `FABRIC_BRING_UP`: the fabric of a pair is brought up again (R362). -/
  | fabricBringUp (node : Nat)
  /-- `UNIT_FENCING`: a unit is fenced: 0 a team, 1 a memory port, 2 a fabric plane, 3 a ring member (R396). -/
  | unitFencing (kind : Nat) (unit : Nat)
  /-- `PARTITION_END`: a partition ends (R39). -/
  | partitionEnd (p : Nat)
  deriving DecidableEq, Repr

end Sys2Proof
end

