-- ==== Sys2Proof/WellFormed.lean ====
section
/-!
DEFINITION. Well-formed instructions: check 4 of R216 on the values of the fields.
-/

namespace Sys2Proof

/-- Bits [lo + n - 1 : lo] of the instruction-specific field of an extension word (R220). -/
def VExt.bits (e : VExt) (lo n : Nat) : Nat := e.low.toNat / 2 ^ lo % 2 ^ n

/-- Bit k of the instruction-specific field (R220). -/
def VExt.bit (e : VExt) (k : Nat) : Bool := e.low.getLsbD k

/-- No bit is set outside the mask of the bits that the instruction defines (R220). -/
def VExt.lowMask (e : VExt) (m : Nat) : Bool := e.low &&& ~~~(BitVec.ofNat 22 m) == 0

/-- The element type is one of those that the instruction accepts (R272). -/
def VExt.tIn (e : VExt) (ts : List Nat) : Bool := ts.contains e.t.toNat

/-- INT32 and raw forms have no rounding step and need RM = 00 (R272, R276). -/
def VExt.rmFor (e : VExt) : Bool := e.t == 0xD || e.rm == 0

/-- The extension word that NX = 0 stands for: all zero but for the instruction's default type (R220). -/
def VExt.default (t : Nat) : VExt := ⟨0, 0, BitVec.ofNat 4 t, 0, 0⟩

/-- The extension word in force, with the instruction's default type (R220). -/
def vext (x : Option VExt) (t : Nat) : VExt := x.getD (VExt.default t)

/-- A check on the extension word in force. -/
def vx (x : Option VExt) (t : Nat) (p : VExt → Bool) : Bool := p (vext x t)

/-- The slice limits of `vcvt`: 4-byte formats slice 0, 2-byte formats 0 or 1, 1-byte formats 0 to 3 (R280). -/
def sliceOk (fmt slice : Nat) : Bool :=
  if fmt == 0xD || fmt == 0xE then slice == 0 else if fmt == 0xA || fmt == 0xB then decide (slice < 2) else decide (slice < 4)

/-- A scope code that R98 assigns: 5 to 7 are reserved. -/
def scopeOk (k : BitVec 3) : Bool := decide (k.toNat < 5)

/-- W is not 11 and the column base lies below 128 / NCOL (R300). -/
def colsOk (w c : BitVec 2) : Bool := w != 3 && decide (c.toNat < 2 ^ w.toNat)

/-- Extension words of an array operation. -/
def MExt.words : MExt → Nat
  | .none => 0
  | .g _ => 1
  | .gk .. => 2

/-- FIRST needs the index of the chunk: with NX = 0 it fails check 1 of R303. -/
def firstOk (f : BitVec 1) (x : MExt) : Bool := f == 0 || decide (0 < x.words)

/-- V0 is reserved outside `mvoc` and `mvocb.fwd` (R300). -/
def MExt.v0Zero : MExt → Bool
  | .none => true
  | .g _ => true
  | .gk _ v0 _ => v0 == 0

/-- A weight lane: 0 to 3 and 16 to 19 (R52). -/
def weightLane (l : BitVec 5) : Bool := decide (l.toNat % 16 < 4)

/-- A span that `ldrive` and `lfwd` accept (R337). -/
def spanOk (h : BitVec 7) : Bool := decide (1 ≤ h.toNat) && decide (h.toNat ≤ 103)

/-- Check 4 of R216 on the fields themselves: no field holds a value that its description declares reserved, and no
register field names a register beyond its file. A step that no encoding names is well formed. -/
def Instr.wf : Instr → Bool
  | .lds d _ sz _ => sz != 7 || d.toNat < 16
  | .sts d _ sz _ => (sz.toNat < 4 || sz == 7) && (sz != 7 || d.toNat < 16)
  | .rld _ _ sz _ => decide (sz.toNat < 5)
  | .fence k _ => scopeOk k
  | .amo _ _ _ z o => !(o == 7 && z == 1)
  | .ared _ _ z o => o != 6 && !(o == 7 && z == 1)
  | .cderive _ _ b m => decide (m.toNat < 3) || (decide (m.toNat < 6) && b == 0)
  | .cfield _ _ f => decide (f.toNat < 8)
  | .fork r i => r == 0 || decide (i.toNat < 32)
  | .forkPf r i => r == 0 || decide (i.toNat < 32)
  | .board d _ b m => decide (m.toNat < 6) && (m == 4 || d == 0) && (m == 0 || m == 3 || b == 0)
  | .wbset d _ b m => decide (m.toNat < 4) && (if m == 2 then d.toNat % 2 == 0 else d == 0) && (if m == 0 then b.toNat % 2 == 0 else b == 0)
  | .sig k f n => scopeOk k && (match f.toNat with | 0 => n == 0 | 1 => true | 2 => decide (n.toNat < 16) | _ => false)
  | .csr _ o _ => o != 3
  | .rpt p _ _ _ _ => p != 0 && p != 31
  | .vadd _ _ _ x => vx x 0xD fun e => e.tIn [0xD, 0xE] && e.rmFor && e.lowMask 0x200000 && (e.bit 21 == false || e.t == 0xE)
  | .vsub _ _ _ x => vx x 0xD fun e => e.tIn [0xD, 0xE] && e.rmFor && e.lowMask 0x200000 && (e.bit 21 == false || e.t == 0xE)
  | .vmul _ _ _ x => vx x 0xD fun e => e.tIn [0xD, 0xE] && e.rmFor && e.lowMask 0x200000 && (e.bit 21 == false || e.t == 0xE)
  | .vfma _ _ _ x => vx x 0xD fun e => e.tIn [0xD, 0xE] && e.rmFor && e.lowMask 0x200000 && (e.bit 21 == false || e.t == 0xE)
  | .vfms _ _ _ x => vx x 0xD fun e => e.tIn [0xD, 0xE] && e.rmFor && e.lowMask 0x200000 && (e.bit 21 == false || e.t == 0xE)
  | .vmax _ _ _ x => vx x 0xD fun e => e.tIn [0xD, 0xE] && e.rm == 0 && e.lowMask 0x100000 && (e.bit 20 == false || e.t == 0xE)
  | .vmin _ _ _ x => vx x 0xD fun e => e.tIn [0xD, 0xE] && e.rm == 0 && e.lowMask 0x100000 && (e.bit 20 == false || e.t == 0xE)
  | .vabs _ _ x => vx x 0xD fun e => e.tIn [0xD, 0xE] && e.rm == 0 && e.lowMask 0x200000 && (e.bit 21 == false || e.t == 0xE)
  | .vneg _ _ x => vx x 0xD fun e => e.tIn [0xD, 0xE] && e.rm == 0 && e.lowMask 0x200000 && (e.bit 21 == false || e.t == 0xE)
  | .vand _ _ _ x => vx x 0 fun e => e.tIn [0x0] && e.rm == 0 && e.low == 0
  | .vor _ _ _ x => vx x 0 fun e => e.tIn [0x0] && e.rm == 0 && e.low == 0
  | .vxor _ _ _ x => vx x 0 fun e => e.tIn [0x0] && e.rm == 0 && e.low == 0
  | .vshl _ _ _ x => vx x 0 fun e => e.tIn [0x0] && e.rm == 0 && e.low == 0
  | .vshr _ _ _ x => vx x 0 fun e => e.tIn [0x0] && e.rm == 0 && e.low == 0
  | .vsra _ _ _ x => vx x 0 fun e => e.tIn [0x0] && e.rm == 0 && e.low == 0
  | .vcmp _ _ _ x => vx x 0xD fun e => e.tIn [0xD, 0xE] && e.rm == 0 && e.lowMask 0x380000 && !(e.bits 19 3 == 6 && e.t == 0xE) && !(e.bits 19 3 == 7 && e.t == 0xD)
  | .vsel _ _ _ x => x.tIn [0x0] && x.qe == 1 && x.rm == 0 && x.low == 0
  | .vcvt _ _ x => x.tIn [0xD, 0xE, 0xA, 0xB, 0x8, 0xC] && [0xD, 0xE, 0xA, 0xB, 0x8, 0xC].contains (x.bits 18 4) && x.lowMask 0x3FC000 && sliceOk (x.bits 18 4) (x.bits 16 2) && sliceOk x.t.toNat (x.bits 14 2)
  | .vquant _ _ x => vx x 0 fun e => e.tIn [1, 2, 3, 4, 5, 6, 7, 8, 9] && e.qe == 0 && e.rm == 0 && e.lowMask 0x3FFF00 && e.bits 20 2 != 3 && (e.t.toNat < 8 || (e.bits 20 2 == 0 && !e.bit 19))
  | .vdeq _ _ x => vx x 0 fun e => e.tIn [1, 2, 3, 4, 5, 6, 7, 8, 9] && e.rm == 0 && e.lowMask 0x30FF00 && e.bits 20 2 != 3 && (e.t.toNat < 8 || e.bits 20 2 == 0)
  | .vscale _ _ _ x => vx x 0xD fun e => e.tIn [0xD] && e.low == 0
  | .vexp2 _ _ x => vx x 0xD fun e => e.tIn [0xD] && e.low == 0
  | .vrcp _ _ x => vx x 0xD fun e => e.tIn [0xD] && e.low == 0
  | .vrsq _ _ x => vx x 0xD fun e => e.tIn [0xD] && e.low == 0
  | .vlog2 _ _ x => vx x 0xD fun e => e.tIn [0xD] && e.low == 0
  | .vredsum _ _ b x => vx x 0xD fun e => e.tIn [0xD, 0xE] && e.qe == 0 && e.rm == 0 && e.lowMask 0x3FF000 && e.bits 20 2 != 3 && (e.bits 20 2 == 0 || e.bits 12 8 == 0) && (e.bits 20 2 != 2 || b == 0)
  | .vredmax _ _ x => vx x 0xD fun e => e.tIn [0xD, 0xE] && e.rm == 0 && e.low == 0
  | .vscan _ _ _ x => vx x 0xD fun e => e.tIn [0xD, 0xE] && e.rm == 0 && e.low == 0
  | .vperm _ _ _ x => vx x 0 fun e => e.tIn [0x0] && e.rm == 0 && e.low == 0
  | .vbcast _ _ x => vx x 0 fun e => e.tIn [0x0] && e.rm == 0 && e.lowMask 0x3F0000
  | .vslide _ _ _ x => vx x 0 fun e => e.tIn [0x0] && e.rm == 0 && e.lowMask 0x3F8000 && e.bits 15 7 != 64
  | .vpack _ _ b x => vx x 0 fun e => e.tIn [0x0] && e.qe == 0 && e.rm == 0 && e.lowMask (if e.bits 20 2 == 3 then 0x3C0000 else if e.bits 20 2 == 2 then 0x380000 else 0x300000) && (e.bits 20 2 < 2 || b == 0)
  | .vld _ _ _ x => vx x 0 fun e => e.tIn [0x0, 0xD, 0xE] && e.lowMask 0x3C0000 && (e.t != 0 || e.rm == 0)
  | .vst _ _ _ x => vx x 0 fun e => e.tIn [0x0, 0xD, 0xE] && e.lowMask 0x3C0000 && (e.t != 0 || e.rm == 0)
  | .vgat _ _ _ x => x.tIn [0x0, 0xD, 0xE] && x.lowMask 0x3F0000 && (x.t != 0 || x.rm == 0)
  | .vsct _ _ _ x => x.tIn [0x0, 0xD, 0xE] && x.lowMask 0x3F0000 && (x.t != 0 || x.rm == 0)
  | .vrng _ _ _ x => vx x 0 fun e => e.tIn [0x0] && e.rm == 0 && e.lowMask 0x200000
  | .vdrop _ _ _ x => vx x 0xD fun e => e.tIn [0xD] && e.lowMask 0x3C0000
  | .vtopk _ _ _ x => vx x 0xD fun e => e.tIn [0xD] && e.rm == 0 && e.lowMask 0x3F0000
  | .vmov _ _ x => vx x 0 fun e => e.tIn [0x0] && e.rm == 0 && e.low == 0
  | .vli _ _ x => vx x 0xE fun e => e.rm == 0 && (if e.t == 0xE then e.lowMask 0x200000 else if e.t == 0xD then e.low == 0 else e.t == 0x0 && e.lowMask 0x0FFFFF)
  | .vlse _ _ _ x => vx x 0xD fun e => e.tIn [0xD] && e.rm == 0 && e.lowMask 0x200000 && (e.bit 21 == false || e.qe == 0)
  | .vpush _ x => vx x 0 fun e => e.tIn [0x0] && e.qe == 0 && e.rm == 0 && e.lowMask 0x200000
  | .vpop _ x => vx x 0 fun e => e.tIn [0x0] && e.qe == 0 && e.rm == 0 && e.lowMask 0x200000
  | .mma _ _ f w c x => colsOk w c && firstOk f x && x.v0Zero
  | .mmaw _ _ f _ w c x => colsOk w c && firstOk f x && x.v0Zero
  | .mmat _ _ f w c x => colsOk w c && firstOk f x && x.v0Zero
  | .mrd _ _ _ x => match x with | none => true | some e => e.st == 1 || e.col == 0
  | .mwr _ _ _ x => match x with | none => true | some e => e.st == 1 || e.col == 0
  | .mvoc _ _ f l w c x => colsOk w c && firstOk f x && (l == 0 || x.words == 2)
  | .mvocbFwd _ _ f l w c x => colsOk w c && firstOk f x && (l == 0 || x.words == 2)
  | .mvocbBwd t _ f _ w c x => colsOk w c && firstOk f x && x.v0Zero && t.toNat % 2 == 0
  | .mapld _ _ mw _ _ _ => mw != 0
  | .mnorm m _ _ => m != 3
  | .cmwait _ hs t _ _ => t == 1 || hs == 0
  | .cfence k _ => scopeOk k
  | .ltap l k i x => match k.toNat with | 0 | 1 => i == 0 && x.isNone | 2 => i == 0 && (match x with | none => true | some v => !weightLane l && v.toNat % 8388608 == 0) | 3 => x.isNone || decide (i.toNat < 16) | _ => false
  | .ldrive _ k i h => (k == 3 || (k == 0 && i == 0)) && spanOk h
  | .lfwd _ _ h => spanOk h
  | .lsel i _ x => x.isNone || i == 0
  | .lcfg w => decide (w.toNat < 13)
  | .ringcfg k _ _ => decide (k.toNat < 2)
  | .ringbyp k _ _ => decide (k.toNat < 3)
  | .fsync k _ => scopeOk k
  | .add .. | .sub .. | .mul .. | .mulh .. | .mulhu .. | .div .. | .divu .. | .rem .. | .remu ..
  | .and .. | .or .. | .xor .. | .andn .. | .shl .. | .shr .. | .sra .. | .rotl .. | .min .. | .max ..
  | .minu .. | .maxu .. | .clz .. | .popc .. | .seq .. | .slt .. | .sltu .. | .sel .. | .addi .. | .andi ..
  | .ori .. | .xori .. | .shli .. | .shri .. | .srai .. | .li .. | .liWide .. | .lih .. | .lihWide ..
  | .beq .. | .bne .. | .blt .. | .bge .. | .bltu .. | .bgeu .. | .jmp .. | .call .. | .ret .. | .lpset ..
  | .lpbrk .. | .bayrd .. | .align | .acas .. | .cbound .. | .rdv | .barr .. | .bwait .. | .bwaitP ..
  | .hsig .. | .hsigLo .. | .hchk .. | .pause .. | .resync .. | .mbrecv .. | .mbpost .. | .trap .. | .eret
  | .halt | .rcsnap .. | .smark .. | .bcfg .. | .pand .. | .por .. | .pxor .. | .pnot .. | .mfmt ..
  | .mzero .. | .mwait .. | .hmerge .. | .hread .. | .cpy .. | .cpyf .. | .cpyt .. | .cpyw .. | .cpyr ..
  | .cwp .. | .cwait .. | .chead .. | .cmap .. | .cabort .. | .cabortBt .. | .lidle .. | .fput .. | .fget ..
  | .famo .. | .facas .. | .fmcast .. | .fred .. | .gload .. | .grun .. | .gpatch .. | .gstat ..
  | .gabort .. | .fbar .. | .ringinj .. | .repeatIteration .. | .arrayOperationComplete ..
  | .mapTableLatch .. | .mapInstall .. | .fetchLine .. | .issueGroup .. | .scalarResultWrite ..
  | .vectorResultWrite .. | .timedAccessPerform .. | .timedReplyDeliver .. | .timedStackRequest ..
  | .untimedPartPerform .. | .bayReplyLand .. | .copyTimedPiece .. | .fifoLineAppend .. | .slackRead ..
  | .btChainRecord .. | .btHandBack .. | .transportHeadRead .. | .tailWrite .. | .segmentCrcVerdict ..
  | .linkLost .. | .ringStateTransition .. | .ringConfigEffective | .ringInjectionStaged ..
  | .coachmanFrame .. | .coachmanTableUpdate .. | .coachmanPresent .. | .timetableSlipCheck ..
  | .teamSlipTrap .. | .barrierPhaseComplete .. | .budgetExpiry .. | .checkpoint .. | .preemptHalt ..
  | .saveImage .. | .redirectedReply .. | .restoreLoad .. | .teamResume .. | .recoveryPointSave ..
  | .recoveryPointCommit .. | .rollbackRestore .. | .trapEntry .. | .sigFire .. | .sigFlagStore ..
  | .fabricCommandAccept | .fabricWriteBack .. | .fabricResend .. | .fabricTimeout ..
  | .graphBarrierArrival .. | .graphSignal .. | .graphReplayStart .. | .graphOperationStart ..
  | .graphOperationFinish .. | .graphReplayEnd .. | .graphStallTimeout .. | .migrationEpochStart
  | .migrationMove .. | .hostMailboxPost .. | .telemetrySample .. | .pinFillComplete .. | .otinvComplete ..
  | .partitionStart .. | .ringBringUp .. | .ringBeatArrival .. | .fabricRequestArrival ..
  | .fabricReplyArrival .. | .planeDown .. | .hostWindowAccess .. | .hostAtomic .. | .hostPostWindowRead ..
  | .thermalThreshold .. | .boot .. | .attestationRequest .. | .firmwareActivation .. | .pinFill ..
  | .otinv .. | .btheadWrite .. | .pkretry .. | .cfstResume .. | .ssstatWrite .. | .sscfgWrite ..
  | .migfreePush .. | .mbcfgWrite .. | .tdqWrite .. | .tskcurWrite .. | .hcfgWrite .. | .prereq ..
  | .prrst .. | .rbreq .. | .hostSnoop .. | .hostCompletion .. | .fabricBringUp .. | .unitFencing ..
  | .partitionEnd .. => true

/-- An instruction that the decode checks of R216 let through. -/
abbrev Instr.WellFormed (i : Instr) : Prop := i.wf = true

end Sys2Proof
end

