-- ==== Sys2Proof/Decode.lean ====
section
/-!
DEFINITION. The decoder of ring words with the checks of R216 in their order, and after it the encoder written from the same
formats (R215, R218 to R220, R222, R226, R227).
-/

namespace Sys2Proof

/-- Bits [lo + n - 1 : lo] of a word. -/
def fld (w : Word) (lo n : Nat) : BitVec n := BitVec.ofNat n (w.toNat / 2 ^ lo)

/-- A word from its value. -/
def wordOf (n : Nat) : Word := BitVec.ofNat 32 n

/-- The first extension word; zero where there is none, which the count of check 2 excludes. -/
def ext0 (xs : List Word) : Word := xs.headD 0

/-- R220 read from a word. -/
def VExt.ofWord (w : Word) : VExt := ⟨fld w 31 1, fld w 28 3, fld w 24 4, fld w 22 2, fld w 0 22⟩

/-- R220 as a word. -/
def VExt.word (e : VExt) : Word :=
  wordOf (e.qe.toNat * 2 ^ 31 + e.q.toNat * 2 ^ 28 + e.t.toNat * 2 ^ 24 + e.rm.toNat * 2 ^ 22 + e.low.toNat)

/-- The optional extension word of a vector instruction (R220). -/
def optVExt (xs : List Word) : Option VExt := xs.head?.map VExt.ofWord

/-- The optional extension word as a list of words. -/
def optExt (x : Option VExt) : List Word := (x.map VExt.word).toList

/-- The extension words of an array operation (R300). -/
def MExt.ofWords : List Word → MExt
  | [] => .none
  | [a] => .g a
  | a :: b :: _ => .gk a (fld b 8 24) (fld b 0 8)

/-- The extension words of an array operation as words (R300). -/
def MExt.exts : MExt → List Word
  | .none => []
  | .g a => [a]
  | .gk a v k => [a, wordOf (v.toNat * 2 ^ 8 + k.toNat)]

/-- The extension word of `mrd` and `mwr` (R307). -/
def optRowExt (xs : List Word) : Option RowExt := xs.head?.map fun w => ⟨fld w 30 1, fld w 23 7⟩

/-- The extension word of `mrd` and `mwr` as words (R307). -/
def rowExts (x : Option RowExt) : List Word :=
  (x.map fun r => wordOf (r.st.toNat * 2 ^ 30 + r.col.toNat * 2 ^ 23)).toList

/-- The map tag of an extension word (R326). -/
def MapTag.ofWord (w : Word) : MapTag := ⟨fld w 31 1, fld w 29 2, fld w 23 6⟩

/-- The map tag of `cpyf` (R326). -/
def optMapTag (xs : List Word) : Option MapTag := xs.head?.map MapTag.ofWord

/-- The map tag as extension words (R326). -/
def tagExts (x : Option MapTag) : List Word :=
  (x.map fun m => wordOf (m.mape.toNat * 2 ^ 31 + m.mslot.toNat * 2 ^ 29 + m.mgen.toNat * 2 ^ 23)).toList

/-- NX of an instruction with an optional extension word. -/
def nxo {α : Type} (x : Option α) : Nat := if x.isSome then 1 else 0

/-- Operand bits from the values and the low bits of the fields. -/
def pack : List (Nat × Nat) → Nat
  | [] => 0
  | (v, lo) :: r => v * 2 ^ lo + pack r

/-- What an instruction's words hold apart from its gap. -/
structure Encoding where
  space : Space
  op : Nat
  body : Nat
  ext : List Word
  deriving DecidableEq, Repr

/-- The fields of a conductor instruction with opcode `op`; `none` for an opcode that R226 leaves unassigned. -/
def buildConductor (op : Nat) (w : Word) (xs : List Word) : Option Instr :=
  match op with
  | 0x00 => some (.add (fld w 14 5) (fld w 9 5) (fld w 4 5))
  | 0x01 => some (.sub (fld w 14 5) (fld w 9 5) (fld w 4 5))
  | 0x02 => some (.mul (fld w 14 5) (fld w 9 5) (fld w 4 5))
  | 0x03 => some (.mulh (fld w 14 5) (fld w 9 5) (fld w 4 5))
  | 0x04 => some (.mulhu (fld w 14 5) (fld w 9 5) (fld w 4 5))
  | 0x05 => some (.div (fld w 14 5) (fld w 9 5) (fld w 4 5))
  | 0x06 => some (.divu (fld w 14 5) (fld w 9 5) (fld w 4 5))
  | 0x07 => some (.rem (fld w 14 5) (fld w 9 5) (fld w 4 5))
  | 0x08 => some (.remu (fld w 14 5) (fld w 9 5) (fld w 4 5))
  | 0x09 => some (.and (fld w 14 5) (fld w 9 5) (fld w 4 5))
  | 0x0A => some (.or (fld w 14 5) (fld w 9 5) (fld w 4 5))
  | 0x0B => some (.xor (fld w 14 5) (fld w 9 5) (fld w 4 5))
  | 0x0C => some (.andn (fld w 14 5) (fld w 9 5) (fld w 4 5))
  | 0x0D => some (.shl (fld w 14 5) (fld w 9 5) (fld w 4 5))
  | 0x0E => some (.shr (fld w 14 5) (fld w 9 5) (fld w 4 5))
  | 0x0F => some (.sra (fld w 14 5) (fld w 9 5) (fld w 4 5))
  | 0x10 => some (.rotl (fld w 14 5) (fld w 9 5) (fld w 4 5))
  | 0x11 => some (.min (fld w 14 5) (fld w 9 5) (fld w 4 5))
  | 0x12 => some (.max (fld w 14 5) (fld w 9 5) (fld w 4 5))
  | 0x13 => some (.minu (fld w 14 5) (fld w 9 5) (fld w 4 5))
  | 0x14 => some (.maxu (fld w 14 5) (fld w 9 5) (fld w 4 5))
  | 0x15 => some (.clz (fld w 14 5) (fld w 9 5))
  | 0x16 => some (.popc (fld w 14 5) (fld w 9 5))
  | 0x17 => some (.seq (fld w 14 5) (fld w 9 5) (fld w 4 5))
  | 0x18 => some (.slt (fld w 14 5) (fld w 9 5) (fld w 4 5))
  | 0x19 => some (.sltu (fld w 14 5) (fld w 9 5) (fld w 4 5))
  | 0x1A => some (.sel (fld w 14 5) (fld w 9 5) (fld w 4 5))
  | 0x20 => some (.addi (fld w 14 5) (fld w 9 5) (fld w 0 9))
  | 0x21 => some (.andi (fld w 14 5) (fld w 9 5) (fld w 0 9))
  | 0x22 => some (.ori (fld w 14 5) (fld w 9 5) (fld w 0 9))
  | 0x23 => some (.xori (fld w 14 5) (fld w 9 5) (fld w 0 9))
  | 0x24 => some (.shli (fld w 14 5) (fld w 9 5) (fld w 0 6))
  | 0x25 => some (.shri (fld w 14 5) (fld w 9 5) (fld w 0 6))
  | 0x26 => some (.srai (fld w 14 5) (fld w 9 5) (fld w 0 6))
  | 0x27 => some (if fld w 13 1 = 1 then .liWide (fld w 14 5) (ext0 xs) else .li (fld w 14 5) (fld w 0 13))
  | 0x28 => some (if fld w 13 1 = 1 then .lihWide (fld w 14 5) (ext0 xs) else .lih (fld w 14 5) (fld w 0 13))
  | 0x30 => some (.beq (fld w 14 5) (fld w 9 5) (fld w 0 9))
  | 0x31 => some (.bne (fld w 14 5) (fld w 9 5) (fld w 0 9))
  | 0x32 => some (.blt (fld w 14 5) (fld w 9 5) (fld w 0 9))
  | 0x33 => some (.bge (fld w 14 5) (fld w 9 5) (fld w 0 9))
  | 0x34 => some (.bltu (fld w 14 5) (fld w 9 5) (fld w 0 9))
  | 0x35 => some (.bgeu (fld w 14 5) (fld w 9 5) (fld w 0 9))
  | 0x36 => some (.jmp (fld w 9 5) (fld w 0 9))
  | 0x37 => some (.call (fld w 14 5) (fld w 9 5) (fld w 0 9))
  | 0x38 => some (.ret (fld w 9 5))
  | 0x39 => some (.lpset (fld w 14 5) (fld w 13 1) (fld w 0 9))
  | 0x3A => some (.lpbrk (fld w 14 5) (fld w 13 1) (fld w 0 9))
  | 0x40 => some (.lds (fld w 14 5) (fld w 10 4) (fld w 7 3) (fld w 0 7))
  | 0x41 => some (.sts (fld w 14 5) (fld w 10 4) (fld w 7 3) (fld w 0 7))
  | 0x42 => some (.rld (fld w 14 4) (fld w 10 4) (fld w 7 3) (fld w 0 7))
  | 0x43 => some (.bayrd (fld w 14 5) (fld w 9 4) (fld w 4 5) (fld w 2 1) (fld w 0 2))
  | 0x44 => some (.align)
  | 0x45 => some (.fence (fld w 16 3) (fld w 0 9))
  | 0x46 => some (.amo (fld w 14 4) (fld w 9 4) (fld w 4 5) (fld w 3 1) (fld w 0 3))
  | 0x47 => some (.acas (fld w 14 4) (fld w 9 4) (fld w 5 4) (fld w 3 1))
  | 0x48 => some (.ared (fld w 9 4) (fld w 4 5) (fld w 3 1) (fld w 0 3))
  | 0x49 => some (.cderive (fld w 14 4) (fld w 9 4) (fld w 4 5) (fld w 0 4))
  | 0x4A => some (.cbound (fld w 14 4) (fld w 9 4) (fld w 4 5))
  | 0x4B => some (.cfield (fld w 14 5) (fld w 9 4) (fld w 0 4))
  | 0x50 => some (if fld w 16 1 = 1 then .forkPf (fld w 17 1) (fld w 0 16) else .fork (fld w 17 1) (fld w 0 16))
  | 0x51 => some (.rdv)
  | 0x52 => some (.barr (fld w 0 3))
  | 0x53 => some (if fld w 3 1 = 1 then .bwaitP (fld w 9 5) (fld w 0 3) else .bwait (fld w 9 5) (fld w 0 3))
  | 0x54 => some (if fld w 16 1 = 1 then .hsigLo (fld w 0 6) else .hsig (fld w 0 6))
  | 0x55 => some (.hchk (fld w 16 1) (fld w 0 6))
  | 0x56 => some (.pause (fld w 0 16))
  | 0x57 => some (.resync (fld w 0 16))
  | 0x58 => some (.board (fld w 14 5) (fld w 9 5) (fld w 4 5) (fld w 0 4))
  | 0x59 => some (.wbset (fld w 14 5) (fld w 9 5) (fld w 4 5) (fld w 0 4))
  | 0x5A => some (.sig (fld w 16 3) (fld w 14 2) (fld w 0 6))
  | 0x5B => some (.mbrecv (fld w 14 4))
  | 0x5C => some (.mbpost (fld w 9 5) (fld w 4 4))
  | 0x60 => some (.csr (fld w 14 5) (fld w 12 2) (fld w 0 12))
  | 0x61 => some (.trap (fld w 0 16))
  | 0x62 => some (.eret)
  | 0x63 => some (.halt)
  | 0x64 => some (.rcsnap (fld w 14 4) (fld w 9 5))
  | 0x65 => some (.smark (fld w 16 3) (fld w 0 16))
  | 0x66 => some (.bcfg (fld w 9 4) (fld w 4 5) (fld w 0 3))
  | _ => none

/-- The fields of a vector instruction with opcode `op`; `none` for an opcode that R226 leaves unassigned. -/
def buildVector (op : Nat) (w : Word) (xs : List Word) : Option Instr :=
  match op with
  | 0x00 => some (.vadd (fld w 13 6) (fld w 7 6) (fld w 1 6) (optVExt xs))
  | 0x01 => some (.vsub (fld w 13 6) (fld w 7 6) (fld w 1 6) (optVExt xs))
  | 0x02 => some (.vmul (fld w 13 6) (fld w 7 6) (fld w 1 6) (optVExt xs))
  | 0x03 => some (.vfma (fld w 13 6) (fld w 7 6) (fld w 1 6) (optVExt xs))
  | 0x04 => some (.vfms (fld w 13 6) (fld w 7 6) (fld w 1 6) (optVExt xs))
  | 0x05 => some (.vmax (fld w 13 6) (fld w 7 6) (fld w 1 6) (optVExt xs))
  | 0x06 => some (.vmin (fld w 13 6) (fld w 7 6) (fld w 1 6) (optVExt xs))
  | 0x07 => some (.vabs (fld w 13 6) (fld w 7 6) (optVExt xs))
  | 0x08 => some (.vneg (fld w 13 6) (fld w 7 6) (optVExt xs))
  | 0x09 => some (.vand (fld w 13 6) (fld w 7 6) (fld w 1 6) (optVExt xs))
  | 0x0A => some (.vor (fld w 13 6) (fld w 7 6) (fld w 1 6) (optVExt xs))
  | 0x0B => some (.vxor (fld w 13 6) (fld w 7 6) (fld w 1 6) (optVExt xs))
  | 0x0C => some (.vshl (fld w 13 6) (fld w 7 6) (fld w 1 6) (optVExt xs))
  | 0x0D => some (.vshr (fld w 13 6) (fld w 7 6) (fld w 1 6) (optVExt xs))
  | 0x0E => some (.vsra (fld w 13 6) (fld w 7 6) (fld w 1 6) (optVExt xs))
  | 0x10 => some (.vcmp (fld w 13 3) (fld w 7 6) (fld w 1 6) (optVExt xs))
  | 0x11 => some (.vsel (fld w 13 6) (fld w 7 6) (fld w 1 6) (VExt.ofWord (ext0 xs)))
  | 0x12 => some (.pand (fld w 16 3) (fld w 13 3) (fld w 10 3))
  | 0x13 => some (.por (fld w 16 3) (fld w 13 3) (fld w 10 3))
  | 0x14 => some (.pxor (fld w 16 3) (fld w 13 3) (fld w 10 3))
  | 0x15 => some (.pnot (fld w 16 3) (fld w 13 3))
  | 0x20 => some (.vcvt (fld w 13 6) (fld w 7 6) (VExt.ofWord (ext0 xs)))
  | 0x21 => some (.vquant (fld w 13 6) (fld w 7 6) (optVExt xs))
  | 0x22 => some (.vdeq (fld w 13 6) (fld w 7 6) (optVExt xs))
  | 0x23 => some (.vscale (fld w 13 6) (fld w 7 6) (fld w 1 6) (optVExt xs))
  | 0x24 => some (.vexp2 (fld w 13 6) (fld w 7 6) (optVExt xs))
  | 0x25 => some (.vrcp (fld w 13 6) (fld w 7 6) (optVExt xs))
  | 0x26 => some (.vrsq (fld w 13 6) (fld w 7 6) (optVExt xs))
  | 0x27 => some (.vlog2 (fld w 13 6) (fld w 7 6) (optVExt xs))
  | 0x30 => some (.vredsum (fld w 13 6) (fld w 7 6) (fld w 1 6) (optVExt xs))
  | 0x31 => some (.vredmax (fld w 13 6) (fld w 7 6) (optVExt xs))
  | 0x32 => some (.vscan (fld w 13 6) (fld w 7 6) (fld w 1 6) (optVExt xs))
  | 0x33 => some (.vperm (fld w 13 6) (fld w 7 6) (fld w 1 6) (optVExt xs))
  | 0x34 => some (.vbcast (fld w 13 6) (fld w 7 6) (optVExt xs))
  | 0x35 => some (.vslide (fld w 13 6) (fld w 7 6) (fld w 1 6) (optVExt xs))
  | 0x36 => some (.vpack (fld w 13 6) (fld w 7 6) (fld w 1 6) (optVExt xs))
  | 0x40 => some (.vld (fld w 13 6) (fld w 9 4) (fld w 1 8) (optVExt xs))
  | 0x41 => some (.vst (fld w 13 6) (fld w 9 4) (fld w 1 8) (optVExt xs))
  | 0x42 => some (.vgat (fld w 13 6) (fld w 9 4) (fld w 1 8) (VExt.ofWord (ext0 xs)))
  | 0x43 => some (.vsct (fld w 13 6) (fld w 9 4) (fld w 1 8) (VExt.ofWord (ext0 xs)))
  | 0x50 => some (.vrng (fld w 13 6) (fld w 7 6) (fld w 1 6) (optVExt xs))
  | 0x51 => some (.vdrop (fld w 13 6) (fld w 7 6) (fld w 1 6) (optVExt xs))
  | 0x52 => some (.vtopk (fld w 13 6) (fld w 7 6) (fld w 1 6) (optVExt xs))
  | 0x60 => some (.vmov (fld w 13 6) (fld w 7 6) (optVExt xs))
  | 0x61 => some (.vli (fld w 13 6) (fld w 1 12) (optVExt xs))
  | 0x62 => some (.vlse (fld w 13 6) (fld w 7 6) (fld w 1 6) (optVExt xs))
  | 0x63 => some (.vpush (fld w 7 6) (optVExt xs))
  | 0x64 => some (.vpop (fld w 13 6) (optVExt xs))
  | _ => none

/-- The fields of a matrix instruction with opcode `op`; `none` for an opcode that R226 leaves unassigned. -/
def buildMatrix (op : Nat) (w : Word) (xs : List Word) : Option Instr :=
  match op with
  | 0x00 => some (.mfmt (fld (ext0 xs) 19 13))
  | 0x01 => some (.mzero (fld w 16 3) (fld w 13 3))
  | 0x02 => some (.mma (fld w 16 3) (fld w 13 3) (fld w 12 1) (fld w 4 2) (fld w 2 2) (MExt.ofWords xs))
  | 0x03 => some (.mmaw (fld w 16 3) (fld w 13 3) (fld w 12 1) (fld w 10 1) (fld w 4 2) (fld w 2 2) (MExt.ofWords xs))
  | 0x04 => some (.mmat (fld w 16 3) (fld w 13 3) (fld w 12 1) (fld w 4 2) (fld w 2 2) (MExt.ofWords xs))
  | 0x05 => some (.mwait (fld w 16 3) (fld w 7 6))
  | 0x06 => some (.mrd (fld w 16 3) (fld w 8 5) (fld w 2 6) (optRowExt xs))
  | 0x07 => some (.mwr (fld w 16 3) (fld w 8 5) (fld w 2 6) (optRowExt xs))
  | 0x08 => some (.mvoc (fld w 16 3) (fld w 13 3) (fld w 12 1) (fld w 11 1) (fld w 4 2) (fld w 2 2) (MExt.ofWords xs))
  | 0x09 => some (if fld w 9 1 = 1 then .mvocbBwd (fld w 16 3) (fld w 13 3) (fld w 12 1) (fld w 6 3) (fld w 4 2) (fld w 2 2) (MExt.ofWords xs) else .mvocbFwd (fld w 16 3) (fld w 13 3) (fld w 12 1) (fld w 11 1) (fld w 4 2) (fld w 2 2) (MExt.ofWords xs))
  | 0x0A => some (.hmerge (fld w 16 1) (fld w 7 6) (fld (ext0 xs) 0 6))
  | 0x0B => some (.hread (fld w 7 6) (fld (ext0 xs) 0 6))
  | 0x0C => some (.mapld (fld w 16 2) (fld w 7 6) (fld w 4 3) (fld (ext0 xs) 28 4) (fld (ext0 xs) 27 1) (fld (ext0 xs) 21 6))
  | 0x0D => some (.mnorm (fld w 16 2) (fld w 7 6) (fld (ext0 xs) 0 6))
  | _ => none

/-- The fields of a copy instruction with opcode `op`; `none` for an opcode that R226 leaves unassigned. -/
def buildCopy (op : Nat) (w : Word) (xs : List Word) : Option Instr :=
  match op with
  | 0x00 => some (.cpy (fld w 3 16))
  | 0x01 => some (.cpyf (fld w 3 16) (optMapTag xs))
  | 0x02 => some (.cpyt (fld w 3 16))
  | 0x03 => some (.cpyw (fld w 3 16))
  | 0x04 => some (.cpyr (fld w 3 16))
  | 0x05 => some (.cwp (fld w 16 1) (fld w 10 6) (fld w 1 4) xs.head?)
  | 0x06 => some (.cwait (fld w 16 1) (fld w 1 4) xs.head?)
  | 0x07 => some (.chead (fld w 10 6) (fld w 1 4))
  | 0x08 => some (.cmap (fld w 16 3) (fld w 1 4) (fld (ext0 xs) 0 8))
  | 0x09 => some (.cmwait (fld w 16 3) (fld w 10 6) (fld w 9 1) (fld w 1 3) (ext0 xs))
  | 0x0A => some (.cfence (fld w 16 3) (fld w 1 9))
  | 0x0B => some (if fld w 18 1 = 1 then .cabortBt (fld w 10 6) else .cabort (fld w 16 1))
  | _ => none

/-- The fields of a tap instruction with opcode `op`; `none` for an opcode that R226 leaves unassigned. -/
def buildTap (op : Nat) (w : Word) (xs : List Word) : Option Instr :=
  match op with
  | 0x00 => some (.ltap (fld w 14 5) (fld w 11 3) (fld w 1 10) xs.head?)
  | 0x01 => some (.ldrive (fld w 14 5) (fld w 11 3) (fld w 1 10) (fld (ext0 xs) 0 7))
  | 0x02 => some (.lfwd (fld w 14 5) (fld w 1 5) (fld (ext0 xs) 0 7))
  | 0x03 => some (.lsel (fld w 5 6) (fld w 1 4) xs.head?)
  | 0x04 => some (.lidle (fld w 1 10))
  | 0x05 => some (.lcfg (fld w 1 4))
  | _ => none

/-- The fields of a fabric instruction with opcode `op`; `none` for an opcode that R226 leaves unassigned. -/
def buildFabric (op : Nat) (w : Word) (xs : List Word) : Option Instr :=
  match op with
  | 0x00 => some (.fput (fld w 3 16))
  | 0x01 => some (.fget (fld w 3 16))
  | 0x02 => some (.famo (fld w 3 16))
  | 0x03 => some (.facas (fld w 3 16))
  | 0x04 => some (.fmcast (fld w 3 16))
  | 0x05 => some (.fred (fld w 3 16))
  | 0x06 => some (.gload (fld w 3 16))
  | 0x07 => some (.grun (fld w 3 16))
  | 0x08 => some (.gpatch (fld w 3 16))
  | 0x09 => some (.gstat (fld w 10 6) (fld w 1 4))
  | 0x0A => some (.gabort (fld w 10 6))
  | 0x0B => some (.fbar (fld w 10 6) (fld w 1 6))
  | 0x0C => some (.ringcfg (fld w 16 3) (fld w 1 9) (ext0 xs))
  | 0x0D => some (.ringbyp (fld w 16 3) (fld w 10 1) (fld w 1 9))
  | 0x0E => some (.ringinj (fld w 3 16))
  | 0x0F => some (.fsync (fld w 16 3) (fld w 1 9))
  | _ => none

set_option maxHeartbeats 2000000 in
/-- The words of an instruction apart from its gap: opcode space, opcode, operand bits [18:0] with the NX field, and
extension words (R215, R218, R219, R226, R227). A unit step has no encoding. -/
def Instr.encoding : Instr → Option Encoding
  | .add d a b => some ⟨.conductor, 0x00, pack [(d.toNat, 14), (a.toNat, 9), (b.toNat, 4)], []⟩
  | .sub d a b => some ⟨.conductor, 0x01, pack [(d.toNat, 14), (a.toNat, 9), (b.toNat, 4)], []⟩
  | .mul d a b => some ⟨.conductor, 0x02, pack [(d.toNat, 14), (a.toNat, 9), (b.toNat, 4)], []⟩
  | .mulh d a b => some ⟨.conductor, 0x03, pack [(d.toNat, 14), (a.toNat, 9), (b.toNat, 4)], []⟩
  | .mulhu d a b => some ⟨.conductor, 0x04, pack [(d.toNat, 14), (a.toNat, 9), (b.toNat, 4)], []⟩
  | .div d a b => some ⟨.conductor, 0x05, pack [(d.toNat, 14), (a.toNat, 9), (b.toNat, 4)], []⟩
  | .divu d a b => some ⟨.conductor, 0x06, pack [(d.toNat, 14), (a.toNat, 9), (b.toNat, 4)], []⟩
  | .rem d a b => some ⟨.conductor, 0x07, pack [(d.toNat, 14), (a.toNat, 9), (b.toNat, 4)], []⟩
  | .remu d a b => some ⟨.conductor, 0x08, pack [(d.toNat, 14), (a.toNat, 9), (b.toNat, 4)], []⟩
  | .and d a b => some ⟨.conductor, 0x09, pack [(d.toNat, 14), (a.toNat, 9), (b.toNat, 4)], []⟩
  | .or d a b => some ⟨.conductor, 0x0A, pack [(d.toNat, 14), (a.toNat, 9), (b.toNat, 4)], []⟩
  | .xor d a b => some ⟨.conductor, 0x0B, pack [(d.toNat, 14), (a.toNat, 9), (b.toNat, 4)], []⟩
  | .andn d a b => some ⟨.conductor, 0x0C, pack [(d.toNat, 14), (a.toNat, 9), (b.toNat, 4)], []⟩
  | .shl d a b => some ⟨.conductor, 0x0D, pack [(d.toNat, 14), (a.toNat, 9), (b.toNat, 4)], []⟩
  | .shr d a b => some ⟨.conductor, 0x0E, pack [(d.toNat, 14), (a.toNat, 9), (b.toNat, 4)], []⟩
  | .sra d a b => some ⟨.conductor, 0x0F, pack [(d.toNat, 14), (a.toNat, 9), (b.toNat, 4)], []⟩
  | .rotl d a b => some ⟨.conductor, 0x10, pack [(d.toNat, 14), (a.toNat, 9), (b.toNat, 4)], []⟩
  | .min d a b => some ⟨.conductor, 0x11, pack [(d.toNat, 14), (a.toNat, 9), (b.toNat, 4)], []⟩
  | .max d a b => some ⟨.conductor, 0x12, pack [(d.toNat, 14), (a.toNat, 9), (b.toNat, 4)], []⟩
  | .minu d a b => some ⟨.conductor, 0x13, pack [(d.toNat, 14), (a.toNat, 9), (b.toNat, 4)], []⟩
  | .maxu d a b => some ⟨.conductor, 0x14, pack [(d.toNat, 14), (a.toNat, 9), (b.toNat, 4)], []⟩
  | .clz d a => some ⟨.conductor, 0x15, pack [(d.toNat, 14), (a.toNat, 9)], []⟩
  | .popc d a => some ⟨.conductor, 0x16, pack [(d.toNat, 14), (a.toNat, 9)], []⟩
  | .seq d a b => some ⟨.conductor, 0x17, pack [(d.toNat, 14), (a.toNat, 9), (b.toNat, 4)], []⟩
  | .slt d a b => some ⟨.conductor, 0x18, pack [(d.toNat, 14), (a.toNat, 9), (b.toNat, 4)], []⟩
  | .sltu d a b => some ⟨.conductor, 0x19, pack [(d.toNat, 14), (a.toNat, 9), (b.toNat, 4)], []⟩
  | .sel d a b => some ⟨.conductor, 0x1A, pack [(d.toNat, 14), (a.toNat, 9), (b.toNat, 4)], []⟩
  | .addi d a i => some ⟨.conductor, 0x20, pack [(d.toNat, 14), (a.toNat, 9), (i.toNat, 0)], []⟩
  | .andi d a i => some ⟨.conductor, 0x21, pack [(d.toNat, 14), (a.toNat, 9), (i.toNat, 0)], []⟩
  | .ori d a i => some ⟨.conductor, 0x22, pack [(d.toNat, 14), (a.toNat, 9), (i.toNat, 0)], []⟩
  | .xori d a i => some ⟨.conductor, 0x23, pack [(d.toNat, 14), (a.toNat, 9), (i.toNat, 0)], []⟩
  | .shli d a i => some ⟨.conductor, 0x24, pack [(d.toNat, 14), (a.toNat, 9), (i.toNat, 0)], []⟩
  | .shri d a i => some ⟨.conductor, 0x25, pack [(d.toNat, 14), (a.toNat, 9), (i.toNat, 0)], []⟩
  | .srai d a i => some ⟨.conductor, 0x26, pack [(d.toNat, 14), (a.toNat, 9), (i.toNat, 0)], []⟩
  | .li d i => some ⟨.conductor, 0x27, pack [(d.toNat, 14), (i.toNat, 0)], []⟩
  | .liWide d v => some ⟨.conductor, 0x27, pack [(d.toNat, 14), (1, 13)], [v]⟩
  | .lih d i => some ⟨.conductor, 0x28, pack [(d.toNat, 14), (i.toNat, 0)], []⟩
  | .lihWide d v => some ⟨.conductor, 0x28, pack [(d.toNat, 14), (1, 13)], [v]⟩
  | .beq a b o => some ⟨.conductor, 0x30, pack [(a.toNat, 14), (b.toNat, 9), (o.toNat, 0)], []⟩
  | .bne a b o => some ⟨.conductor, 0x31, pack [(a.toNat, 14), (b.toNat, 9), (o.toNat, 0)], []⟩
  | .blt a b o => some ⟨.conductor, 0x32, pack [(a.toNat, 14), (b.toNat, 9), (o.toNat, 0)], []⟩
  | .bge a b o => some ⟨.conductor, 0x33, pack [(a.toNat, 14), (b.toNat, 9), (o.toNat, 0)], []⟩
  | .bltu a b o => some ⟨.conductor, 0x34, pack [(a.toNat, 14), (b.toNat, 9), (o.toNat, 0)], []⟩
  | .bgeu a b o => some ⟨.conductor, 0x35, pack [(a.toNat, 14), (b.toNat, 9), (o.toNat, 0)], []⟩
  | .jmp a t => some ⟨.conductor, 0x36, pack [(a.toNat, 9), (t.toNat, 0)], []⟩
  | .call d a t => some ⟨.conductor, 0x37, pack [(d.toNat, 14), (a.toNat, 9), (t.toNat, 0)], []⟩
  | .ret a => some ⟨.conductor, 0x38, pack [(a.toNat, 9)], []⟩
  | .lpset a l t => some ⟨.conductor, 0x39, pack [(a.toNat, 14), (l.toNat, 13), (t.toNat, 0)], []⟩
  | .lpbrk a l t => some ⟨.conductor, 0x3A, pack [(a.toNat, 14), (l.toNat, 13), (t.toNat, 0)], []⟩
  | .lds d c sz i => some ⟨.conductor, 0x40, pack [(d.toNat, 14), (c.toNat, 10), (sz.toNat, 7), (i.toNat, 0)], []⟩
  | .sts d c sz i => some ⟨.conductor, 0x41, pack [(d.toNat, 14), (c.toNat, 10), (sz.toNat, 7), (i.toNat, 0)], []⟩
  | .rld d c sz i => some ⟨.conductor, 0x42, pack [(d.toNat, 14), (c.toNat, 10), (sz.toNat, 7), (i.toNat, 0)], []⟩
  | .bayrd d a b u z => some ⟨.conductor, 0x43, pack [(d.toNat, 14), (a.toNat, 9), (b.toNat, 4), (u.toNat, 2), (z.toNat, 0)], []⟩
  | .align => some ⟨.conductor, 0x44, pack [], []⟩
  | .fence k m => some ⟨.conductor, 0x45, pack [(k.toNat, 16), (m.toNat, 0)], []⟩
  | .amo d a b z o => some ⟨.conductor, 0x46, pack [(d.toNat, 14), (a.toNat, 9), (b.toNat, 4), (z.toNat, 3), (o.toNat, 0)], []⟩
  | .acas d a b z => some ⟨.conductor, 0x47, pack [(d.toNat, 14), (a.toNat, 9), (b.toNat, 5), (z.toNat, 3)], []⟩
  | .ared a b z o => some ⟨.conductor, 0x48, pack [(a.toNat, 9), (b.toNat, 4), (z.toNat, 3), (o.toNat, 0)], []⟩
  | .cderive d a b m => some ⟨.conductor, 0x49, pack [(d.toNat, 14), (a.toNat, 9), (b.toNat, 4), (m.toNat, 0)], []⟩
  | .cbound d a b => some ⟨.conductor, 0x4A, pack [(d.toNat, 14), (a.toNat, 9), (b.toNat, 4)], []⟩
  | .cfield d a f => some ⟨.conductor, 0x4B, pack [(d.toNat, 14), (a.toNat, 9), (f.toNat, 0)], []⟩
  | .fork r i => some ⟨.conductor, 0x50, pack [(r.toNat, 17), (i.toNat, 0)], []⟩
  | .forkPf r i => some ⟨.conductor, 0x50, pack [(r.toNat, 17), (i.toNat, 0), (1, 16)], []⟩
  | .rdv => some ⟨.conductor, 0x51, pack [], []⟩
  | .barr t => some ⟨.conductor, 0x52, pack [(t.toNat, 0)], []⟩
  | .bwait a t => some ⟨.conductor, 0x53, pack [(a.toNat, 9), (t.toNat, 0)], []⟩
  | .bwaitP a t => some ⟨.conductor, 0x53, pack [(a.toNat, 9), (t.toNat, 0), (1, 3)], []⟩
  | .hsig n => some ⟨.conductor, 0x54, pack [(n.toNat, 0)], []⟩
  | .hsigLo n => some ⟨.conductor, 0x54, pack [(n.toNat, 0), (1, 16)], []⟩
  | .hchk k n => some ⟨.conductor, 0x55, pack [(k.toNat, 16), (n.toNat, 0)], []⟩
  | .pause i => some ⟨.conductor, 0x56, pack [(i.toNat, 0)], []⟩
  | .resync i => some ⟨.conductor, 0x57, pack [(i.toNat, 0)], []⟩
  | .board d a b m => some ⟨.conductor, 0x58, pack [(d.toNat, 14), (a.toNat, 9), (b.toNat, 4), (m.toNat, 0)], []⟩
  | .wbset d a b m => some ⟨.conductor, 0x59, pack [(d.toNat, 14), (a.toNat, 9), (b.toNat, 4), (m.toNat, 0)], []⟩
  | .sig k f n => some ⟨.conductor, 0x5A, pack [(k.toNat, 16), (f.toNat, 14), (n.toNat, 0)], []⟩
  | .mbrecv d => some ⟨.conductor, 0x5B, pack [(d.toNat, 14)], []⟩
  | .mbpost a b => some ⟨.conductor, 0x5C, pack [(a.toNat, 9), (b.toNat, 4)], []⟩
  | .csr d o n => some ⟨.conductor, 0x60, pack [(d.toNat, 14), (o.toNat, 12), (n.toNat, 0)], []⟩
  | .trap i => some ⟨.conductor, 0x61, pack [(i.toNat, 0)], []⟩
  | .eret => some ⟨.conductor, 0x62, pack [], []⟩
  | .halt => some ⟨.conductor, 0x63, pack [], []⟩
  | .rcsnap d a => some ⟨.conductor, 0x64, pack [(d.toNat, 14), (a.toNat, 9)], []⟩
  | .smark k i => some ⟨.conductor, 0x65, pack [(k.toNat, 16), (i.toNat, 0)], []⟩
  | .bcfg a b t => some ⟨.conductor, 0x66, pack [(a.toNat, 9), (b.toNat, 4), (t.toNat, 0)], []⟩
  | .rpt .. => none
  | .vadd d a b x => some ⟨.vector, 0x00, pack [(d.toNat, 13), (a.toNat, 7), (b.toNat, 1), (nxo x, 0)], optExt x⟩
  | .vsub d a b x => some ⟨.vector, 0x01, pack [(d.toNat, 13), (a.toNat, 7), (b.toNat, 1), (nxo x, 0)], optExt x⟩
  | .vmul d a b x => some ⟨.vector, 0x02, pack [(d.toNat, 13), (a.toNat, 7), (b.toNat, 1), (nxo x, 0)], optExt x⟩
  | .vfma d a b x => some ⟨.vector, 0x03, pack [(d.toNat, 13), (a.toNat, 7), (b.toNat, 1), (nxo x, 0)], optExt x⟩
  | .vfms d a b x => some ⟨.vector, 0x04, pack [(d.toNat, 13), (a.toNat, 7), (b.toNat, 1), (nxo x, 0)], optExt x⟩
  | .vmax d a b x => some ⟨.vector, 0x05, pack [(d.toNat, 13), (a.toNat, 7), (b.toNat, 1), (nxo x, 0)], optExt x⟩
  | .vmin d a b x => some ⟨.vector, 0x06, pack [(d.toNat, 13), (a.toNat, 7), (b.toNat, 1), (nxo x, 0)], optExt x⟩
  | .vabs d a x => some ⟨.vector, 0x07, pack [(d.toNat, 13), (a.toNat, 7), (nxo x, 0)], optExt x⟩
  | .vneg d a x => some ⟨.vector, 0x08, pack [(d.toNat, 13), (a.toNat, 7), (nxo x, 0)], optExt x⟩
  | .vand d a b x => some ⟨.vector, 0x09, pack [(d.toNat, 13), (a.toNat, 7), (b.toNat, 1), (nxo x, 0)], optExt x⟩
  | .vor d a b x => some ⟨.vector, 0x0A, pack [(d.toNat, 13), (a.toNat, 7), (b.toNat, 1), (nxo x, 0)], optExt x⟩
  | .vxor d a b x => some ⟨.vector, 0x0B, pack [(d.toNat, 13), (a.toNat, 7), (b.toNat, 1), (nxo x, 0)], optExt x⟩
  | .vshl d a b x => some ⟨.vector, 0x0C, pack [(d.toNat, 13), (a.toNat, 7), (b.toNat, 1), (nxo x, 0)], optExt x⟩
  | .vshr d a b x => some ⟨.vector, 0x0D, pack [(d.toNat, 13), (a.toNat, 7), (b.toNat, 1), (nxo x, 0)], optExt x⟩
  | .vsra d a b x => some ⟨.vector, 0x0E, pack [(d.toNat, 13), (a.toNat, 7), (b.toNat, 1), (nxo x, 0)], optExt x⟩
  | .vcmp d a b x => some ⟨.vector, 0x10, pack [(d.toNat, 13), (a.toNat, 7), (b.toNat, 1), (nxo x, 0)], optExt x⟩
  | .vsel d a b x => some ⟨.vector, 0x11, pack [(d.toNat, 13), (a.toNat, 7), (b.toNat, 1), (1, 0)], [x.word]⟩
  | .pand d a b => some ⟨.vector, 0x12, pack [(d.toNat, 16), (a.toNat, 13), (b.toNat, 10)], []⟩
  | .por d a b => some ⟨.vector, 0x13, pack [(d.toNat, 16), (a.toNat, 13), (b.toNat, 10)], []⟩
  | .pxor d a b => some ⟨.vector, 0x14, pack [(d.toNat, 16), (a.toNat, 13), (b.toNat, 10)], []⟩
  | .pnot d a => some ⟨.vector, 0x15, pack [(d.toNat, 16), (a.toNat, 13)], []⟩
  | .vcvt d a x => some ⟨.vector, 0x20, pack [(d.toNat, 13), (a.toNat, 7), (1, 0)], [x.word]⟩
  | .vquant d a x => some ⟨.vector, 0x21, pack [(d.toNat, 13), (a.toNat, 7), (nxo x, 0)], optExt x⟩
  | .vdeq d a x => some ⟨.vector, 0x22, pack [(d.toNat, 13), (a.toNat, 7), (nxo x, 0)], optExt x⟩
  | .vscale d a b x => some ⟨.vector, 0x23, pack [(d.toNat, 13), (a.toNat, 7), (b.toNat, 1), (nxo x, 0)], optExt x⟩
  | .vexp2 d a x => some ⟨.vector, 0x24, pack [(d.toNat, 13), (a.toNat, 7), (nxo x, 0)], optExt x⟩
  | .vrcp d a x => some ⟨.vector, 0x25, pack [(d.toNat, 13), (a.toNat, 7), (nxo x, 0)], optExt x⟩
  | .vrsq d a x => some ⟨.vector, 0x26, pack [(d.toNat, 13), (a.toNat, 7), (nxo x, 0)], optExt x⟩
  | .vlog2 d a x => some ⟨.vector, 0x27, pack [(d.toNat, 13), (a.toNat, 7), (nxo x, 0)], optExt x⟩
  | .vredsum d a b x => some ⟨.vector, 0x30, pack [(d.toNat, 13), (a.toNat, 7), (b.toNat, 1), (nxo x, 0)], optExt x⟩
  | .vredmax d a x => some ⟨.vector, 0x31, pack [(d.toNat, 13), (a.toNat, 7), (nxo x, 0)], optExt x⟩
  | .vscan d a b x => some ⟨.vector, 0x32, pack [(d.toNat, 13), (a.toNat, 7), (b.toNat, 1), (nxo x, 0)], optExt x⟩
  | .vperm d a b x => some ⟨.vector, 0x33, pack [(d.toNat, 13), (a.toNat, 7), (b.toNat, 1), (nxo x, 0)], optExt x⟩
  | .vbcast d a x => some ⟨.vector, 0x34, pack [(d.toNat, 13), (a.toNat, 7), (nxo x, 0)], optExt x⟩
  | .vslide d a b x => some ⟨.vector, 0x35, pack [(d.toNat, 13), (a.toNat, 7), (b.toNat, 1), (nxo x, 0)], optExt x⟩
  | .vpack d a b x => some ⟨.vector, 0x36, pack [(d.toNat, 13), (a.toNat, 7), (b.toNat, 1), (nxo x, 0)], optExt x⟩
  | .vld d c i x => some ⟨.vector, 0x40, pack [(d.toNat, 13), (c.toNat, 9), (i.toNat, 1), (nxo x, 0)], optExt x⟩
  | .vst d c i x => some ⟨.vector, 0x41, pack [(d.toNat, 13), (c.toNat, 9), (i.toNat, 1), (nxo x, 0)], optExt x⟩
  | .vgat d c i x => some ⟨.vector, 0x42, pack [(d.toNat, 13), (c.toNat, 9), (i.toNat, 1), (1, 0)], [x.word]⟩
  | .vsct d c i x => some ⟨.vector, 0x43, pack [(d.toNat, 13), (c.toNat, 9), (i.toNat, 1), (1, 0)], [x.word]⟩
  | .vrng d a b x => some ⟨.vector, 0x50, pack [(d.toNat, 13), (a.toNat, 7), (b.toNat, 1), (nxo x, 0)], optExt x⟩
  | .vdrop d a b x => some ⟨.vector, 0x51, pack [(d.toNat, 13), (a.toNat, 7), (b.toNat, 1), (nxo x, 0)], optExt x⟩
  | .vtopk d a b x => some ⟨.vector, 0x52, pack [(d.toNat, 13), (a.toNat, 7), (b.toNat, 1), (nxo x, 0)], optExt x⟩
  | .vmov d a x => some ⟨.vector, 0x60, pack [(d.toNat, 13), (a.toNat, 7), (nxo x, 0)], optExt x⟩
  | .vli d i x => some ⟨.vector, 0x61, pack [(d.toNat, 13), (i.toNat, 1), (nxo x, 0)], optExt x⟩
  | .vlse d a b x => some ⟨.vector, 0x62, pack [(d.toNat, 13), (a.toNat, 7), (b.toNat, 1), (nxo x, 0)], optExt x⟩
  | .vpush a x => some ⟨.vector, 0x63, pack [(a.toNat, 7), (nxo x, 0)], optExt x⟩
  | .vpop d x => some ⟨.vector, 0x64, pack [(d.toNat, 13), (nxo x, 0)], optExt x⟩
  | .mfmt w => some ⟨.matrix, 0x00, pack [(1, 0)], [wordOf (w.toNat * 2 ^ 19)]⟩
  | .mzero t u => some ⟨.matrix, 0x01, pack [(t.toNat, 16), (u.toNat, 13)], []⟩
  | .mma t u f w c x => some ⟨.matrix, 0x02, pack [(t.toNat, 16), (u.toNat, 13), (f.toNat, 12), (w.toNat, 4), (c.toNat, 2), (x.words, 0)], x.exts⟩
  | .mmaw t u f r w c x => some ⟨.matrix, 0x03, pack [(t.toNat, 16), (u.toNat, 13), (f.toNat, 12), (r.toNat, 10), (w.toNat, 4), (c.toNat, 2), (x.words, 0)], x.exts⟩
  | .mmat t u f w c x => some ⟨.matrix, 0x04, pack [(t.toNat, 16), (u.toNat, 13), (f.toNat, 12), (w.toNat, 4), (c.toNat, 2), (x.words, 0)], x.exts⟩
  | .mwait t n => some ⟨.matrix, 0x05, pack [(t.toNat, 16), (n.toNat, 7)], []⟩
  | .mrd t v r x => some ⟨.matrix, 0x06, pack [(t.toNat, 16), (v.toNat, 8), (r.toNat, 2), (nxo x, 0)], rowExts x⟩
  | .mwr t v r x => some ⟨.matrix, 0x07, pack [(t.toNat, 16), (v.toNat, 8), (r.toNat, 2), (nxo x, 0)], rowExts x⟩
  | .mvoc t u f l w c x => some ⟨.matrix, 0x08, pack [(t.toNat, 16), (u.toNat, 13), (f.toNat, 12), (l.toNat, 11), (w.toNat, 4), (c.toNat, 2), (x.words, 0)], x.exts⟩
  | .mvocbFwd t u f l w c x => some ⟨.matrix, 0x09, pack [(t.toNat, 16), (u.toNat, 13), (f.toNat, 12), (l.toNat, 11), (w.toNat, 4), (c.toNat, 2), (x.words, 0)], x.exts⟩
  | .mvocbBwd t u f p w c x => some ⟨.matrix, 0x09, pack [(t.toNat, 16), (u.toNat, 13), (f.toNat, 12), (p.toNat, 6), (w.toNat, 4), (c.toNat, 2), (1, 9), (x.words, 0)], x.exts⟩
  | .hmerge lo v row => some ⟨.matrix, 0x0A, pack [(lo.toNat, 16), (v.toNat, 7), (1, 0)], [wordOf row.toNat]⟩
  | .hread v row => some ⟨.matrix, 0x0B, pack [(v.toNat, 7), (1, 0)], [wordOf row.toNat]⟩
  | .mapld s gen mw c rse sem => some ⟨.matrix, 0x0C, pack [(s.toNat, 16), (gen.toNat, 7), (mw.toNat, 4), (1, 0)], [wordOf (c.toNat * 2 ^ 28 + rse.toNat * 2 ^ 27 + sem.toNat * 2 ^ 21)]⟩
  | .mnorm m v row => some ⟨.matrix, 0x0D, pack [(m.toNat, 16), (v.toNat, 7), (1, 0)], [wordOf row.toNat]⟩
  | .cpy d => some ⟨.copy, 0x00, pack [(d.toNat, 3)], []⟩
  | .cpyf d x => some ⟨.copy, 0x01, pack [(d.toNat, 3), (nxo x, 0)], tagExts x⟩
  | .cpyt d => some ⟨.copy, 0x02, pack [(d.toNat, 3)], []⟩
  | .cpyw d => some ⟨.copy, 0x03, pack [(d.toNat, 3)], []⟩
  | .cpyr d => some ⟨.copy, 0x04, pack [(d.toNat, 3)], []⟩
  | .cwp c h m x => some ⟨.copy, 0x05, pack [(c.toNat, 16), (h.toNat, 10), (m.toNat, 1), (nxo x, 0)], x.toList⟩
  | .cwait c m x => some ⟨.copy, 0x06, pack [(c.toNat, 16), (m.toNat, 1), (nxo x, 0)], x.toList⟩
  | .chead h a => some ⟨.copy, 0x07, pack [(h.toNat, 10), (a.toNat, 1)], []⟩
  | .cmap k a n => some ⟨.copy, 0x08, pack [(k.toNat, 16), (a.toNat, 1), (1, 0)], [wordOf n.toNat]⟩
  | .cmwait k hs t h v => some ⟨.copy, 0x09, pack [(k.toNat, 16), (hs.toNat, 10), (t.toNat, 9), (h.toNat, 1), (1, 0)], [v]⟩
  | .cfence k m => some ⟨.copy, 0x0A, pack [(k.toNat, 16), (m.toNat, 1)], []⟩
  | .cabort c => some ⟨.copy, 0x0B, pack [(c.toNat, 16)], []⟩
  | .cabortBt h => some ⟨.copy, 0x0B, pack [(h.toNat, 10), (4, 16)], []⟩
  | .ltap l k i x => some ⟨.tap, 0x00, pack [(l.toNat, 14), (k.toNat, 11), (i.toNat, 1), (nxo x, 0)], x.toList⟩
  | .ldrive l k i h => some ⟨.tap, 0x01, pack [(l.toNat, 14), (k.toNat, 11), (i.toNat, 1), (1, 0)], [wordOf h.toNat]⟩
  | .lfwd l o h => some ⟨.tap, 0x02, pack [(l.toNat, 14), (o.toNat, 1), (1, 0)], [wordOf h.toNat]⟩
  | .lsel i c x => some ⟨.tap, 0x03, pack [(i.toNat, 5), (c.toNat, 1), (nxo x, 0)], x.toList⟩
  | .lidle n => some ⟨.tap, 0x04, pack [(n.toNat, 1)], []⟩
  | .lcfg w => some ⟨.tap, 0x05, pack [(w.toNat, 1)], []⟩
  | .fput d => some ⟨.fabric, 0x00, pack [(d.toNat, 3)], []⟩
  | .fget d => some ⟨.fabric, 0x01, pack [(d.toNat, 3)], []⟩
  | .famo d => some ⟨.fabric, 0x02, pack [(d.toNat, 3)], []⟩
  | .facas d => some ⟨.fabric, 0x03, pack [(d.toNat, 3)], []⟩
  | .fmcast d => some ⟨.fabric, 0x04, pack [(d.toNat, 3)], []⟩
  | .fred d => some ⟨.fabric, 0x05, pack [(d.toNat, 3)], []⟩
  | .gload d => some ⟨.fabric, 0x06, pack [(d.toNat, 3)], []⟩
  | .grun d => some ⟨.fabric, 0x07, pack [(d.toNat, 3)], []⟩
  | .gpatch d => some ⟨.fabric, 0x08, pack [(d.toNat, 3)], []⟩
  | .gstat h d => some ⟨.fabric, 0x09, pack [(h.toNat, 10), (d.toNat, 1)], []⟩
  | .gabort h => some ⟨.fabric, 0x0A, pack [(h.toNat, 10)], []⟩
  | .fbar h m => some ⟨.fabric, 0x0B, pack [(h.toNat, 10), (m.toNat, 1)], []⟩
  | .ringcfg k f v => some ⟨.fabric, 0x0C, pack [(k.toNat, 16), (f.toNat, 1), (1, 0)], [v]⟩
  | .ringbyp k s f => some ⟨.fabric, 0x0D, pack [(k.toNat, 16), (s.toNat, 10), (f.toNat, 1)], []⟩
  | .ringinj d => some ⟨.fabric, 0x0E, pack [(d.toNat, 3)], []⟩
  | .fsync k m => some ⟨.fabric, 0x0F, pack [(k.toNat, 16), (m.toNat, 1)], []⟩
  | .repeatIteration .. | .arrayOperationComplete .. | .mapTableLatch .. | .mapInstall .. | .fetchLine ..
  | .issueGroup .. | .scalarResultWrite .. | .vectorResultWrite .. | .timedAccessPerform ..
  | .timedReplyDeliver .. | .timedStackRequest .. | .untimedPartPerform .. | .bayReplyLand ..
  | .copyTimedPiece .. | .fifoLineAppend .. | .slackRead .. | .btChainRecord .. | .btHandBack ..
  | .transportHeadRead .. | .tailWrite .. | .segmentCrcVerdict .. | .linkLost .. | .ringStateTransition ..
  | .ringConfigEffective | .ringInjectionStaged .. | .coachmanFrame .. | .coachmanTableUpdate ..
  | .coachmanPresent .. | .timetableSlipCheck .. | .teamSlipTrap .. | .barrierPhaseComplete ..
  | .budgetExpiry .. | .checkpoint .. | .preemptHalt .. | .saveImage .. | .redirectedReply ..
  | .restoreLoad .. | .teamResume .. | .recoveryPointSave .. | .recoveryPointCommit .. | .rollbackRestore ..
  | .trapEntry .. | .sigFire .. | .sigFlagStore .. | .fabricCommandAccept | .fabricWriteBack ..
  | .fabricResend .. | .fabricTimeout .. | .graphBarrierArrival .. | .graphSignal .. | .graphReplayStart ..
  | .graphOperationStart .. | .graphOperationFinish .. | .graphReplayEnd .. | .graphStallTimeout ..
  | .migrationEpochStart | .migrationMove .. | .hostMailboxPost .. | .telemetrySample ..
  | .pinFillComplete .. | .otinvComplete .. | .partitionStart .. | .ringBringUp .. | .ringBeatArrival ..
  | .fabricRequestArrival .. | .fabricReplyArrival .. | .planeDown .. | .hostWindowAccess ..
  | .hostAtomic .. | .hostPostWindowRead .. | .thermalThreshold .. | .boot .. | .attestationRequest ..
  | .firmwareActivation .. | .pinFill .. | .otinv .. | .btheadWrite .. | .pkretry .. | .cfstResume ..
  | .ssstatWrite .. | .sscfgWrite .. | .migfreePush .. | .mbcfgWrite .. | .tdqWrite .. | .tskcurWrite ..
  | .hcfgWrite .. | .prereq .. | .prrst .. | .rbreq .. | .hostSnoop .. | .hostCompletion ..
  | .fabricBringUp .. | .unitFencing .. | .partitionEnd .. => none

/-- The fields of an instruction in an opcode space. -/
def build : Space → Nat → Word → List Word → Option Instr
  | .conductor => buildConductor
  | .vector => buildVector
  | .matrix => buildMatrix
  | .copy => buildCopy
  | .tap => buildTap
  | .fabric => buildFabric

/-- The number of extension words that a format's NX field, or W in format CW, demands (R218, R219). -/
def nxOf (sp : Space) (op : Nat) (w : Word) : Nat :=
  match sp with
  | .conductor => if op = 0x27 ∨ op = 0x28 then w.toNat / 2 ^ 13 % 2 else 0
  | .matrix => w.toNat % 4
  | .vector => w.toNat % 2
  | .copy => w.toNat % 2
  | .tap => w.toNat % 2
  | .fabric => w.toNat % 2

/-- The failed check of R216, by the name of its subcode (R217). LINE is never a decode check (R214). -/
inductive DecErr where
  | opcode | reserved | gap | cont | repeatMisuse
  deriving DecidableEq, Repr

/-- The illegal-instruction subcode of a failed check (R217). -/
def DecErr.subcode : DecErr → Nat
  | .opcode => 1
  | .reserved => 2
  | .gap => 3
  | .cont => 4
  | .repeatMisuse => 5

/-- A decoded instruction: its gap, itself and the ring words it takes. -/
structure Decoded where
  gap : Nat
  instr : Instr
  len : Nat
  deriving DecidableEq, Repr

/-- Checks 3 and 4 of R216 on one instruction: its gap, then its reserved fields. A word's reserved bits are zero exactly
when the fields read from it make up the same operand bits and the same extension words again. -/
def decodeFields (sp : Space) (first : Bool) (w : Word) (ks : List Word) : Except DecErr Decoded :=
  let op := w.toNat / 2 ^ 19 % 256
  let g5 := w.toNat / 2 ^ 27
  let gap := if g5 = 31 then (ext0 ks).toNat else g5
  let xs := if g5 = 31 then ks.tail else ks
  if gap = 0 ∧ (first = false ∨ g5 = 31) then .error .gap
  else match build sp op w xs with
    | none => .error .opcode
    | some i =>
      if i.wf = true ∧ i.encoding = some ⟨sp, op, w.toNat % 2 ^ 19, xs⟩ then .ok ⟨gap, i, 1 + ks.length⟩
      else .error .reserved

/-- Checks 1 and 2 of R216 on one instruction word and the continuation words that follow it. -/
def decodeCounts (sp : Space) (w : Word) (ks : List Word) : Except DecErr Unit :=
  let op := w.toNat / 2 ^ 19 % 256
  match build sp op w [] with
  | none => .error .opcode
  | some _ =>
    if ks.length = nxOf sp op w + (if w.toNat / 2 ^ 27 = 31 then 1 else 0) then .ok () else .error .cont

/-- The no-repeat set of R223. -/
def Instr.noRepeat (i : Instr) : Bool :=
  match i.encoding with
  | some e => e.space == .conductor &&
      [0x30, 0x31, 0x32, 0x33, 0x34, 0x35, 0x36, 0x37, 0x38, 0x39, 0x3A, 0x50, 0x51, 0x57, 0x61, 0x62, 0x63].contains e.op
  | none => true

/-- The continuation words at the head of a run of ring words. -/
def contWords : List (Word × Bool) → List Word
  | (k, true) :: r => k :: contWords r
  | (_, false) :: _ => []
  | [] => []

/-- One instruction that no prefix stands before. -/
def decodeOne (e : Engine) (first : Bool) (w : Word) (ks : List Word) : Except DecErr Decoded :=
  match decodeCounts e.space w ks with
  | .error x => .error x
  | .ok () => decodeFields e.space first w ks

/-- A prefix and the instruction it stands before: the checks of R216 over both in their order (R216, R223). -/
def decodeRepeat (e : Engine) (first : Bool) (p : Word) (w : Word) (ks : List Word) : Except DecErr Decoded :=
  match decodeCounts e.space w ks with
  | .error x => .error x
  | .ok () =>
    if p.toNat / 2 ^ 27 = 0 then .error .gap
    else match decodeFields e.space first w ks with
      | .error .gap => .error .gap
      | .error x => .error x
      | .ok d =>
        if (Instr.rpt (fld p 27 5) (fld p 10 9) (fld p 7 3) (fld p 4 3) (fld p 1 3)).wf = false ∨ p.toNat % 2 = 1 then
          .error .reserved
        else if d.instr.noRepeat then .error .repeatMisuse
        else .ok ⟨d.gap, .rpt (fld p 27 5) (fld p 10 9) (fld p 7 3) (fld p 4 3) (fld p 1 3), d.len + 1⟩

/-- The instruction that begins at the head of a stream's ring words, each with its hidden continuation bit (R213, R215 to
R217). `first` says that it is the stream's first instruction in its block, where a gap of 0 is allowed (R169). -/
def decode (e : Engine) (first : Bool) : List (Word × Bool) → Except DecErr Decoded
  | [] => .error .cont
  | (_, true) :: _ => .error .cont
  | (w, false) :: r =>
    if w.toNat / 2 ^ 19 % 256 = 0xFF then
      match r with
      | (v, false) :: r' => decodeRepeat e first w v (contWords r')
      | (_, true) :: _ => .error .cont
      | [] => .error .cont
    else decodeOne e first w (contWords r)

/-- The gap's field and its extended stamp word (R215). -/
def gapWords (gap : Nat) : Nat × List Word := if 1 ≤ gap ∧ gap ≤ 30 ∨ gap = 0 then (gap, []) else (31, [wordOf gap])

/-- The ring words of an instruction with a gap: the opcode space, then each word with its continuation bit (R215). -/
def encode (gap : Nat) (i : Instr) : Option (Space × List (Word × Bool)) :=
  match i.encoding with
  | none => none
  | some e =>
    let g := gapWords gap
    some (e.space, (wordOf (g.1 * 2 ^ 27 + e.op * 2 ^ 19 + e.body), false) :: (g.2 ++ e.ext).map (·, true))

/-- The word of a repeat prefix (R222). -/
def encodePrefix (p : BitVec 5) (n : BitVec 9) (d a b : BitVec 3) : Word :=
  wordOf (p.toNat * 2 ^ 27 + 0xFF * 2 ^ 19 + n.toNat * 2 ^ 10 + d.toNat * 2 ^ 7 + a.toNat * 2 ^ 4 + b.toNat * 2)

/-- An instruction word of a stream and the continuation words that its counts demand, read from a number of 32-bit words, the
first lowest; words beyond the number are zero. -/
def wordsFrom (sp : Space) (w : Nat) : List (Word × Bool) :=
  let a := wordOf w
  let n := nxOf sp (a.toNat / 2 ^ 19 % 256) a + (if a.toNat / 2 ^ 27 = 31 then 1 else 0)
  (a, false) :: (List.range n).map fun i => (wordOf (w / 2 ^ (32 * (i + 1))), true)

/-- The ring words of a table word in one opcode space: an instruction, or a repeat word and the instruction after it (R222). -/
def tableWords (sp : Space) (nbits w : Nat) : List (Word × Bool) :=
  let v := w % 2 ^ nbits
  if v / 2 ^ 19 % 256 = 0xFF then (wordOf v, false) :: wordsFrom sp (v / 2 ^ 32) else wordsFrom sp v

/-- The stream whose opcode space gives a table word a meaning, the first in engine order (the streams' opcodes overlap, R226;
DESIGN CHOICE, log entry 5), with its instruction. -/
def tableStream (nbits w : Nat) : Option (Engine × Instr) :=
  [Engine.conductor, .vector, .matrix, .copy0, .tap, .fabric].findSome? fun e =>
    match decode e true (tableWords e.space nbits w) with
    | .ok d => some (e, d.instr)
    | .error _ => none

/-- The instruction that the decoder reads from a word of the opcode table, as the first of its block (R169). -/
def decodeTableWord (nbits w : Nat) : Option Instr := (tableStream nbits w).map (·.2)

end Sys2Proof
end

