-- ==== Sys2Proof/Machine/State.lean ====
section
/-!
DEFINITION. The state of one package: its 384 stations, its memory, the units shared by the stations, the acts still to be
done in the current cycle, and the inputs and outputs. Every field is plain data. Registers that `csr` reads whole are held as
64-bit words; their fields are read and written by the accessors of Machine/Ops.lean.
-/

namespace Sys2Proof.Machine

/-- Resident level and task level (R189). -/
inductive Level where
  | resident | task
  deriving DecidableEq, Repr

/-- A capability register: its bits and its hidden TAG (R15). -/
structure Cap where
  bits : BitVec 128
  tag : Bool
  deriving DecidableEq, Repr

/-- The state of a landing bay (R44). -/
inductive BayState where
  | idle | pending | full | void
  deriving DecidableEq, Repr

/-- A landing bay: its 256 bytes, its state, whether its bytes carry poison (R44, R387). -/
structure Bay where
  data : Line
  st : BayState
  poison : Bool
  deriving DecidableEq, Repr

/-- A hardware loop with its hidden SKIP bit (R221, R242). -/
structure Loop where
  st : Nat
  en : Nat
  ct : Nat
  skip : Bool
  deriving DecidableEq, Repr

/-- An instruction stream: its program counter, the stamp of its last released instruction or iteration, whether its next one is
its first in the block, its loops, the next iteration of a repeat in progress (R223, R224), the hidden continuation bits of its ring and the words in each half, and
what a sample of a halted stream reports (R165, R169, R213, R222, R242, R401). -/
structure Stream where
  pc : Nat
  stamp : Nat
  first : Bool
  loops : Vector Loop 2
  rep : Option Nat
  cont : BitVec 1024
  len0 : Nat
  len1 : Nat
  lastPc : Nat
  lastStamp : Nat
  deriving DecidableEq, Repr

/-- The fetch that the last `fork.pf` began: block, cycle of the `fork.pf`, first byte, lines, RES, next line to read, the lanes of
the line read but not yet in the rings, the block's stamp base, and whether a fault abandoned it (R167, R213, R214). -/
structure Fetch where
  block : Nat
  start : Nat
  line0 : Nat
  lines : Nat
  res : Bool
  next : Nat
  buf : List Word
  base : Nat
  fault : Bool
  deriving DecidableEq, Repr

/-- A partial value of a reduction with its P and N bits (R87). -/
structure Partial where
  v : Word
  p : Bool
  n : Bool
  deriving DecidableEq, Repr

/-- An entry of a tree state: level, node index and partial (R89). -/
structure TreeEntry where
  l : Nat
  i : Nat
  x : Partial
  deriving DecidableEq, Repr

/-- A tree state (R89, R298). -/
structure TreeState where
  lo : Nat
  hi : Nat
  int : Bool
  base : Option Partial
  entries : List TreeEntry
  deriving DecidableEq, Repr

/-- An element of a tile: empty, or a tree state (R298). -/
abbrev Elem := Option TreeState

/-- A row of an accumulator tile: 128 elements (R221). -/
abbrev TileRow := Vector Elem 128

/-- An accumulator tile: 64 rows (R221). -/
abbrev Tile := Vector TileRow 64

/-- A line of an operand FIFO with its hidden map tag and its poison (R131, R309, R387). -/
structure FifoLine where
  data : Line
  tag : MapTag
  poison : Bool
  deriving DecidableEq, Repr

/-- An operand FIFO: its lines from the oldest, its append count and its consumption position (R131, R323). -/
structure Fifo where
  lines : List FifoLine
  pos : BitVec 32
  con : BitVec 32
  deriving DecidableEq, Repr

/-- A mantissa map slot: MAPST, the installed table, the pending table, RSE with its semaphore, and the nominal cycle from which
the pending table may be installed (R310, R312). -/
structure MapSlot where
  reg : DWord
  table : Line
  pending : Line
  latched : Bool
  rse : Option Nat
  ready : Nat
  deriving DecidableEq, Repr

/-- A scale-selection unit: SSCFG, SSSTAT and its window of block records (u, s, n), oldest first (R76, R77). -/
structure ScaleUnit where
  cfg : DWord
  stat : DWord
  hist : List (Nat × Nat × Nat)
  deriving DecidableEq, Repr

/-- An array operation in flight, with all that it latched at issue (R304): its target tile `t` and its field T, which names another pair for
`mvocb.bwd` (R300); and whether it has completed in the current nominal cycle (R305). -/
structure ArrayOp where
  kind : Nat
  stamp : Nat
  pc : Nat
  issue : Nat
  busyUntil : Nat
  due : Nat
  t : Nat
  fieldT : Nat
  q : DWord
  first : Bool
  last : Bool
  ncol : Nat
  c0 : Nat
  g : Option Nat
  kc : Nat
  v0 : Nat
  rowMajor : Bool
  mxfmt : DWord
  hcfg : DWord
  hscl : DWord
  aLines : List Line
  bLines : List Line
  map : Option (Nat × Line)
  dvals : List (List Word)
  done : Bool
  deriving DecidableEq, Repr

/-- What the instruction of a trap was: engine, stamp, program counter and iteration (R379, R380). -/
structure TrapAt where
  eng : Nat
  stamp : Nat
  pc : Nat
  rpti : Option Nat
  deriving DecidableEq, Repr

/-- What an issued instruction still has to write, each at its nominal cycle (R233, R267, R273, R297, R307, R318 to R320). -/
inductive Eff where
  | sreg (d : BitVec 5) (v : DWord)
  | creg (d : BitVec 4) (c : Cap)
  | csr (srn : Nat) (v : DWord)
  | vreg (d : BitVec 6) (mask : Line) (data : Line)
  | qreg (d : BitVec 3) (mask : DWord) (data : DWord)
  | flags (f : BitVec 7)
  | push (b : Bool) (data : Line)
  | pop (b : Bool) (d : BitVec 6)
  | counts (ids : List Nat)
  | zeroRows (t : BitVec 3) (q : DWord)
  | setRow (t : BitVec 3) (r : Nat) (int : Bool) (lanes : List Word)
  | setElem (t : BitVec 3) (r c : Nat) (e : Elem)
  | heap (off : Nat) (bytes : List Byte)
  | raise (n : Nat)
  | tapWrite (c : BitVec 4) (cursor : Option Nat) (disp : Int) (data : Line) (a : TrapAt)
  | tapFifo (b : Bool) (data : Line) (tag : MapTag) (a : TrapAt)
  | tapDrive (lane span : Nat) (data : Line) (a : TrapAt)
  deriving DecidableEq, Repr

/-- A pending result: its nominal cycle, the nominal cycle of issue and the engine code, which order same-cycle writes, and the
effect (R173, R233, R273). -/
structure Pend where
  due : Nat
  iss : Nat
  eng : Nat
  eff : Eff
  deriving DecidableEq, Repr

/-- A trap being taken or held (R376, R377). -/
structure Trap where
  cause : Nat
  sub : Nat
  code : Nat
  async : Bool
  mask : Nat
  at_ : TrapAt
  deriving DecidableEq, Repr

/-- The progress of a pre-emption on a station (R201). -/
inductive PrState where
  | run | pending | hold | halted | saved | restore
  deriving DecidableEq, Repr

/-- An unfired signal: scope, form, argument, the checked target of a flag store, and the cycle and the level of its issue (R112, R195,
R264). -/
structure Sig where
  scope : Nat
  form : Nat
  n : Nat
  cap : Cap
  issue : Nat
  level : Level
  deriving DecidableEq, Repr

/-- A copy command (R122 to R130): its position in the channel, its descriptor's choices, and its pieces. -/
structure CopyCmd where
  id : Nat
  opcode : Nat
  timed : Bool
  issue : Nat
  issueNom : Nat
  stamp : Nat
  pc : Nat
  start : Nat
  len : Nat
  dkind : Nat
  add : Bool
  ssu : Option Nat
  rsem : Option Nat
  tag : MapTag
  srcFmt : Nat
  dstFmt : Nat
  convert : Bool
  done : List (Nat × Nat)
  nextPiece : Nat
  firstNom : Nat
  nPieces : Nat
  level : Level
  hand : Bool
  deriving DecidableEq, Repr

/-- One piece of a timed copy: the runs of memory keys that its source and destination take, the geometries of their pages, its place
in the destination stream, the bytes that it has read and not yet converted (R78), those that it has converted with the nominal cycle in
which its write is issued and the flags of its conversion, the line accesses of its write still to be performed (R125, R127). -/
structure Piece where
  cmd : Nat
  idx : Nat
  src : List (Nat × Nat)
  dst : List (Nat × Nat)
  geom : Nat × Nat
  pos : Nat
  len : Nat
  raw : Option (List Byte)
  data : Option (List Byte)
  wdue : Nat
  flags : BitVec 7
  written : Bool
  left : Nat
  deriving DecidableEq, Repr

/-- A copy channel: CWP, CEND, CSTAT, CFST, its outstanding commands, the pieces not yet performed, the starts of its last 16
accepted commands, and the nominal cycle of its last source read (R122, R127, R128, R140, R328). -/
structure Channel where
  wp : DWord
  end_ : DWord
  cstat : DWord
  cfst : DWord
  cmds : List CopyCmd
  pieces : List Piece
  starts : List (DWord × Nat)
  accepted : Nat
  lastRead : Nat
  deriving DecidableEq, Repr

/-- A completion bitmap slot: CBMOBJ, CBMCFG and its 256 bits (R136). -/
structure Bitmap where
  obj : DWord
  cfg : DWord
  bits : BitVec 256
  deriving DecidableEq, Repr

/-- A pin-table entry (R32, R33): object, first page, pages, and the frame, format and atomic place of each page of the run. -/
structure PinEntry where
  obj : Nat
  first : Nat
  count : Nat
  bank : Bool
  frame : Nat
  abase : Nat
  pages : List (Nat × Nat × Nat × Bool)
  deriving DecidableEq, Repr

/-- The shadow of a stream at trap entry (R381), with the hidden bit that says that its next instruction is its first (R169). -/
structure Shadow where
  idle : Bool
  rptv : Bool
  rpti : Nat
  pc : Nat
  stamp : Nat
  first : Bool
  loops : Vector Loop 2
  deriving DecidableEq, Repr

/-- A slack read in progress (R151): line, frame, beat and quarter of its source, the tap that it serves, and the data with their
poison once they have landed. -/
structure SlackWait where
  line : Nat
  frame : Int
  beat : Nat
  quarter : Nat
  at_ : TrapAt
  ready : Option (Line × Bool)
  deriving DecidableEq, Repr

/-- A result of the coachman held for a station until its nominal cycle (R157, R378). -/
structure Boarding where
  frame : Nat
  q : DWord
  map : List Nat
  wbblk : DWord
  slksel : DWord
  tagin : DWord
  deriving DecidableEq, Repr

/-- The register files of a station (R221): scalars, capabilities, vectors, predicates, tiles, bays, semaphores with the raises
of the current cycle, and their overflow bits (R185). -/
structure Regs where
  s : Vector DWord 32
  c : Vector Cap 16
  v : Vector Line 64
  q : Vector DWord 8
  tiles : Vector Tile 8
  bays : Vector Bay 16
  hs : DWord
  hsNew : DWord
  hsovf : DWord
  deriving DecidableEq, Repr

/-- The station system registers that programs read and write, or that hardware keeps for them (R225). MBSEL and the slot of TDQ are kept
for each station: the manual does not say for which unit they are (R190, R192; log entry 150). -/
structure SysRegs where
  lagcfg : DWord
  teamid : DWord
  ctxid : DWord
  stale : DWord
  budget : DWord
  fflags : DWord
  blane : DWord
  voidst : DWord
  codecfg : DWord
  ftst : DWord
  tskcur : DWord
  tskpre0 : DWord
  tskpre1 : DWord
  banksel : DWord
  sbst : DWord
  mancfg : DWord
  savcfg : DWord
  pinobj : DWord
  pinctl : DWord
  wbblk : DWord
  slksel : DWord
  tagin : DWord
  rowmap : Vector DWord 16
  mbsel : DWord
  tdq : DWord
  deriving DecidableEq, Repr

/-- Matrix-engine state of a station (R299, R304, R309, R314, R315, R131, R295). -/
structure Matrix where
  mxfmt : DWord
  hcfg : DWord
  hscl : DWord
  maps : Vector MapSlot 4
  fa : Fifo
  fb : Fifo
  ops : List ArrayOp
  busyUntil : Nat
  heap : List Host.Cell
  heapFree : DWord
  heapOwned : List (Nat × Nat)
  counters : Vector (BitVec 32) 64
  deriving DecidableEq, Repr

/-- Trap, recovery and pre-emption state of a station, with the block and base of the trapped task (R379 to R382, R389, R391, R201 to R210). -/
structure TrapRegs where
  tcause : DWord
  tstate : DWord
  tpc : DWord
  tframe : DWord
  tssel : DWord
  tnom : Nat
  taskBlock : Nat
  taskBase : Nat
  inHandler : Bool
  tvec : DWord
  shadows : Vector Shadow 7
  taking : Option (Trap × Nat)
  entering : Bool
  held : List (Trap × Nat)
  forked : Bool
  slipDue : Option Nat
  halted : Bool
  rpcfg : DWord
  rpst : DWord
  exlcfg : DWord
  exlst : DWord
  eccst : DWord
  deriving DecidableEq, Repr

/-- The state of a pre-emption, save or restore on a station: the fields that PRST reports, the cycles of the halt and of the end of a
load, and the recovery point being taken: 1 held, 2 written, with its frame, the nominal cycle held at, LAG then and whether the
checkpoint was unclean; the frame of the last one taken stays. `stage` is how far a save or a load has come; `team` is the team whose
context is loaded, `image` names the image loaded, `roll`: the load is that of a rollback; `kept` is the image's standby fetch while the
running block is read (R201 to R210, R390, R392). -/
structure Preempt where
  st : PrState
  full : Bool
  xd : Bool
  ovr : Bool
  mal : Bool
  nit : Nat
  frame : Nat
  haltAt : Nat
  loadAt : Nat
  loaded : Bool
  rp : Nat
  rpFrame : Nat
  rpNom : Nat
  rpLag : Nat
  rpFull : Bool
  area : Nat
  half : Bool
  resumeAt : Option Nat
  stage : Nat
  team : Nat
  image : Option Nat
  roll : Bool
  kept : Option Fetch
  deriving DecidableEq, Repr

/-- The running block of a station: number, base in nominal cycles, stamp base, running half, level, the last fetch,
and the partition that owns the station (R168, R188, R189). -/
structure Run where
  on : Bool
  part : Nat
  lag : Nat
  block : Nat
  base : Nat
  half : Bool
  level : Level
  fetch : Option Fetch
  startAt : Option Nat
  stall : Nat
  resyncAt : Nat
  resyncEnd : Nat
  waitTag : Option Nat
  deriving DecidableEq, Repr

/-- Lane-tap state of a station: the cursor's capability register and offset, the window exponent, the slack read in progress
(R334, R151). -/
structure Tap where
  tcc : BitVec 4
  tco : BitVec 48
  tw : Nat
  slack : Option SlackWait
  deriving DecidableEq, Repr

/-- One station (R13, R165). -/
structure Station where
  regs : Regs
  sys : SysRegs
  run : Run
  streams : Vector Stream 7
  pend : List Pend
  mat : Matrix
  ch : Vector Channel 2
  bitmaps : Vector Bitmap 8
  pins : Vector (Option PinEntry) 32
  pinDue : Option (Nat × DWord × DWord)
  scale : Vector ScaleUnit 8
  tap : Tap
  trap : TrapRegs
  pre : Preempt
  sigs : List Sig
  flagStores : List (Sig × Nat)
  boardings : List Boarding
  deriving DecidableEq, Repr

/-! ### Memory -/

/-- The bytes of the banks, the stack and the record of what was written, in one list of cells: strictly rising keys, no cell of
value 0 (what an unlisted byte reads as); the tagged granules (R22); the poisoned and the correctable 8-byte words (R386). Each
list rises strictly. -/
structure Memory where
  cells : List Host.Cell
  tags : List Nat
  poison : List Nat
  soft : List Nat
  deriving DecidableEq, Repr

/-- A physical place on the package or off it (R30). -/
inductive Phys where
  | bank (k : Nat) (off : Nat)
  | stack (a : Nat)
  | host (a : Nat)
  | peer (node obj off : Nat)
  deriving DecidableEq, Repr

/-! ### Timed accesses -/

/-- An atomic operation with its operand, size in bytes and the new value of a compare-and-swap (R249, R250). -/
structure Atom where
  op : Nat
  size : Nat
  cas : Bool
  opnd : DWord
  newv : DWord
  deriving DecidableEq, Repr

/-- What one line access does at its place (R46, R60, R269). -/
inductive TOp where
  | read
  | write (bytes : List (Nat × Byte)) (tag : Option Bool)
  | atomic (a : Atom)
  | snap
  deriving DecidableEq, Repr

/-- What has become of a line access: on its way, at the memory port, performed, refused with a subcode of R63, or discarded for
a lag mismatch (R58, R64, R174). -/
inductive TStat where
  | sent
  | atPort
  | done
  | refused (sub : Nat)
  | skew
  deriving DecidableEq, Repr

/-- One line access of a timed access (R46, R55, R60): the bank of a station or the stack, the line, the bytes of the line that it
touches, where its bytes begin in the line and how many they are; its lanes with their direction; the LAG[23:0] that its request
beat carries (R174); the cycles of its drive, of its array or channel access and of its reply's drive, and how many nominal
cycles after issue its result is usable, with how many cycles it has stood still before its drive (R173); what it does and what has become
of it. -/
structure TPart where
  id : Nat
  stack : Bool
  own : Bool
  bank : Stn
  line : Nat
  offs : List Nat
  lo : Nat
  len : Nat
  hop : Nat
  cw : Bool
  lane : Nat
  back : Nat
  lag : Nat
  drive : Nat
  arr : Nat
  reply : Nat
  due : Nat
  still : Nat
  op : TOp
  st : TStat
  lost : Bool
  tag : Bool
  poison : Bool
  data : Line
  delivered : Bool
  deriving DecidableEq, Repr

/-- What a timed access does with its reply. -/
inductive TUse where
  | none
  | load (d : BitVec 5) (size : Nat) (signed : Bool)
  | loadCap (d : BitVec 4)
  | bay (b : Nat)
  | vload (d : BitVec 6) (t fmt geom : Nat) (rm : Nat) (lanes : DWord) (off : Nat)
  | gather (d : BitVec 6) (t rm : Nat) (words : List (Nat × Nat × Nat)) (due : Nat)
  | map (slot gen mw : Nat) (rse : Option Nat)
  | drive (lane span : Nat) (cursor : Bool)
  | copyRead (ch cmd piece : Nat)
  | copyWrite (ch cmd piece : Nat)
  deriving DecidableEq, Repr

/-- A timed access of a station (R60): who issued it, in which cycle, at which nominal cycle and level, its use, the cycle in which a
refusal of it was reported (R64), and its line accesses. -/
structure Txn where
  k : Stn
  eng : Nat
  stamp : Nat
  pc : Nat
  rpti : Option Nat
  issue : Nat
  nom : Nat
  level : Level
  use : TUse
  reported : Option Nat
  parts : List TPart
  deriving DecidableEq, Repr

/-- A beat on a lane of a cluster's carriageway (R51): bank beats carry no data for a tap. -/
structure LaneBeat where
  cl : Nat
  lane : Nat
  slot : Nat
  start : Nat
  span : Nat
  data : Option Line
  lag : Nat
  poison : Bool
  deriving DecidableEq, Repr

/-! ### Untimed operations -/

/-- A place named by node, object and offset (R15). -/
structure Loc where
  node : Nat
  obj : Nat
  off : Nat
  deriving DecidableEq, Repr

/-- The progress of one piece of an untimed operation. -/
inductive UStat where
  | idle | reading | held | writing | done | failed
  deriving DecidableEq, Repr

/-- One piece of an untimed operation: source and destination offsets, lengths and position, its progress, the bytes of its current
side that have been performed or sent, whether it has left the channel's queues before the command parked or was abandoned (R130,
R140), its poison and its bytes, the flags of its conversion, the code with which it failed, its place among the parked arrivals
where it waits for a retry, that place once it has been retried (R139, R343), the geometries of its pages (R125), and whether its bytes came from a peer (R139). -/
structure UPiece where
  src : Nat
  srcLen : Nat
  dst : Nat
  dstLen : Nat
  pos : Nat
  st : UStat
  sent : Nat
  gone : Bool
  poison : Bool
  data : List Byte
  flags : BitVec 7
  code : Nat
  stop : Option Nat
  rep : Option Nat
  geom : Nat × Nat
  far : Bool
  deriving DecidableEq, Repr

/-- Whose work an untimed operation is; `window` is the host's, through its window (R372, R373). -/
inductive Owner where
  | rld (bay n : Nat)
  | atom (a : Atom) (bay : Option Nat)
  | copy (ch cmd : Nat)
  | fabric (cmd : Nat)
  | graph (slot op : Nat)
  | bt (ch rec : Nat)
  | mail (bay mb slot : Nat)
  | gstat (bay slot : Nat)
  | flag
  | serve
  | window (a : Option Atom) (read : Bool)
  deriving DecidableEq, Repr

/-- An untimed operation in the station's queues (R102, R104): the set of queues that it stands in, which is the station's, or a number
from 384 on of a context that is saved (R109); its queues (8 where it enters none), its place in issue order, the place, APLACE and ORD that the pin table gave a conductor's atomic (R32, R249), its source and destination objects or the line and
frame of its source segment (R327), the reduction that it makes at its destination (1 FP32, 2 INT32, 3 by the page's format),
whether its command was abandoned (R130), and its pieces. -/
structure UOp where
  id : Nat
  k : Stn
  part : Nat
  ctx : Nat
  eng : Nat
  qset : Nat
  rq : Nat
  wq : Nat
  seq : Nat
  issue : Nat
  owner : Owner
  pinned : Option (Phys × Nat × Bool)
  src : Option Loc
  seg : Option (Nat × Int)
  dst : Option Loc
  add : Nat
  srcFmt : Nat
  srcGeom : Nat
  dstFmt : Nat
  dstGeom : Nat
  convert : Bool
  level : Level
  limit : Nat
  cmp : Option Nat
  ssu : Option Nat
  flags : BitVec 7
  settled : Bool
  parked : Bool
  dead : Bool
  code : Nat
  pieces : List UPiece
  deriving DecidableEq, Repr

/-- A marker of `align` or of a queue fence, in a set of queues (R106, R108, R109). -/
structure Marker where
  k : Stn
  qset : Nat
  seq : Nat
  mask : Nat
  scope : Nat
  tm : Bool
  align : Bool
  issue : Nat
  deriving DecidableEq, Repr

/-- A fabric-queue command (R340 to R350, R356): its station and context, opcode, descriptor and progress. -/
structure FCmd where
  id : Nat
  k : Stn
  ctx : Nat
  op : Nat
  desc : Nat
  bits : Nat
  caps : List Cap
  issue : Nat
  issueNom : Nat
  stamp : Nat
  pc : Nat
  accepted : Bool
  status : Nat
  ecode : Nat
  set_ : Bool
  flags : BitVec 7
  bay : Option Nat
  rsem : Option Nat
  unit : Nat
  finished : Bool
  level : Level
  deriving DecidableEq, Repr

/-! ### The units of the package -/

/-- A packet that awaits its reply: when it was first sent, when last, how often it was resent, whose it is (R361), its station with
its entry in the exposure log, the result logged there where it was replayed (R391, R393), and the multicast packet that it forwards
(R345). -/
structure Unacked where
  pkt : Packet
  first : Nat
  last : Nat
  resent : Nat
  op : Nat
  piece : Nat
  log : Option (Stn × Nat)
  replay : Option Nat
  fwd : Option Packet
  deriving DecidableEq, Repr

/-- Sequence numbers, held packets and the reply cache of one peer (R120, R358, R362, R363). -/
structure PeerLink where
  node : Nat
  next : BitVec 16
  expect : BitVec 16
  plane : Nat
  held : List Packet
  cache : List (BitVec 16 × DWord × BitVec 16)
  deriving DecidableEq, Repr

/-- An act of the fabric engine in a later cycle: a head written, a block-transfer channel aborted, a replay aborted (R329, R333,
R349), a completion bit set (R137), a
semaphore raised after a write-back (R340). -/
inductive FabLate where
  | bit (k : Stn) (slot gen chunk : Nat)
  | raise (k : Stn) (n : Nat)
  | head (ch : Nat) (c : Cap)
  | abortBt (ch : Nat)
  | abortGraph (slot : Nat)
  deriving DecidableEq, Repr

/-- Bytes of a stream that a peer writes, of which a later packet brings the rest of their unit: the sender, the requester's node, partition
and context, the object, the offset at which the stream begins there, the position in the stream, and the bytes as they were sent
(R342, R365). -/
structure Half where
  src : Nat
  orig : Nat
  opart : Nat
  ctx : Nat
  obj : Nat
  base : Nat
  pos : Nat
  bytes : List Byte
  deriving DecidableEq, Repr

/-- The fabric engine: commands, packets in flight, peer links, planes, the request packets that it performs for peers by their
operation's number, acts of later cycles, blocks begun, and FABTO, FPLANE (R340, R357 to R363, R365). -/
structure Fabric where
  cmds : List FCmd
  fabto : DWord
  fplane : DWord
  unacked : List Unacked
  peers : List PeerLink
  serving : List (Nat × Packet)
  late : List (Nat × FabLate)
  halves : List Half
  deriving DecidableEq, Repr

/-- A block-transfer record in progress; `backing` once its hand-back write is under way (R133, R134). -/
structure BtRec where
  id : Nat
  cap : Cap
  head : Nat
  bme : Bool
  stn : Nat
  slot : Nat
  gen : Nat
  chunk0 : Nat
  len : Nat
  flags : BitVec 7
  finished : Option Nat
  backing : Bool
  deriving DecidableEq, Repr

/-- A block-transfer channel: BTHEAD, BTCTL, the capability it follows, a latched head, the upper half of a `csr` write of
BTHEAD, the records in progress in chain order, and whether the record to be read next met a fault before (R132, R134, R139, R225). -/
structure BtChan where
  head : Cap
  ctl : DWord
  cur : Cap
  latch : DWord
  recs : List BtRec
  ends : Bool
  haltWith : Option Nat
  rep : Bool
  deriving DecidableEq, Repr

/-- The state of a graph slot (R346). -/
inductive GState where
  | empty | idle | running | aborted
  deriving DecidableEq, Repr

/-- A graph operation of the image (R367). -/
structure GOp where
  succ : List Nat
  rank : Nat
  peer : Nat
  kind : Nat
  deps : Nat
  sb : Nat
  db : Nat
  rop : Nat
  len : Nat
  soff : Nat
  doff : Nat
  deriving DecidableEq, Repr

/-- A graph slot (R346 to R350, R366 to R369): `heard` are the signals counted in the current replay, `early` those for the next. -/
structure GSlot where
  part : Option Nat
  st : GState
  group : Nat
  members : List Nat
  rank : Nat
  ops : List GOp
  patch : List Cap
  active : List Cap
  shadow : List (Nat × Cap)
  shf : Bool
  pend : Option Nat
  runner : Option Nat
  counters : List Nat
  early : List Nat
  heard : List Nat
  done : List Bool
  started : List Bool
  runs : Nat
  cause : Nat
  frank : Nat
  bph : BitVec 16
  arrived : List (Nat × Nat)
  own : Option (Stn × Nat)
  progress : Nat
  startAt : Option Nat
  deriving DecidableEq, Repr

/-- The task-done slot, mailbox and ring registers of one partition, with its tables (R25, R68, R117, R191, R192, R352, R364,
R374, R383, R398, R401, R403). -/
structure Partition where
  on : Bool
  otcfg : DWord
  pstk : DWord
  plseed : DWord
  plctl : DWord
  pcl : List Nat
  rot : List Nat
  stgobj : DWord
  migcfg : DWord
  migfree : List Nat
  migovf : Bool
  done : List (Nat × BitVec 16)
  doneDue : List (Nat × Nat)
  cursors : Vector Nat 4
  fqcfg : DWord
  fqhead : DWord
  fqtail : DWord
  tlcfg : DWord
  tlhead : DWord
  tltail : DWord
  smpcfg : DWord
  pmsel : DWord
  pm : Vector (DWord × DWord) 8
  fscale : Vector ScaleUnit 8
  mberr : DWord
  bindings : List (Nat × Nat)
  channels : List Nat
  otbusy : List (Nat × Option Nat)
  f0 : Nat
  deriving DecidableEq, Repr

/-- A waybill entry or context record write on its way to the coachman, with the partition of the writer (R262, R263, R407). -/
structure TableWrite where
  at_ : Nat
  stn : Nat
  part : Nat
  way : Bool
  mode : Nat
  idx : Nat
  val : DWord
  val2 : DWord
  d : BitVec 5
  readAt : Nat
  deriving DecidableEq, Repr

/-- The boarded set of a team of a partition in a frame: the tag that its rows use, whether that is a catch-up, and the contexts of its
rows (R156, R158, R407). -/
structure Boarded where
  part : Nat
  team : Nat
  frame : Nat
  tag : Nat
  cue : Bool
  rows : List Nat
  deriving DecidableEq, Repr

/-- The coachman of a cluster: waybill entries and context records that are not zero, with the partitions that wrote them where these
are not partition 0 (R407), the writes on their way, the record updates of the last snapshot (a context that boards, or one
missed in a frame) and the tags that it found present, which are applied in the next cycle, and the boarded sets of past frames (R153, R155, R156, R262). -/
structure Coachman where
  waybill : List (Nat × BitVec 128)
  wayBy : List (Nat × Nat)
  records : List (Nat × DWord)
  recBy : List (Nat × Nat)
  writes : List TableWrite
  updates : List (Nat × Option Nat)
  arrived : List Nat
  frames : List Boarded
  deriving DecidableEq, Repr

/-- A route tag of the barrier tree (R179): BRCTL, membership, arrival bits, the cycle in which the phase completes. -/
structure RouteTag where
  ctl : DWord
  mask : BitVec 384
  arrived : BitVec 384
  due : Option Nat
  deriving DecidableEq, Repr

/-- A state of the repair table (R163). -/
inductive RingState where
  | run | lost | bypass | admitting | failed
  deriving DecidableEq, Repr

/-- One line of the weight-ring transport: RLCFG, RLSRC, the beats under way from the input port to the tail with the cycle of their
tail write, the cycles since the last good beat, whether the segment at the tail holds a beat that failed its link check, its running
CRC with the payload bytes still to come and the CRC of its header, the frames whose verdict is still to be known with its cycle, the
frames whose segment a verdict made absent, the recorded tags of past frames, the staged segment that replaces the arriving one, and
at a source member the first of the frame positions that it fills at bring-up, and the cycles until which the tail writes void beats after
a bypass and rests after an admission (R143, R146, R147, R150, R160, R162 to R164). -/
structure RingLine where
  cfg : DWord
  src : DWord
  input : List (Nat × Beat × Bool)
  badRun : Nat
  linkBad : Bool
  crc : Word
  left : Nat
  want : Nat
  judged : List (Nat × Bool × Nat)
  bad : List Nat
  tags : List (Nat × Option Nat)
  inject : Option Nat
  fill : Option Nat
  mute : Nat
  rest : Nat
  deriving DecidableEq, Repr

/-- A staged segment of the injection buffer (R164, R356). -/
structure Staged where
  line : Nat
  idx : Nat
  data : Option (List Byte)
  cmd : Nat
  deriving DecidableEq, Repr

/-- The weight-ring transport: its registers, the state of the repair table with the side of the lost neighbour, whether this package is
the new member, Q of the new member and the frame of its admission, the lines, the injection buffer by entry, the tags reported for
re-injection, the `ringcfg` changes still to take effect (form, frame, value), the transition requested (form, frame), the ring
manager, and the segments of the model image that a source member fills its lines with at bring-up: line, index, bytes (R144, R145,
R160, R163, R164, R353 to R355, R407). -/
structure Ring where
  ringcfg : DWord
  rmodel : DWord
  stkcirc : DWord
  state : RingState
  side : Nat
  newcomer : Bool
  qm : Nat
  lines : Vector RingLine 2
  buffer : List (Nat × Staged)
  reinject : List Nat
  changes : List (Nat × Nat × Nat)
  transition : Option (Nat × Nat)
  manager : Option Nat
  up : Bool
  admitAt : Nat
  image : List (Nat × Nat × List Byte)
  deriving DecidableEq, Repr

/-- The flow of a request to the host: of CXL.cache a read, a full 64-byte write, a write with byte enables (R370); an AtomicOp of
CXL.io (R371). -/
inductive HostKind where
  | rdCurr | itoMWr | woWrInv | fetchAdd | swap | cas
  deriving DecidableEq, Repr

/-- A request to the host that awaits its completion (R370, R371). -/
structure HostReq where
  kind : HostKind
  id : Nat
  op : Nat
  piece : Nat
  write : Bool
  addr : Nat
  len : Nat
  atom : Option Atom
  data : List Byte
  log : Option (Stn × Nat)
  deriving DecidableEq, Repr

/-- Host attachment: window registers and requests to the host (R372, R374). -/
structure HostLink where
  hwin : DWord
  hwerr : DWord
  waiting : List HostReq
  deriving DecidableEq, Repr

/-- A mailbox: its index and configuration word (R190). -/
structure Mailbox where
  idx : Nat
  cfg : DWord
  deriving DecidableEq, Repr

/-- A redirect entry: the bay of a context whose reply goes to a save image (R208). -/
structure Redirect where
  ctx : Nat
  stn : Stn
  bay : Nat
  image : Nat
  live : Option Stn
  deriving DecidableEq, Repr

/-- What the control area of a save image holds (R206): the station as it was saved, with its nominal cycle; the timed accesses whose
replies its lane interface holds; the masks of the manifest record, or none for a full image; and the set of queues in which its
operations and their markers stand meanwhile (R109). Its arrangement is not architectural: `ctl` holds the bytes that the save writes
there, by which a restore knows the image. -/
structure SavedImage where
  area : Nat
  stn : Station
  nom : Nat
  txns : List Txn
  masks : Option (List Nat)
  qset : Nat
  ctl : List Byte
  deriving DecidableEq, Repr

/-- A page counted for migration: holder's port, partition, object, page, the counts by node (R118). -/
structure MigCount where
  port : Nat
  part : Nat
  obj : Nat
  page : Nat
  counts : List (Nat × Nat)
  deriving DecidableEq, Repr

/-- How far a move of a page has come: triggered; its data are being read here; they are being written here, for a page that arrives or
for one that returns home (R119). -/
inductive MoveState where
  | due | leaving | arriving | returning
  deriving DecidableEq, Repr

/-- A move of a page that concerns this package: the partition, object and page here, the other node, how far it has come, the stack frame
that its data fill and the moves of its epoch so far (R117 to R119). -/
structure PageMove where
  part : Nat
  obj : Nat
  page : Nat
  node : Nat
  st : MoveState
  frame : Nat
  count : Nat
  deriving DecidableEq, Repr

/-- The move of a page. -/
def PageMove.isFor (v : PageMove) (p obj page : Nat) : Bool := v.part == p && v.obj == obj && v.page == page

/-- The service processor (R187, R404 to R409): node ID, measurement registers, power state, fenced units, the staged firmware image,
the units that failed its activation, and the images measured since boot, each with its register. -/
structure Service where
  node : Nat
  measures : List (List Byte)
  power : DWord
  fenced : List (Nat × Nat)
  pendingFw : Option (List Byte)
  failedFw : List (Nat × Nat)
  images : List (Nat × List Byte)
  deriving DecidableEq, Repr

/-- A cached translation of a memory port: partition, object, page, descriptor and leaf entry (R35, R38). -/
structure CacheEntry where
  port : Nat
  part : Nat
  obj : Nat
  page : Nat
  desc : Nat
  leafAt : Nat
  leaf : Nat
  deriving DecidableEq, Repr

/-- What the package sends out: packets, requests to the host, answers to the host, beats on an output port, reports to the service
processor or a verifier, and the data of a page that leaves for another node, with the moves of its epoch (R119). -/
inductive Out where
  | packet (p : Packet)
  | hostRequest (r : HostReq)
  | hostRead (data : List Byte) (poison : Bool)
  | hostAtomic (old : DWord) (aborted : Bool)
  | snoop (addr : Nat)
  | beat (line : Nat) (b : Beat) (skip : Bool)
  | badTag (line tag : Nat)
  | halted (k : Stn)
  | linkLost (line : Nat)
  | bypass (kind frame : Nat)
  | attest (report signature : List Byte)
  | power (st : Nat)
  | page (node part obj page count : Nat) (data : List Byte)
  deriving DecidableEq, Repr

/-- A record that awaits its append (R384, R399): the partition, the memory port that appends it, whether it goes to the fault queue or to
the telemetry ring, the cycle of its event, its place among the records of that cycle, and its four 8-byte words. -/
structure Rec where
  part : Nat
  port : Nat
  fault : Bool
  cyc : Nat
  key : Nat
  words : List Nat
  deriving DecidableEq, Repr

/-- For what a unit of the package accesses lines of memory: the save or the load of a station's image, its exposure log, or the move of a
page of an object of a partition (R48, R119, R206, R391). -/
inductive JobOwner where
  | station (k : Stn)
  | log (k : Stn)
  | page (part obj page : Nat)
  deriving DecidableEq, Repr

/-- What a line access of a unit does: it stores bytes, of which some 8-byte words are poisoned; it reads bytes that are then stored at
another place; it reads bytes for the unit, with their place in what the unit gathers; or it leaves the bytes of a bank that no range
keeps with free values (R208). -/
inductive JobUse where
  | store (bytes : List Byte) (bad : List Nat)
  | copyTo (ph : Phys)
  | gather (off : Nat)
  | forget (keep : List (Nat × Nat))
  deriving DecidableEq, Repr

/-- A line access that a unit of the package has still to make, by a memory port, for a partition: n bytes at a place (R48, R56, R59). -/
structure LineJob where
  id : Nat
  port : Nat
  part : Nat
  owner : JobOwner
  ph : Phys
  n : Nat
  use : JobUse
  deriving DecidableEq, Repr

/-- Bytes that a unit has gathered, at an offset, and the 8-byte words of them that are poisoned. -/
structure Gathered where
  owner : JobOwner
  off : Nat
  bytes : List Byte
  bad : List Nat
  deriving DecidableEq, Repr

/-- The units of the package that stations share; `jobs` are the line accesses that they have still to make, `lines` what they have
gathered, `posts` the messages that wait for their slots in the mailboxes, in their order (R374). -/
structure Package where
  parts : Vector Partition 16
  coach : Vector Coachman 4
  tags : Vector RouteTag 8
  ring : Ring
  fab : Fabric
  bt : Vector BtChan 64
  graphs : Vector GSlot 64
  hostl : HostLink
  boxes : List Mailbox
  redirects : List Redirect
  images : List SavedImage
  prereq : DWord
  rbreq : DWord
  rollbacks : List (Nat × Nat)
  counts : List MigCount
  moves : List PageMove
  cache : List CacheEntry
  svc : Service
  records : List Rec
  jobs : List LineJob
  lines : List Gathered
  posts : List (Nat × List Byte)
  deriving DecidableEq, Repr

/-! ### The whole machine -/

/-- Which instruction is being executed: its station and stream, its stamp, its program counter and length in ring words, and the
iteration of a repeat (R169, R223). -/
structure Cur where
  k : Stn
  e : Engine
  stamp : Nat
  pc : Nat
  len : Nat
  rpti : Option Nat
  deriving DecidableEq, Repr

/-- What is still to be done in the current cycle: a phase of the cycle, which names the steps of the table that happen in it; a
step of the table; the release of a stream's next instruction; the advance of a stream after an iteration of a repeat; and what
takes effect when the issue group has issued: the start of a fetched block with its base (R168), the return from a handler
(R382), and the lag that `resync` leaves (R175); the append of the oldest record of a partition's telemetry ring or fault queue (R383,
R399); and a line access of a unit of the package (R48, R56). -/
inductive Act where
  | phase (n : Nat)
  | ev (i : Instr)
  | issue (k : Stn) (e : Engine)
  | finish (k : Stn) (e : Engine)
  | start (k : Stn) (base : Nat)
  | resume (k : Stn)
  | relag (k : Stn) (lag : Nat)
  | append (p : Nat) (fault : Bool)
  | job (id : Nat)
  deriving DecidableEq, Repr

/-- The state of one package (R13). `cur` names the instruction that `exec` executes; `jump` and `stay` are what its meaning
leaves for the stream's advance: a transfer's target, and that the stream does not advance. `served` lists the service ports and the
stack channels that have done their access of the cycle (R48, R58). `freeCount` counts the free values drawn. -/
structure State where
  cyc : Nat
  stns : Vector Station 384
  mem : Memory
  pkg : Package
  txns : List Txn
  beats : List LaneBeat
  uops : List UOp
  markers : List Marker
  seq : Nat
  nextId : Nat
  inbox : List (Nat × Instr)
  out : List Out
  todo : List Act
  cur : Cur
  jump : Option Nat
  stay : Bool
  served : List Nat
  freeCount : Nat
  deriving DecidableEq, Repr

/-! ### Reset -/

def Loop.reset : Loop := ⟨0, 0, 0, false⟩
def Stream.reset : Stream := ⟨0, 0, true, Vector.replicate 2 Loop.reset, none, 0, 0, 0, 0, 0⟩
def Cap.null : Cap := ⟨0, false⟩
def Bay.reset : Bay := ⟨0, .idle, false⟩
def Fifo.reset : Fifo := ⟨[], 0, 0⟩
def MapSlot.reset : MapSlot := ⟨0, 0, 0, false, none, 0⟩

/-- THI 0x0800, TLO 0x0100, MODE 01 (R76). -/
def ScaleUnit.reset : ScaleUnit := ⟨0x0000_0800_0100_0001#64, 0, []⟩
def Channel.reset : Channel := ⟨0, 0, 0, 0, [], [], [], 0, 0⟩
def Bitmap.reset : Bitmap := ⟨0, 0, 0⟩
def Shadow.reset : Shadow := ⟨false, false, 0, 0, 0, false, Vector.replicate 2 Loop.reset⟩

/-- Register files: every tile element empty (R298), every TAG clear (R15), every bay IDLE with zero bytes (R44); scalars, vectors
and predicates zero (DESIGN CHOICE, log entry 1: the manual gives them no reset value; unsafe). -/
def Regs.reset : Regs where
  s := Vector.replicate 32 0
  c := Vector.replicate 16 Cap.null
  v := Vector.replicate 64 0
  q := Vector.replicate 8 0
  tiles := Vector.replicate 8 (Vector.replicate 64 (Vector.replicate 128 none))
  bays := Vector.replicate 16 Bay.reset
  hs := 0
  hsNew := 0
  hsovf := 0

/-- LAGCFG.BUD 0x0800 (R177), BLANE 31 and 15 (R54), ROWMAP 0xFFFF (R157), and zero elsewhere. -/
def SysRegs.reset : SysRegs where
  lagcfg := 0x800
  teamid := 0
  ctxid := 0
  stale := 0
  budget := 0
  fflags := 0
  blane := 0x3EF
  voidst := 0
  codecfg := 0
  ftst := 0
  tskcur := 0
  tskpre0 := 0
  tskpre1 := 0
  banksel := 0
  sbst := 0
  mancfg := 0
  savcfg := 0
  pinobj := 0
  pinctl := 0
  wbblk := 0
  slksel := 0
  tagin := 0
  rowmap := Vector.replicate 16 0xFFFF_FFFF_FFFF_FFFF#64
  mbsel := 0
  tdq := 0

/-- HSCL.LS is 1.0 (R314); the heap store and the counters are zero (DESIGN CHOICE, log entry 1; unsafe). -/
def Matrix.reset : Matrix where
  mxfmt := 0
  hcfg := 0
  hscl := 0x3F80_0000
  maps := Vector.replicate 4 MapSlot.reset
  fa := Fifo.reset
  fb := Fifo.reset
  ops := []
  busyUntil := 0
  heap := []
  heapFree := 0
  heapOwned := []
  counters := Vector.replicate 64 0

/-- TSSEL 1 (R381), RPCFG.M 1 (R389), EXLCFG.SIZE 12 (R391), and zero elsewhere. -/
def TrapRegs.reset : TrapRegs where
  tcause := 0
  tstate := 0
  tpc := 0
  tframe := 0
  tssel := 1
  tnom := 0
  taskBlock := 0
  taskBase := 0
  inHandler := false
  tvec := 0
  shadows := Vector.replicate 7 Shadow.reset
  taking := none
  entering := false
  held := []
  forked := false
  slipDue := none
  halted := false
  rpcfg := 0x0000_0001_0000_0000#64
  rpst := 0
  exlcfg := 0x00C0_0000_0000_0000#64
  exlst := 0
  eccst := 0

def Preempt.reset : Preempt where
  st := .run
  full := false
  xd := false
  ovr := false
  mal := false
  nit := 0
  frame := 0
  haltAt := 0
  loadAt := 0
  loaded := false
  rp := 0
  rpFrame := 0
  rpNom := 0
  rpLag := 0
  rpFull := false
  area := 0
  half := false
  resumeAt := none
  stage := 0
  team := 0
  image := none
  roll := false
  kept := none

/-- No partition owns the station and no stream runs (R188); its level is resident, as block 0 starts (DESIGN CHOICE, log entry 2;
unsafe). -/
def Run.reset : Run where
  on := false
  part := 0
  lag := 0
  block := 0
  base := 0
  half := false
  level := .resident
  fetch := none
  startAt := none
  stall := 0
  resyncAt := 0
  resyncEnd := 0
  waitTag := none

/-- TCC 0, TCO 0, TW 12 (R334). -/
def Tap.reset : Tap := ⟨0, 0, 12, none⟩

def Station.reset : Station where
  regs := Regs.reset
  sys := SysRegs.reset
  run := Run.reset
  streams := Vector.replicate 7 Stream.reset
  pend := []
  mat := Matrix.reset
  ch := Vector.replicate 2 Channel.reset
  bitmaps := Vector.replicate 8 Bitmap.reset
  pins := Vector.replicate 32 none
  pinDue := none
  scale := Vector.replicate 8 ScaleUnit.reset
  tap := Tap.reset
  trap := TrapRegs.reset
  pre := Preempt.reset
  sigs := []
  flagStores := []
  boardings := []

/-- Nothing is listed: every byte reads 0, no granule is tagged, no word holds an error (R15, R386; DESIGN CHOICE, log entry 3). -/
def Memory.reset : Memory := ⟨[], [], [], []⟩

/-- MIGCFG.THRESH 0x0040 (R117); the mailbox cursors at 131,071, as partition start sets them (R191, log entry 1). -/
def Partition.reset : Partition where
  on := false
  otcfg := 0
  pstk := 0
  plseed := 0
  plctl := 0
  pcl := [0, 1, 2, 3]
  rot := [0, 0, 0, 0]
  stgobj := 0
  migcfg := 0x40
  migfree := []
  migovf := false
  done := []
  doneDue := []
  cursors := Vector.replicate 4 131071
  fqcfg := 0
  fqhead := 0
  fqtail := 0
  tlcfg := 0
  tlhead := 0
  tltail := 0
  smpcfg := 0
  pmsel := 0
  pm := Vector.replicate 8 (0, 0)
  fscale := Vector.replicate 8 ScaleUnit.reset
  mberr := 0
  bindings := []
  channels := []
  otbusy := []
  f0 := 0

def Coachman.reset : Coachman := ⟨[], [], [], [], [], [], [], []⟩
def RouteTag.reset : RouteTag := ⟨0, 0, 0, none⟩
def RingLine.reset : RingLine := ⟨0, 0, [], 0, false, 0, 0, 0, [], [], [], none, none, 0, 0⟩

def Ring.reset : Ring where
  ringcfg := 0
  rmodel := 0
  stkcirc := 0
  state := .run
  side := 0
  newcomer := false
  qm := 0
  lines := Vector.replicate 2 RingLine.reset
  buffer := []
  reinject := []
  changes := []
  transition := none
  manager := none
  up := false
  admitAt := 0
  image := []

/-- FABTO.TO is 3,000,000 (R358). -/
def Fabric.reset : Fabric := ⟨[], 3000000#64, 0, [], [], [], [], []⟩
def BtChan.reset : BtChan := ⟨Cap.null, 0, Cap.null, 0, [], false, none, false⟩

def GSlot.reset : GSlot where
  part := none
  st := .empty
  group := 0
  members := []
  rank := 0
  ops := []
  patch := []
  active := []
  shadow := []
  shf := false
  pend := none
  runner := none
  counters := []
  early := []
  heard := []
  done := []
  started := []
  runs := 0
  cause := 0
  frank := 0
  bph := 0
  arrived := []
  own := none
  progress := 0
  startAt := none

/-- M0 to M17 start at 32 zero bytes (R404). -/
def Service.reset : Service := ⟨0, List.replicate 18 (List.replicate 32 0), 0, [], none, [], []⟩

def Package.reset : Package where
  parts := Vector.replicate 16 Partition.reset
  coach := Vector.replicate 4 Coachman.reset
  tags := Vector.replicate 8 RouteTag.reset
  ring := Ring.reset
  fab := Fabric.reset
  bt := Vector.replicate 64 BtChan.reset
  graphs := Vector.replicate 64 GSlot.reset
  hostl := ⟨0, 0, []⟩
  boxes := []
  redirects := []
  images := []
  prereq := 0
  rbreq := 0
  rollbacks := []
  counts := []
  moves := []
  cache := []
  svc := Service.reset
  records := []
  jobs := []
  lines := []
  posts := []

/-- The package right after reset: CYC 0 (DESIGN CHOICE, log entry 2; unsafe), no station owned, memory with nothing listed. -/
def State.reset : State where
  cyc := 0
  stns := Vector.replicate 384 Station.reset
  mem := Memory.reset
  pkg := Package.reset
  txns := []
  beats := []
  uops := []
  markers := []
  seq := 0
  nextId := 0
  inbox := []
  out := []
  todo := []
  cur := ⟨0, .conductor, 0, 0, 1, none⟩
  jump := none
  stay := false
  served := []
  freeCount := 0

/-- Reasons for the machine to stop. No step of the Myane stops it: every error takes a stated action (R5, R6), so no fault
exists. -/
inductive Fault where
  deriving DecidableEq, Repr

/-- Reasons for the model to refuse a step. -/
inductive Refusal where
  /-- An instruction without a meaning yet; raised by `exec`'s own arms; safe, because nothing is claimed of it. -/
  | notModelled (mnemonic : String)
  deriving DecidableEq, Repr

end Sys2Proof.Machine
end

