-- ==== Sys2Proof/Machine/Ops.lean ====
section
/-!
DEFINITION. The named operations that the meanings share: fields of registers, memory, registers and their pending results,
semaphores, the fault queue and telemetry rings, taking a trap, entering its handler and returning from it.
-/

namespace Sys2Proof.Machine

/-! ### Fields of registers -/

/-- Bits [hi:lo] of a 64-bit register (R2). -/
def bitsOf (w : DWord) (hi lo : Nat) : Nat := w.toNat / 2 ^ lo % 2 ^ (hi + 1 - lo)

/-- Bit i of a 64-bit register. -/
def bitOf (w : DWord) (i : Nat) : Bool := w.getLsbD i

/-- A register with bits [hi:lo] replaced; the value is kept modulo the field's width. -/
def putBits (w : DWord) (hi lo v : Nat) : DWord :=
  let m := (2 ^ (hi + 1 - lo) - 1) * 2 ^ lo
  (w &&& ~~~(BitVec.ofNat 64 m)) ||| BitVec.ofNat 64 (v % 2 ^ (hi + 1 - lo) * 2 ^ lo)

/-- A register with one bit set or cleared. -/
def putBit (w : DWord) (i : Nat) (b : Bool) : DWord := putBits w i i (if b then 1 else 0)

/-- 1 or 0. -/
def b2n (b : Bool) : Nat := if b then 1 else 0

/-- Fields of a capability (R15). -/
def Cap.node (c : Cap) : Nat := c.bits.toNat / 2 ^ 118
def Cap.obj (c : Cap) : Nat := c.bits.toNat / 2 ^ 96 % 2 ^ 22
def Cap.rights (c : Cap) : Nat := c.bits.toNat / 2 ^ 88 % 2 ^ 8
def Cap.limit (c : Cap) : Nat := c.bits.toNat / 2 ^ 48 % 2 ^ 40
def Cap.cursor (c : Cap) : Nat := c.bits.toNat % 2 ^ 48
def Cap.sealed (c : Cap) : Bool := c.bits.getLsbD 95

/-- A capability from its fields (R15). -/
def Cap.make (node obj rights limit cursor : Nat) (tag : Bool) : Cap :=
  ⟨BitVec.ofNat 128 (node % 2 ^ 10 * 2 ^ 118 + obj % 2 ^ 22 * 2 ^ 96 + rights % 2 ^ 8 * 2 ^ 88 + limit % 2 ^ 40 * 2 ^ 48 + cursor % 2 ^ 48), tag⟩

/-- The rights of R16 as masks of the RIGHTS field. -/
def Right.read : Nat := 1
def Right.write : Nat := 2
def Right.atomic : Nat := 4
def Right.copySrc : Nat := 8
def Right.copyDst : Nat := 16
def Right.exported : Nat := 32
def Right.derive : Nat := 64

/-! ### Lines, bytes and lanes -/

/-- Byte i of a line (R2). -/
def byteOf (l : Line) (i : Nat) : Byte := l.extractLsb' (8 * i) 8

/-- 32-bit lane i of a line (R221). -/
def laneOf (l : Line) (i : Nat) : Word := l.extractLsb' (32 * i) 32

/-- The little-endian number that a list of bytes spells (R2). -/
def leNat : List Byte → Nat
  | [] => 0
  | b :: r => b.toNat + 256 * leNat r

/-- The first n bytes of a number, little-endian (R2). -/
def leBytes : Nat → Nat → List Byte
  | 0, _ => []
  | n + 1, v => BitVec.ofNat 8 v :: leBytes n (v / 256)

/-- A line from bytes; bytes beyond the list are zero. -/
def lineOfBytes (bs : List Byte) : Line := BitVec.ofNat 2048 (leNat bs)

/-- The 256 bytes of a line. -/
def bytesOf (l : Line) : List Byte := leBytes 256 l.toNat

/-- The little-endian number that 32-bit lanes spell. -/
def laneNat : List Word → Nat
  | [] => 0
  | w :: r => w.toNat + 2 ^ 32 * laneNat r

/-- A line from lanes; lanes beyond the list are zero. -/
def lineOfLanes (ws : List Word) : Line := BitVec.ofNat 2048 (laneNat ws)

/-- The 64 lanes of a line. -/
def lanesOf (l : Line) : List Word := (List.range 64).map (laneOf l)

/-- The mask of a line that covers bytes [lo, lo + n). -/
def byteMask (lo n : Nat) : Line := BitVec.ofNat 2048 ((2 ^ (8 * n) - 1) * 2 ^ (8 * lo))

/-- The mask of a line that covers the lanes set in q. -/
def laneMask (q : DWord) : Line :=
  BitVec.ofNat 2048 (laneNat ((List.range 64).map fun i => if q.getLsbD i then 0xFFFF_FFFF#32 else 0))

/-- The value under a mask replaces the old one. -/
def merge {w : Nat} (old mask new : BitVec w) : BitVec w := (old &&& ~~~mask) ||| (new &&& mask)

/-! ### Stations -/

/-- Station k. -/
def State.stn (s : State) (k : Stn) : Station := s.stns[k.val]

/-- The state with station k replaced. -/
def State.setStn (s : State) (k : Stn) (t : Station) : State := { s with stns := s.stns.set k.val t }

/-- The state with station k changed by f. -/
def State.onStn (s : State) (k : Stn) (f : Station → Station) : State := s.setStn k (f (s.stn k))

/-- All 384 stations, in ascending cluster and logical station (R179). -/
def allStns : List Stn := List.finRange 384

/-- Cluster of a station (R13). -/
def clusterOf (k : Stn) : Nat := k.val / 96

/-- Logical station within its cluster (R13). -/
def localOf (k : Stn) : Nat := k.val % 96

/-- A station from a number; numbers beyond the package wrap, and no rule names one. -/
def stnOf (n : Nat) : Stn := ⟨n % 384, Nat.mod_lt _ (by decide)⟩

/-- The slot of a logical station (R50). -/
def slotOf (i : Nat) : Nat := i + i / 12

/-- The nominal cycle of a station (R172). -/
def State.nom (s : State) (k : Stn) : Nat := s.cyc - (s.stn k).run.lag

/-- The nominal cycle by which what a station has issued comes due: its nominal cycle, but that it runs on while the station holds for a
recovery point at an unclean checkpoint, where every issued operation writes its results as at trap entry (R390). -/
def State.workNom (s : State) (k : Stn) : Nat :=
  let p := (s.stn k).pre
  if p.rp = 1 ∧ p.rpFull = true then s.cyc - p.rpLag else s.nom k

/-- The stream of an engine in the vector of streams. -/
def engIdx : Engine → Fin 7
  | .conductor => 0
  | .vector => 1
  | .matrix => 2
  | .copy0 => 3
  | .copy1 => 4
  | .tap => 5
  | .fabric => 6

/-- A stream of a station. -/
def Station.stream (t : Station) (e : Engine) : Stream := t.streams[(engIdx e).val]

/-- A station with one stream replaced. -/
def Station.setStream (t : Station) (e : Engine) (x : Stream) : Station :=
  { t with streams := t.streams.set (engIdx e).val x }

/-- The package's node ID (R187). -/
def State.nodeId (s : State) : Nat := s.pkg.svc.node

/-- PHASE (R145). -/
def State.phase (s : State) : Nat := bitsOf s.pkg.ring.ringcfg 10 0

/-- fs(f) (R144). -/
def State.fs (s : State) (f : Nat) : Nat := s.phase + 2048 * f

/-- The frame that holds cycle c; cycles before PHASE count as frame 0 (R144). -/
def State.frameOf (s : State) (c : Nat) : Nat := (c - s.phase) / 2048

/-- A partition by number. -/
def State.part (s : State) (p : Nat) : Partition := s.pkg.parts[p % 16]'(Nat.mod_lt _ (by decide))

/-- The state with partition p changed by f. -/
def State.onPart (s : State) (p : Nat) (f : Partition → Partition) : State :=
  { s with pkg := { s.pkg with parts := s.pkg.parts.set (p % 16) (f (s.part p)) (Nat.mod_lt _ (by decide)) } }

/-- The partition of a station. -/
def State.partOf (s : State) (k : Stn) : Nat := (s.stn k).run.part

/-- The team of a station, where it belongs to one (R186). -/
def State.teamOf (s : State) (k : Stn) : Option Nat :=
  if bitOf (s.stn k).sys.teamid 63 then some (bitsOf (s.stn k).sys.teamid 9 0) else none

/-- The stations of a team of a partition (R186). The numbers from 1,024 on stand for single stations that belong to no team. -/
def State.team (s : State) (p t : Nat) : List Stn :=
  if 1024 ≤ t then [stnOf (t - 1024)]
  else allStns.filter fun k => (s.stn k).run.on && (s.stn k).run.part == p && s.teamOf k == some t

/-- The team of a station, or the number that stands for the station alone. -/
def State.teamNo (s : State) (k : Stn) : Nat := (s.teamOf k).getD (1024 + k.val)

/-! ### Free values -/

/-- A free value and the state that has drawn it (R5). -/
def State.draw (s : State) : Nat × State := (Config.free s.freeCount, { s with freeCount := s.freeCount + 1 })

/-- A line of unpredictable bytes (R5). -/
def State.drawLine (s : State) : Line × State := (BitVec.ofNat 2048 (s.draw).1, (s.draw).2)

/-! ### Memory -/

/-- The key of a byte of bank k (log entry 4). -/
def bankKey (k off : Nat) : Nat := 2 ^ 34 + k * 2 ^ 20 + off

/-- The key of a byte of the stack: its address (R56). -/
def stackKey (a : Nat) : Nat := a

/-- What a byte without a cell reads as (log entry 3). -/
def unlisted : Byte := 0

/-- The byte at a key of a sorted list of cells. -/
def cellsRead : List Host.Cell → Nat → Byte
  | [], _ => unlisted
  | (a, b) :: r, k => if k = a then b else cellsRead r k

/-- The list with the byte at a key replaced, in canonical form. -/
def cellsWrite : List Host.Cell → Nat → Byte → List Host.Cell
  | [], k, v => if v = unlisted then [] else [(k, v)]
  | (a, b) :: r, k, v =>
    if k < a then (if v = unlisted then (a, b) :: r else (k, v) :: (a, b) :: r)
    else if k = a then (if v = unlisted then r else (a, v) :: r)
    else (a, b) :: cellsWrite r k v

/-- A number put into a strictly rising list. -/
def setAdd : List Nat → Nat → List Nat
  | [], k => [k]
  | a :: r, k => if k < a then k :: a :: r else if k = a then a :: r else a :: setAdd r k

/-- A number taken out of a strictly rising list. -/
def setDel (l : List Nat) (k : Nat) : List Nat := l.filter (· != k)

/-- Strictly rising. -/
def rising : List Nat → Bool
  | [] => true
  | [_] => true
  | a :: b :: r => decide (a < b) && rising (b :: r)

/-- The canonical form of memory: strictly rising keys, no cell equal to what an unlisted byte reads as, rising sets. -/
def Memory.wf (m : Memory) : Bool :=
  rising (m.cells.map (·.1)) && m.cells.all (fun c => c.2 != unlisted) && rising m.tags && rising m.poison && rising m.soft

/-- One byte of memory. -/
def Memory.read (m : Memory) (k : Nat) : Byte := cellsRead m.cells k

/-- One byte written by an ordinary write: the granule's tag clears, and a correctable error of its word is gone; a poisoned word that
other bytes belong to as well stays poisoned (R22, R386, R387). -/
def Memory.write (m : Memory) (k : Nat) (v : Byte) : Memory :=
  ⟨cellsWrite m.cells k v, setDel m.tags (k / 16), m.poison, setDel m.soft (k / 8)⟩

/-- The words of which every byte satisfies a test have been written whole: their check bits are good (R387). -/
def Memory.heal (m : Memory) (f : Nat → Bool) : Memory :=
  { m with poison := m.poison.filter fun w => !(List.range 8).all fun i => f (8 * w + i) }

/-- n bytes from a key on. -/
def Memory.readN (m : Memory) (k n : Nat) : List Byte := (List.range n).map fun i => m.read (k + i)

/-- Bytes written one by one from a key on. -/
def Memory.putN (m : Memory) (k : Nat) : List Byte → Memory
  | [] => m
  | b :: r => (m.write k b).putN (k + 1) r

/-- Bytes written from a key on by one write (R387). -/
def Memory.writeN (m : Memory) (k : Nat) (bs : List Byte) : Memory :=
  (m.putN k bs).heal fun j => decide (k ≤ j) && decide (j < k + bs.length)

/-- Bytes written by one write at given distances from a key (R387). -/
def Memory.writeAt (m : Memory) (k : Nat) (bs : List (Nat × Byte)) : Memory :=
  (bs.foldl (fun m (o, b) => m.write (k + o) b) m).heal fun j => bs.any fun x => k + x.1 == j

/-- A number of n bytes, little-endian. -/
def Memory.readLe (m : Memory) (k n : Nat) : Nat := leNat (m.readN k n)

/-- The tag of the granule that holds a key (R22). -/
def Memory.tagAt (m : Memory) (k : Nat) : Bool := m.tags.contains (k / 16)

/-- The granule's tag set or cleared (R22). -/
def Memory.putTag (m : Memory) (k : Nat) (t : Bool) : Memory :=
  { m with tags := if t then setAdd m.tags (k / 16) else setDel m.tags (k / 16) }

/-- Some word of [k, k + n) is poisoned (R387). -/
def Memory.poisonIn (m : Memory) (k n : Nat) : Bool := m.poison.any fun w => decide (w * 8 < k + n) && decide (k < w * 8 + 8)

/-- Some word of [k, k + n) holds a correctable error (R386). -/
def Memory.softIn (m : Memory) (k n : Nat) : Bool := m.soft.any fun w => decide (w * 8 < k + n) && decide (k < w * 8 + 8)

/-- The words of [k, k + n) marked poisoned: a write of poisoned data stores bad check bits (R387). -/
def Memory.markPoison (m : Memory) (k n : Nat) : Memory :=
  { m with poison := (List.range ((k + n + 7) / 8 - k / 8)).foldl (fun l i => setAdd l (k / 8 + i)) m.poison }

/-- The correctable errors of [k, k + n) corrected by the read (R386). -/
def Memory.scrub (m : Memory) (k n : Nat) : Memory :=
  { m with soft := m.soft.filter fun w => !(decide (w * 8 < k + n) && decide (k < w * 8 + 8)) }

/-- A byte of memory as a step sees it. -/
def State.byteAt (s : State) (k : Nat) : Byte := s.mem.read k

/-- The state with bytes written from a key on. -/
def State.poke (s : State) (k : Nat) (bs : List Byte) : State := { s with mem := s.mem.writeN k bs }

/-- The physical offset that a task-level access to offset o of bank k reaches (R195). -/
def State.remap (s : State) (k : Stn) (lv : Level) (o : Nat) : Nat :=
  let b := (s.stn k).sys.banksel
  if lv = .task && bitOf b 0 && bitOf b 1 && (decide (o < 0x7_8000) || (decide (0x8_0000 ≤ o) && decide (o < 0xF_8000))) then
    (if o < 0x8_0000 then o + 0x8_0000 else o - 0x8_0000)
  else o

/-! ### Registers and pending results -/

/-- A scalar register: s0 reads as zero (R221). -/
def Station.sreg (t : Station) (i : BitVec 5) : DWord := if i = 0 then 0 else t.regs.s[i.toNat]'(by omega)

/-- A scalar register written: a write to s0 is discarded (R221, R233). -/
def Station.setSreg (t : Station) (i : BitVec 5) (v : DWord) : Station :=
  if i = 0 then t else { t with regs := { t.regs with s := t.regs.s.set i.toNat v (by omega) } }

def Station.creg (t : Station) (i : BitVec 4) : Cap := t.regs.c[i.toNat]'(by omega)
def Station.setCreg (t : Station) (i : BitVec 4) (c : Cap) : Station :=
  { t with regs := { t.regs with c := t.regs.c.set i.toNat c (by omega) } }

def Station.vreg (t : Station) (i : BitVec 6) : Line := t.regs.v[i.toNat]'(by omega)
def Station.setVreg (t : Station) (i : BitVec 6) (v : Line) : Station :=
  { t with regs := { t.regs with v := t.regs.v.set i.toNat v (by omega) } }

def Station.qreg (t : Station) (i : BitVec 3) : DWord := t.regs.q[i.toNat]'(by omega)
def Station.setQreg (t : Station) (i : BitVec 3) (v : DWord) : Station :=
  { t with regs := { t.regs with q := t.regs.q.set i.toNat v (by omega) } }

def Station.bay (t : Station) (i : Nat) : Bay := t.regs.bays[i % 16]'(Nat.mod_lt _ (by decide))
def Station.setBay (t : Station) (i : Nat) (b : Bay) : Station :=
  { t with regs := { t.regs with bays := t.regs.bays.set (i % 16) b (Nat.mod_lt _ (by decide)) } }

/-- A bay becomes PENDING in the issue cycle of the request that names it; its bytes stay (R44). -/
def Station.pendBay (t : Station) (i : Nat) : Station := t.setBay i { t.bay i with st := .pending }

/-- A reply reaches a bay: data and FULL, or zero bytes and VOID (R44). -/
def Station.fillBay (t : Station) (i : Nat) (r : BayReply) : Station :=
  t.setBay i (if r.void then ⟨0, .void, false⟩ else ⟨r.data, .full, r.poison⟩)

/-- The code of a bay's state in BAYST (R44). -/
def BayState.code : BayState → Nat
  | .idle => 0
  | .pending => 1
  | .full => 2
  | .void => 3

/-- A result put into a list that keeps the order of issue. -/
def insertPend (p : Pend) : List Pend → List Pend
  | [] => [p]
  | q :: r => if p.iss < q.iss then p :: q :: r else q :: insertPend p r

/-- A result of engine `eng`, issued at one nominal cycle and due at another (R233, R273). -/
def Station.later (t : Station) (due iss eng : Nat) (e : Eff) : Station := { t with pend := insertPend ⟨due, iss, eng, e⟩ t.pend }

/-- Semaphore n raised: it takes effect for the awaits of later cycles; a raise of a raised semaphore sets HSOVF (R185). -/
def Station.raise (t : Station) (n : Nat) : Station :=
  let b : DWord := BitVec.ofNat 64 (2 ^ (n % 64))
  { t with regs := { t.regs with
      hsovf := if (t.regs.hs ||| t.regs.hsNew) &&& b = 0 then t.regs.hsovf else t.regs.hsovf ||| b
      hsNew := t.regs.hsNew ||| b } }

/-- Semaphore n lowered (R185). -/
def Station.lower (t : Station) (n : Nat) : Station :=
  { t with regs := { t.regs with hs := t.regs.hs &&& ~~~(BitVec.ofNat 64 (2 ^ (n % 64))) } }

/-- The raises of the cycle become visible (R185). -/
def Station.commitHs (t : Station) : Station :=
  { t with regs := { t.regs with hs := t.regs.hs ||| t.regs.hsNew, hsNew := 0 } }

/-- An awaiting instruction finds semaphore n raised (R185). -/
def Station.raised (t : Station) (n : Nat) : Bool := t.regs.hs.getLsbD (n % 64)

/-- Flags set in FFLAGS (R85). -/
def Station.setFlags (t : Station) (f : BitVec 7) : Station :=
  { t with sys := { t.sys with fflags := t.sys.fflags ||| f.zeroExtend 64 } }

/-! ### Telemetry and the fault queue -/

/-- The first byte and the size in bytes of a stack ring: a page frame and a count of records. -/
def ringInPstk (pstk : DWord) (frame bytes : Nat) : Bool :=
  decide (bitsOf pstk 17 0 ≤ frame) && decide (frame * 65536 + bytes ≤ (bitsOf pstk 49 32 + 1) * 65536)

/-- n events of a kind added to the counters of a partition that count it (R403). -/
def State.count (s : State) (p ev n : Nat) : State :=
  let add := fun (x : DWord × DWord) =>
    if bitOf x.1 63 ∧ bitsOf x.1 7 0 = ev then (x.1, BitVec.ofNat 64 ((x.2.toNat + n) % 2 ^ 48)) else x
  s.onPart p fun q => { q with pm := q.pm.map add }

/-- A record put among those that await their append: in the order of their cycles, then of cluster, logical station, engine code and
TYPE (R399). -/
def insertRec (r : Rec) : List Rec → List Rec
  | [] => [r]
  | q :: l => if r.cyc < q.cyc ∨ r.cyc = q.cyc ∧ r.key < q.key then r :: q :: l else q :: insertRec r l

/-- A 32-byte record left to be appended to a partition's telemetry ring (R398, R399). -/
def State.telemetry (s : State) (p : Nat) (port w0 w1 w2 w3 : Nat) : State :=
  let key := w1 / 2 ^ 44 % 2 ^ 12 * 16 + w1 / 2 ^ 60
  { s with pkg := { s.pkg with records := insertRec ⟨p % 16, port, false, w0, key, [w0, w1, w2, w3]⟩ s.pkg.records } }

/-- A corrected error counted by a station: ECCST saturates (R386). -/
def State.countCorrected (s : State) (k : Stn) : State :=
  s.onStn k fun t => { t with trap := { t.trap with eccst := BitVec.ofNat 64 (min (t.trap.eccst.toNat + 1) 0xFFFF_FFFF) } }

/-- Bytes 8 to 15 of a telemetry record (R400). -/
def telWord (type sub cl stn eng pc : Nat) : Nat :=
  type * 2 ^ 60 + sub * 2 ^ 56 + cl * 2 ^ 54 + stn * 2 ^ 47 + eng * 2 ^ 44 + pc * 2 ^ 34

/-- Errors corrected in a read of n bytes: each word is corrected, counted by a station, and reported in a partition's event stream by a
memory port (R386, R400). -/
def State.correctWords (s : State) (k : Stn) (p port key n : Nat) : State :=
  if s.mem.softIn key n then
    (s.mem.soft.filter fun w => decide (w * 8 < key + n) && decide (key < w * 8 + 8)).foldl (fun s w =>
      (s.countCorrected k).telemetry p port s.cyc (telWord 7 1 port 0x7F 0 0) (8 * w % 2 ^ 34) s.nodeId) { s with mem := s.mem.scrub key n }
  else s

/-- A record of a station's unit (R400). -/
def State.stnRecord (s : State) (k : Stn) (type sub eng pc arg0 arg1 : Nat) : State :=
  s.telemetry (s.partOf k) (clusterOf k) s.cyc (telWord type sub (clusterOf k) (localOf k) eng pc) arg0 arg1

/-- A record of type 2 to 5, emitted only while its EVEN bit is set (R400, R401). -/
def State.evenRecord (s : State) (k : Stn) (type sub eng pc arg0 arg1 : Nat) : State :=
  if bitOf (s.part (s.partOf k)).smpcfg (59 + type - 2) then s.stnRecord k type sub eng pc arg0 arg1 else s

/-- A record of the fault queue (R384). -/
structure FaultRec where
  kind : Nat
  code : Nat
  rep : Bool
  stn : Nat
  unit : Nat
  team : Nat
  obj : Nat
  node : Nat
  off : Nat
  arg : Nat

/-- A record left to be appended to a partition's fault queue, by the memory port of the cluster concerned (R383, R384). -/
def State.faultRecord (s : State) (p : Nat) (r : FaultRec) : State :=
  let w := r.kind * 2 ^ 60 + r.code * 2 ^ 56 + b2n r.rep * 2 ^ 55 + r.stn / 96 * 2 ^ 48 + r.stn % 96 * 2 ^ 41 +
    r.unit % 64 * 2 ^ 35 + r.team * 2 ^ 22 + r.obj
  { s with pkg := { s.pkg with
      records := insertRec ⟨p % 16, r.stn / 96, true, s.cyc, r.stn, [w, r.node * 2 ^ 54 + r.off % 2 ^ 48, r.arg, s.cyc]⟩ s.pkg.records } }

/-- The address in the stack at which a record will be appended; none where its ring is not configured or full, and the record is
dropped (R383, R398, R399). -/
def State.recordAt (s : State) (r : Rec) : Option Nat :=
  let q := s.part r.part
  let (cfg, head, tail, size, wrap) :=
    if r.fault then (q.fqcfg, bitsOf q.fqhead 16 0, bitsOf q.fqtail 16 0, 2 ^ (bitsOf q.fqcfg 59 56 + 6), 2 ^ 17)
    else (q.tlcfg, bitsOf q.tlhead 20 0, bitsOf q.tltail 20 0, 2 ^ (bitsOf q.tlcfg 59 56 + 8), 2 ^ 21)
  if bitOf cfg 63 = false ∨ (head + wrap - tail) % wrap = size then none
  else some (bitsOf cfg 17 0 * 65536 + head % size * 32)

/-- A record is appended to its ring, or dropped: of telemetry DROP counts it (R398, R399), and of the fault queue OVF is set (R383). -/
def State.append (s : State) (r : Rec) : State :=
  match s.recordAt r with
  | some a =>
    (s.poke (stackKey a) (r.words.flatMap (leBytes 8))).onPart r.part fun q =>
      if r.fault then { q with fqhead := putBit (putBits q.fqhead 16 0 ((bitsOf q.fqhead 16 0 + 1) % 2 ^ 17)) 62 true }
      else { q with tlhead := putBits q.tlhead 20 0 ((bitsOf q.tlhead 20 0 + 1) % 2 ^ 21) }
  | none =>
    if r.fault then s.onPart r.part fun q => { q with fqhead := putBit q.fqhead 63 true }
    else (s.onPart r.part fun q =>
      { q with tlhead := putBits q.tlhead 63 32 (min (bitsOf q.tlhead 63 32 + 1) 0xFFFF_FFFF) }).count r.part 0x13 1

/-! ### Taking a trap -/

/-- TCAUSE of a trap (R376, R379). -/
def Trap.tcause (t : Trap) : DWord :=
  BitVec.ofNat 64 (2 ^ 63 + b2n (!([0x06, 0x10, 0x11, 0x13].contains t.cause)) * 2 ^ 62 + b2n t.async * 2 ^ 61 +
    t.mask % 128 * 2 ^ 48 + t.cause * 2 ^ 40 + t.at_.eng * 2 ^ 36 + t.sub * 2 ^ 32 + t.code)

/-- TSTATE of a trap (R380). -/
def Trap.tstate (t : Trap) : DWord :=
  BitVec.ofNat 64 ((t.at_.rpti.getD 0) * 2 ^ 55 + b2n t.at_.rpti.isSome * 2 ^ 54 + t.at_.stamp % 2 ^ 40)

/-- A trap of the instruction that `cur` names (R376, R377). -/
def State.trapHere (s : State) (cause sub code : Nat) : Trap :=
  ⟨cause, sub, code, false, 2 ^ (s.cur.e.code - 1), ⟨s.cur.e.code, s.cur.stamp, s.cur.pc, s.cur.rpti⟩⟩

/-- A station halts: no stream releases a further instruction (R268). -/
def Station.halt (t : Station) : Station := { t with trap := { t.trap with halted := true } }

/-- A trap that cannot be entered halts the station, is recorded with kind 7 and reported (R378). -/
def State.haltOnTrap (s : State) (k : Stn) (t : Trap) : State :=
  let p := s.partOf k
  let s := s.faultRecord p ⟨7, 0, false, k.val, 0, (s.teamOf k).getD 0, 0, 0, 0, t.tcause.toNat⟩
  { s.onStn k Station.halt with out := s.out ++ [.halted k] }

/-- Two traps of one group: the lowest engine code is reported and TMASK names both (R377); of the refusals of one station the
lowest subcode is reported (R64). -/
def Trap.join (a b : Trap) : Trap :=
  let c := if b.at_.eng < a.at_.eng then b else a
  { c with
    mask := a.mask ||| b.mask
    sub := if a.cause = b.cause ∧ (a.cause = 0x07 ∨ a.at_.eng = b.at_.eng) then min a.sub b.sub else c.sub }

/-- The issue group that a station stands at, as an asynchronous trap identifies it (R377). -/
def State.groupAt (s : State) (k : Stn) : TrapAt :=
  let t := s.stn k
  ⟨1, s.nom k - t.run.base, (t.stream .conductor).pc, none⟩

/-- A machine check: every station of the team records it, or for a divergence (R393) the station alone, and the team rolls back at once
(R377, R387, R392). A team already rolling back takes no second one. -/
def State.machineCheck (s : State) (k : Stn) (sub : Nat) : State :=
  let p := s.partOf k
  let t := s.teamNo k
  if s.pkg.rollbacks.contains (p, t) then s
  else
    let s := (if sub = 2 then [k] else s.team p t).foldl (fun s j =>
      let n := s.nom j
      let c : Trap := ⟨0x13, sub, 0, true, 1, s.groupAt j⟩
      s.onStn j fun x => { x with trap := { x.trap with
        tcause := c.tcause, tstate := c.tstate, tpc := BitVec.ofNat 64 (c.at_.pc % 1024)
        tframe := BitVec.ofNat 64 (s.frameOf n), taking := none } }) s
    { s with pkg := { s.pkg with rollbacks := s.pkg.rollbacks ++ [(p, t)] } }

/-- A late trap put among the held ones: in the order in which they arose, ties going to the lower engine code (R377). -/
def insertHeld (t : Trap) (c : Nat) : List (Trap × Nat) → List (Trap × Nat)
  | [] => [(t, c)]
  | (u, d) :: r => if d = c ∧ t.at_.eng < u.at_.eng then (t, c) :: (u, d) :: r else (u, d) :: insertHeld t c r

/-- A late trap is held. The refusals that a station learns of in one cycle give one bank-hazard trap (R64, R377). -/
def holdTrap (t : Trap) (c : Nat) (l : List (Trap × Nat)) : List (Trap × Nat) :=
  match l.find? fun x => x.2 == c && x.1.cause == 0x07 && t.cause == 0x07 with
  | some x => insertHeld (x.1.join t) c (l.erase x)
  | none => insertHeld t c l

/-- A trap arises on station k (R377). The first trap of a group is taken, and others of its group join it; a later one is held until
the next `eret`. A machine check rolls the team back at once. -/
def State.raiseTrap (s : State) (k : Stn) (t : Trap) : State :=
  let x := s.stn k
  if x.trap.halted then s
  else if t.cause = 0x13 then s.machineCheck k t.sub
  else match x.trap.taking with
    | none => s.onStn k fun x => { x with trap := { x.trap with taking := some (t, s.nom k) } }
    | some (u, n) =>
      if n = s.nom k ∧ u.async = t.async then
        s.onStn k fun x => { x with trap := { x.trap with taking := some (u.join t, n) } }
      else if t.async then s.onStn k fun x => { x with trap := { x.trap with held := holdTrap t s.cyc x.trap.held } }
      else s

/-- At resident level, or without a handler, a trap cannot be entered (R378). -/
def State.settleTrap (s : State) (k : Stn) : State :=
  let x := s.stn k
  match x.trap.taking with
  | none => s
  | some (t, _) =>
    if x.run.level = .resident ∨ bitOf x.trap.tvec 63 = false then
      (s.onStn k fun x => { x with trap := { x.trap with taking := none } }).haltOnTrap k t
    else s

/-- The instruction that `cur` names traps: it has no effect of its own, and its stream does not advance (R377). -/
def State.trap (s : State) (cause sub : Nat) : State :=
  { s.raiseTrap s.cur.k (s.trapHere cause sub 0) with stay := true }

/-- Illegal instruction (R376). -/
def State.illInstr (s : State) (sub : Nat) : State := s.trap 0x01 sub
/-- Illegal operand (R376). -/
def State.illOperand (s : State) : State := s.trap 0x02 0
/-- Capability violation (R19, R376). -/
def State.capViolation (s : State) (sub : Nat) : State := s.trap 0x03 sub
/-- Format alignment (R93, R376). -/
def State.formatTrap (s : State) (sub : Nat) : State := s.trap 0x04 sub
/-- Schedule miss (R176, R376). -/
def State.scheduleMiss (s : State) (sub : Nat) : State := s.trap 0x05 sub
/-- Barrier fault (R183, R376). -/
def State.barrierFault (s : State) (sub : Nat) : State := s.trap 0x08 sub
/-- Heap spill (R316, R376). -/
def State.heapSpill (s : State) (sub : Nat) : State := s.trap 0x09 sub

/-- A late or asynchronous trap of station k, with the instruction it identifies (R377). -/
def State.lateTrap (s : State) (k : Stn) (cause sub : Nat) (a : TrapAt) : State :=
  s.raiseTrap k ⟨cause, sub, 0, true, 2 ^ (a.eng - 1), a⟩

/-! ### Blocks -/

/-- Bank offset of word i of a stream's command ring (R165). -/
def ringOffset (e : Engine) (i : Nat) : Nat := 0xF_8000 + (e.code - 1) * 0x1000 + 4 * i

/-- Word i of a stream's ring with its hidden continuation bit (R165, R213). -/
def State.ringWord (s : State) (k : Stn) (e : Engine) (i : Nat) : Word × Bool :=
  (BitVec.ofNat 32 (s.mem.readLe (bankKey k.val (ringOffset e i)) 4), ((s.stn k).stream e).cont.getLsbD i)

/-- A word and its continuation bit put at index i of a stream's ring, through the command path (R48, R213). -/
def State.putRingWord (s : State) (k : Stn) (e : Engine) (i : Nat) (w : Word) (c : Bool) : State :=
  let s := s.poke (bankKey k.val (ringOffset e i)) (leBytes 4 w.toNat)
  s.onStn k fun t =>
    let x := t.stream e
    let b : BitVec 1024 := BitVec.ofNat 1024 (2 ^ i)
    t.setStream e { x with cont := if c then x.cont ||| b else x.cont &&& ~~~b }

/-- First index of the running half (R165). -/
def Run.lo (r : Run) : Nat := if r.half then 512 else 0

/-- First index of the standby half. -/
def Run.standby (r : Run) : Nat := if r.half then 0 else 512

/-- Words of a stream's part of the running block. -/
def Station.words (t : Station) (e : Engine) : Nat := if t.run.half then (t.stream e).len1 else (t.stream e).len0

/-- The stream still has words of the block not yet issued (R168, R171). -/
def Station.busy (t : Station) (e : Engine) : Bool :=
  (t.stream e).rep.isSome || decide ((t.stream e).pc < t.run.lo + t.words e)

/-- A block-table entry (R166); one beyond the bank's end is read where the keys go on (log entry 126). -/
def State.blockEntry (s : State) (k : Stn) (b : Nat) : DWord :=
  BitVec.ofNat 64 (s.mem.readLe (bankKey k.val (bitsOf (s.stn k).sys.codecfg 19 3 * 8 + b * 8)) 8)

/-- The errors of `fork.pf` in its block-table entry (R167). -/
def State.blockOk (s : State) (k : Stn) (b : Nat) : Bool :=
  let e := s.blockEntry k b
  decide (b < bitsOf (s.stn k).sys.codecfg 63 48) && bitOf e 63 && decide (bitsOf e 43 32 ≠ 0) &&
    decide (bitsOf e 61 44 = 0) && decide (bitsOf e 31 20 = 0) && decide (bitsOf e 4 0 = 0) &&
    decide (bitsOf e 19 5 * 32 + bitsOf e 43 32 * 32 ≤ 0xF_8000)

/-- The read of block b's table entry, for every user of `blockOk`: its errors are corrected and counted (R386). -/
def State.readEntry (s : State) (k : Stn) (b : Nat) : State :=
  let c := (s.stn k).sys.codecfg
  if b < bitsOf c 63 48 then s.correctWords k (s.partOf k) (clusterOf k) (bankKey k.val (bitsOf c 19 3 * 8 + b * 8)) 8 else s

/-- A `fork.pf` performed in this cycle: the fetch replaces any other, and the standby half is empty until lines arrive (R167). -/
def State.beginFetch (s : State) (k : Stn) (b : Nat) : State :=
  let e := s.blockEntry k b
  s.onStn k fun t =>
    let t := Engine.all.foldl (fun t e =>
      let x := t.stream e
      t.setStream e (if t.run.half then { x with len0 := 0 } else { x with len1 := 0 })) t
    { t with run := { t.run with fetch := some ⟨b, s.cyc, bitsOf e 19 5 * 32, bitsOf e 43 32, bitOf e 62, 0, [], 0, false⟩ } }

/-- The effect of `fork` of the fetched block with a block base: the halves swap, every stream starts, its loops are cleared, and
the level is the one given (R168, R189). -/
def Station.fork (t : Station) (f : Fetch) (base : Nat) (lv : Level) : Station :=
  let half := !t.run.half
  let t := { t with run := { t.run with half := half, block := f.block, base := base, level := lv, fetch := none } }
  Engine.all.foldl (fun t e =>
    let x := t.stream e
    t.setStream e { x with pc := t.run.lo, stamp := f.base, first := true, loops := Vector.replicate 2 Loop.reset, rep := none }) t

/-! ### Entering a trap handler and returning -/

/-- The shadow of a stream (R381). -/
def Station.shadowOf (t : Station) (e : Engine) : Shadow :=
  let x := t.stream e
  ⟨!t.busy e, x.rep.isSome, x.rep.getD 0, x.pc, x.stamp, x.first, x.loops⟩

/-- Steps 1 to 3 of R378, with the trap state of R379 to R381: TCAUSE, TSTATE, TPC and TFRAME are written, the shadows and TNOM
unless an `eret` takes the trap in place of the resumption (the halves are then swapped back first, R382), the level becomes resident,
LAG becomes 0, and the handler's block is fetched. A handler block that cannot be fetched is a trap at resident level. -/
def State.enterTrap (s : State) (k : Stn) (t : Trap) (n : Nat) (keep : Bool) : State :=
  let frame := s.frameOf n
  let s1 := s.onStn k fun x =>
    let r := { x.trap with
      tcause := t.tcause, tstate := t.tstate, tpc := BitVec.ofNat 64 (t.at_.pc % 1024), tframe := BitVec.ofNat 64 frame,
      taking := none, entering := true, forked := false, inHandler := true }
    let r := if keep then r else { r with
      tnom := n, taskBlock := x.run.block, taskBase := x.run.base,
      shadows := (Engine.all.foldl (fun (v : Vector Shadow 7) e => v.set (engIdx e).val (x.shadowOf e)) r.shadows) }
    { x with trap := r, run := { x.run with level := .resident, lag := 0, resyncAt := 0, resyncEnd := 0, half := x.run.half != keep } }
  let b := bitsOf (s1.stn k).trap.tvec 47 32
  let s1 := s1.readEntry k b
  if s1.blockOk k b then
    (s1.beginFetch k b).onStn k fun x => { x with run := { x.run with fetch := x.run.fetch.map fun (f : Fetch) => { f with res := true } } }
  else s1.haltOnTrap k ⟨0x02, 0, 0, false, 1, ⟨1, 0, 0, none⟩⟩

/-- Steps 1 to 3 of R382: the halves swap back, every stream and its loops are reloaded from the shadows, the level becomes task
and LAG becomes x + 1 - N for the cycle x of the `eret`. -/
def Station.returnFromTrap (t : Station) (x : Nat) : Station :=
  let t := { t with
    run := { t.run with
      half := !t.run.half, block := t.trap.taskBlock, base := t.trap.taskBase
      level := .task, lag := x + 1 - t.trap.tnom, fetch := none }
    trap := { t.trap with tcause := putBit t.trap.tcause 63 false, inHandler := false, entering := false } }
  Engine.all.foldl (fun t e =>
    let h := t.trap.shadows[(engIdx e).val]
    let y := t.stream e
    t.setStream e { y with
      pc := if h.idle then t.run.lo + t.words e else h.pc
      stamp := h.stamp, first := h.first, loops := h.loops
      rep := if h.rptv ∧ h.rpti > 0 then some h.rpti else none }) t

end Sys2Proof.Machine
end

