-- ==== Sys2Proof/Machine/Issue.lean ====
section
/-!
DEFINITION. Releasing an instruction: reading it from its ring, naming it in `cur`, and advancing its stream afterwards by the
rules of stamps, transfers, loops and repeats (R169, R215, R216, R243).
-/

namespace Sys2Proof.Machine

/-- The outcome of a meaning. -/
abbrev Res := Host.Outcome State Fault Refusal

/-- The ring words from a program counter to the end of the stream's words of the running block, at most eight (R165, R215, R216). -/
def State.wordsAt (s : State) (k : Stn) (e : Engine) (pc : Nat) : List (Word × Bool) :=
  (List.range (min 8 ((s.stn k).run.lo + (s.stn k).words e - pc))).map fun i => s.ringWord k e (pc + i)

/-- The next instruction of a stream (R216). -/
def State.nextInstr (s : State) (k : Stn) (e : Engine) : Except DecErr Decoded :=
  let x := (s.stn k).stream e
  decode e x.first (s.wordsAt k e x.pc)

/-- The gap of the next instruction of a stream, read before any check, of an extended stamp word too that lacks its mark (the example at
R232): of the prefixed instruction where a prefix stands before it (R169, R215, R222). A continuation word met as an instruction is read
as an instruction word, and GAP = 31 with no word after it is a gap of 31: the manual gives neither a gap (R216, R217; log entry 151). -/
def gapAt : List (Word × Bool) → Nat
  | (w, _) :: r =>
    let g := fun (w : Word) (r : List (Word × Bool)) =>
      if w.toNat / 2 ^ 27 = 31 then (match r with | (x, _) :: _ => x.toNat | _ => 31) else w.toNat / 2 ^ 27
    if w.toNat / 2 ^ 19 % 256 = 0xFF then (match r with | (v, _) :: r' => g v r' | [] => 0) else g w r
  | [] => 0

/-- The nominal cycle in which a stream releases next, where it has words left: a later iteration of a repeat one period after the
one before it (R169, R223). -/
def State.releaseAt (s : State) (k : Stn) (e : Engine) : Option Nat :=
  let t := s.stn k
  let x := t.stream e
  if t.busy e then
    some (t.run.base + x.stamp +
      (if x.rep.isSome then (s.ringWord k e x.pc).1.toNat / 2 ^ 27 else gapAt (s.wordsAt k e x.pc)))
  else none

/-- `cur` names the instruction that a stream releases (R169). -/
def State.beginInstr (s : State) (k : Stn) (e : Engine) (d : Decoded) : State :=
  let x := (s.stn k).stream e
  { s with cur := ⟨k, e, x.stamp + d.gap, x.pc, d.len, none⟩, jump := none, stay := false }

/-- The ring index after the instruction at index p (R243). -/
def State.nextIndex (s : State) (k : Stn) (e : Engine) (p : Nat) : Nat :=
  let n := fun q => q + 1 + (contWords (s.wordsAt k e (q + 1))).length
  if (s.ringWord k e p).1.toNat / 2 ^ 19 % 256 = 0xFF ∧ (s.ringWord k e p).2 = false then n (p + 1) else n p

/-- Loop-end processing after the instruction at half-relative index p, whose successor is `next` (R243): the loops of the stream
and the index to continue at. `idx` gives the first index after an instruction, half-relative. -/
def lpEnd (loops : Vector Loop 2) (p next : Nat) (idx : Nat → Nat) : Vector Loop 2 × Nat :=
  let l1 := loops[1]
  let l0 := loops[0]
  let (l1, l0, next) :=
    if l1.ct ≠ 0 ∧ p = l1.en then
      if l1.ct > 1 then ({ l1 with ct := l1.ct - 1 }, l0, l1.st)
      else
        let l1 := { l1 with ct := 0 }
        if l0.ct ≠ 0 ∧ p = l0.en then
          if l0.ct > 1 then (l1, { l0 with ct := l0.ct - 1 }, l0.st) else (l1, { l0 with ct := 0 }, next)
        else (l1, l0, next)
    else if l0.ct ≠ 0 ∧ p = l0.en then
      if l0.ct > 1 then (l1, { l0 with ct := l0.ct - 1 }, l0.st) else (l1, { l0 with ct := 0 }, next)
    else (l1, l0, next)
  let (l0, next) := if next = l0.st ∧ l0.skip then ({ l0 with skip := false }, idx l0.en) else (l0, next)
  let (l1, next) := if next = l1.st ∧ l1.skip then ({ l1 with skip := false }, idx l1.en) else (l1, next)
  (#v[l0, l1], next)

/-- A stream after an instruction that completed at pc with its stamp: it continues at the transfer's target, or by `lpEnd`
(R169, R243). -/
def State.advance (s : State) (k : Stn) (e : Engine) (pc len stamp : Nat) (jump : Option Nat) : State :=
  let t := s.stn k
  let x := t.stream e
  let lo := t.run.lo
  let x := { x with stamp := stamp, first := false, rep := none, lastPc := pc, lastStamp := stamp }
  match jump with
  | some i => s.onStn k fun t => t.setStream e { x with pc := lo + i }
  | none =>
    let (loops, next) := lpEnd x.loops (pc - lo) (pc - lo + len) fun i => s.nextIndex k e (lo + i) - lo
    s.onStn k fun t => t.setStream e { x with loops := loops, pc := lo + next }

/-- A gap of 0 on the stream's next instruction traps in the release cycle of the one before it (R216). -/
def State.gapZero (s : State) (k : Stn) (e : Engine) : State :=
  let t := s.stn k
  let x := t.stream e
  if t.busy e ∧ gapAt (s.wordsAt k e x.pc) = 0 then { s with todo := .issue k e :: s.todo } else s

/-- The stream of `cur` after the meaning of its instruction: it stays where the instruction trapped or opened a repeat, and
advances where the instruction completed (R223, R243, R377). -/
def State.finishInstr (s : State) : State :=
  let c := s.cur
  if s.stay then s
  else (s.advance c.k c.e c.pc c.len c.stamp s.jump).gapZero c.k c.e

/-- A failed decode check traps the engine at the nominal release cycle (R216). -/
def State.decodeTrap (s : State) (k : Stn) (e : Engine) (x : DecErr) : State :=
  let y := (s.stn k).stream e
  let fixed := (s.ringWord k e y.pc).1.toNat / 2 ^ 19 % 256 = 0xFF
  ({ s with cur := ⟨k, e, y.stamp + gapAt (s.wordsAt k e y.pc), y.pc, 1, if fixed then some 0 else none⟩ }).illInstr x.subcode

end Sys2Proof.Machine
end

