-- ==== Sys2Proof/Machine/Operands.lean ====
section
/-!
DEFINITION. What the meanings of instructions share: the issuing station and its nominal cycle, operands and destinations, the
operand and level checks (R233 to R235).
-/

namespace Sys2Proof.Machine

/-- The station that executes the instruction of `cur`. -/
def State.here (s : State) : Station := s.stn s.cur.k

/-- The state with the issuing station changed by f. -/
def State.onHere (s : State) (f : Station → Station) : State := s.onStn s.cur.k f

/-- The nominal cycle of issue (R172). -/
def State.now (s : State) : Nat := s.nom s.cur.k

/-- A scalar operand, read in the issue cycle (R233). -/
def State.rs (s : State) (i : BitVec 5) : DWord := s.here.sreg i

/-- A capability operand (R21). -/
def State.rc (s : State) (i : BitVec 4) : Cap := s.here.creg i

/-- An effect of the issuing engine due a latency after the issue cycle (R233, R273). -/
def State.after (s : State) (lat : Nat) (e : Eff) : State := s.onHere fun t => t.later (s.now + lat) s.now s.cur.e.code e

/-- A scalar result with its latency (R233). -/
def State.putS (s : State) (d : BitVec 5) (v : DWord) (lat : Nat) : State := s.after lat (.sreg d v)

/-- A capability result: read from the next cycle on (R21). -/
def State.putC (s : State) (d : BitVec 4) (c : Cap) : State := s.after 1 (.creg d c)

/-- An operand check: an illegal-operand trap where it fails (R234). -/
def State.need (s : State) (ok : Prop) [Decidable ok] (t : State) : State := if ok then t else s.illOperand

/-- A resident-only instruction: an illegal-operand trap at task level (R234). -/
def State.resident (s : State) (t : State) : State := s.need (s.here.run.level = .resident) t

/-- A field that is sign-extended to 64 bits. -/
def sext64 {n : Nat} (v : BitVec n) : DWord := v.signExtend 64

/-- The half-relative index of the instruction of `cur` (R240). -/
def State.pcRel (s : State) : Nat := s.cur.pc - s.here.run.lo

/-- The stream transfers control to a half-relative index (R240, R241). -/
def State.goto (s : State) (i : Nat) : State := { s with jump := some i }

end Sys2Proof.Machine
end

