-- ==== Sys2Proof/Machine/ConductorFlow.lean ====
section
/-!
DEFINITION. Conductor control flow, blocks, barriers and semaphores (R167 to R185, R240 to R243, R256 to R261, R268).
-/

namespace Sys2Proof.Machine

/-! ### Branches and jumps -/

/-- A branch: its target must lie in the running half, taken or not (R240). -/
def State.branch (s : State) (o : BitVec 9) (taken : Bool) : Res :=
  let t : Int := (s.pcRel : Int) + o.toInt
  .next (s.need (0 ≤ t ∧ t ≤ 511) (if taken then s.goto t.toNat else s))

/-- `beq`: R240. -/
def execBeq (a b : BitVec 5) (o : BitVec 9) (s : State) : Res := s.branch o (s.rs a == s.rs b)
/-- `bne`: R240. -/
def execBne (a b : BitVec 5) (o : BitVec 9) (s : State) : Res := s.branch o (s.rs a != s.rs b)
/-- `blt`: R240. -/
def execBlt (a b : BitVec 5) (o : BitVec 9) (s : State) : Res := s.branch o (decide ((s.rs a).toInt < (s.rs b).toInt))
/-- `bge`: R240. -/
def execBge (a b : BitVec 5) (o : BitVec 9) (s : State) : Res := s.branch o (decide ((s.rs b).toInt ≤ (s.rs a).toInt))
/-- `bltu`: R240. -/
def execBltu (a b : BitVec 5) (o : BitVec 9) (s : State) : Res := s.branch o (decide ((s.rs a).toNat < (s.rs b).toNat))
/-- `bgeu`: R240. -/
def execBgeu (a b : BitVec 5) (o : BitVec 9) (s : State) : Res := s.branch o (decide ((s.rs b).toNat ≤ (s.rs a).toNat))

/-- The target of `jmp` and `call` (R241). -/
def State.jumpTarget (s : State) (a : BitVec 5) (t : BitVec 9) : Nat := ((s.rs a).toNat + t.toNat) % 512

/-- `jmp`: R241. -/
def execJmp (a : BitVec 5) (t : BitVec 9) (s : State) : Res := .next (s.goto (s.jumpTarget a t))

/-- `call`: R241; the link is the half-relative index after the call's last word. -/
def execCall (d a : BitVec 5) (t : BitVec 9) (s : State) : Res :=
  .next ((s.putS d (BitVec.ofNat 64 (s.pcRel + s.cur.len)) 1).goto (s.jumpTarget a t))

/-- `ret`: R241. -/
def execRet (a : BitVec 5) (s : State) : Res := .next (s.need ((s.rs a).toNat ≤ 511) (s.goto (s.rs a).toNat))

/-! ### Hardware loops -/

/-- The stream that `lpset` names (R242). -/
def loopStream (v : DWord) : Option Engine :=
  let e := bitsOf v 35 32
  if e = 0 then some .conductor else Engine.ofCode e

/-- A loop of a stream replaced. -/
def Station.setLoop (t : Station) (e : Engine) (l : BitVec 1) (x : Loop) : Station :=
  let y := t.stream e
  t.setStream e { y with loops := y.loops.set l.toNat x (by omega) }

/-- `lpset`: R242; a conductor loop with a count of 0 continues after its last instruction at once. -/
def execLpset (a : BitVec 5) (l : BitVec 1) (t : BitVec 9) (s : State) : Res :=
  let v := s.rs a
  let count := bitsOf v 31 0
  let en := t.toNat
  .next (match loopStream v with
    | none => s.illOperand
    | some e =>
      let st := if e = .conductor then s.pcRel + s.cur.len else bitsOf v 44 36
      s.need (bitsOf v 63 45 = 0 ∧ st ≤ en)
        (let s' := s.onHere fun x => x.setLoop e l ⟨st, en, count, count == 0⟩
         if e = .conductor ∧ count = 0 then
           s'.goto (s.nextIndex s.cur.k .conductor (s.here.run.lo + en) - s.here.run.lo)
         else s'))

/-- `lpbrk`: R243. -/
def execLpbrk (a : BitVec 5) (l : BitVec 1) (t : BitVec 9) (s : State) : Res :=
  .next (if a = 0 ∨ s.rs a ≠ 0 then
    (s.onHere fun x => x.setLoop .conductor l { (x.stream .conductor).loops[l.toNat]'(by omega) with ct := 0, skip := false }).goto
      t.toNat
  else s)

/-! ### Blocks -/

/-- The block that `fork` and `fork.pf` name: IMM16, or sR[15:0] (R256). -/
def State.blockNamed (s : State) (r : BitVec 1) (i : BitVec 16) : Nat :=
  if r = 1 then (s.rs (i.truncate 5)).toNat % 65536 else i.toNat

/-- The count of a task-done slot (R192). -/
def Partition.doneCount (q : Partition) (slot : Nat) : BitVec 16 := ((q.done.find? (·.1 = slot)).map (·.2)).getD 0

/-- The count that predecessor checks see: increments become visible in the 24th cycle after their firing (R192). -/
def Partition.doneSeen (q : Partition) (slot cyc : Nat) : BitVec 16 :=
  q.doneCount slot - BitVec.ofNat 16 (q.doneDue.countP fun p => p.2 == slot && decide (cyc < p.1))

/-- The predecessors that a TSKPRE register names: slot and count (R193). -/
def predsOf (v : DWord) : List (Nat × BitVec 16) :=
  (if bitOf v 63 then [(bitsOf v 59 48, BitVec.ofNat 16 (bitsOf v 47 32))] else []) ++
  (if bitOf v 31 then [(bitsOf v 27 16, BitVec.ofNat 16 (bitsOf v 15 0))] else [])

/-- Every named predecessor's slot has reached its count (R193). -/
def State.predsDone (s : State) (k : Stn) : Bool :=
  let t := s.stn k
  (predsOf t.sys.tskpre0 ++ predsOf t.sys.tskpre1).all fun (slot, seq) =>
    decide (((s.part t.run.part).doneSeen slot s.cyc - seq).toNat < 32768)

/-- The fetched block lies wholly in the rings (R167). -/
def Fetch.whole (f : Fetch) (cyc : Nat) : Bool := !f.fault && f.next == f.lines && decide (f.start + 4 + f.lines ≤ cyc)

/-- A stream has an act of its issue group still to come. -/
def State.inGroup (s : State) (k : Stn) (e : Engine) : Bool :=
  s.todo.any fun a => match a with
    | .issue k' e' => k' == k && e' == e
    | .ev (.repeatIteration k' e') => k' == k && e' == e
    | _ => false

/-- The iterations of the repeat at a stream's program counter, or 1 (R222). -/
def State.repCount (s : State) (k : Stn) (e : Engine) : Nat :=
  let x := (s.stn k).stream e
  let w := (s.ringWord k e x.pc).1.toNat
  if w / 2 ^ 19 % 256 = 0xFF then w / 2 ^ 10 % 512 else 1

/-- The instruction or iteration that a stream releases now is the last of its block (R168, R171). -/
def State.lastOfBlock (s : State) (k : Stn) (e : Engine) : Bool :=
  let t := s.stn k
  let x := t.stream e
  let lo := t.run.lo
  let next := s.nextIndex k e x.pc - lo
  decide (s.repCount k e ≤ x.rep.getD 0 + 1) &&
    decide (t.words e ≤ (lpEnd x.loops (x.pc - lo) next fun i => s.nextIndex k e (lo + i) - lo).2)

/-- Some other stream has words of the block not yet issued; those of the issue group itself count as issued (R168, R171). -/
def State.othersBusy (s : State) (k : Stn) : Bool :=
  Engine.all.any fun e => e != .conductor && (s.stn k).busy e && !(s.inGroup k e && s.lastOfBlock k e)

/-- An act that takes effect when the issue group of the cycle has issued. -/
def State.defer (s : State) (a : Act) : State := { s with todo := s.todo ++ [a] }

/-- The handler has issued a `fork` or `fork.pf` (R382). -/
def Station.noteFork (t : Station) : Station :=
  if t.trap.inHandler then { t with trap := { t.trap with forked := true } } else t

/-- The effect of a `fork` whose checks pass: the predecessor check disarms, and the block starts with base n + 1 (R168, R193). -/
def State.forkEffect (s : State) : State :=
  let s' := s.onHere fun t =>
    let t := t.noteFork
    if bitOf t.sys.tskcur 63 then { t with sys := { t.sys with tskcur := putBit (putBit t.sys.tskcur 63 false) 62 true } } else t
  { s' with stay := true }.defer (.start s.cur.k (s.now + 1))

/-- `fork`: R168, R193, R214, R256. The fetch must be without fault, then of the block named and whole, then no other stream may have
words left, then the predecessors must have finished (log entry 6 gives this order). -/
def execFork (r : BitVec 1) (i : BitVec 16) (s : State) : Res :=
  let t := s.here
  .next (match t.run.fetch with
    | none => s.scheduleMiss 4
    | some f =>
      if f.fault then s.illInstr 6
      else if f.block ≠ s.blockNamed r i then s.scheduleMiss 4
      else if f.whole s.cyc = false then s.scheduleMiss 4
      else if s.othersBusy s.cur.k then s.scheduleMiss 5
      else if bitOf t.sys.tskcur 63 ∧ s.predsDone s.cur.k = false then s.scheduleMiss 8
      else s.forkEffect)

/-- `fork.pf`: R167, R256. -/
def execForkPf (r : BitVec 1) (i : BitVec 16) (s : State) : Res :=
  let b := s.blockNamed r i
  let s := s.readEntry s.cur.k b
  .next (s.need (s.blockOk s.cur.k b) ((s.onHere Station.noteFork).beginFetch s.cur.k b))

/-- `rdv`: R171, R257. It issues only when the join holds, which ISSUE_GROUP awaits; it has no effect of its own. -/
def execRdv (s : State) : Res := .next (if s.othersBusy s.cur.k then s.scheduleMiss 5 else s)

/-! ### The barrier tree -/

/-- A route tag. -/
def State.tag (s : State) (t : BitVec 3) : RouteTag := s.pkg.tags[t.toNat]'(by omega)

/-- The state with a route tag replaced. -/
def State.setTag (s : State) (t : BitVec 3) (x : RouteTag) : State :=
  { s with pkg := { s.pkg with tags := s.pkg.tags.set t.toNat x (by omega) } }

/-- Station k is a member of a configured tag (R179, R183). -/
def RouteTag.member (x : RouteTag) (k : Stn) : Bool := bitOf x.ctl 63 && x.mask.getLsbD k.val

/-- Members of a tag. -/
def RouteTag.members (x : RouteTag) : Nat := (List.range 384).countP fun i => x.mask.getLsbD i

/-- CPH (R179). -/
def RouteTag.cph (x : RouteTag) : BitVec 16 := x.ctl.extractLsb' 32 16

/-- An arrival: ARR rises, and the last one sets the cycle in which the phase completes (R180). -/
def RouteTag.arrive (x : RouteTag) (k : Stn) (cyc : Nat) : RouteTag :=
  let n := bitsOf x.ctl 8 0 + 1
  { x with
    ctl := putBits x.ctl 8 0 n
    arrived := x.arrived ||| BitVec.ofNat 384 (2 ^ k.val)
    due := if n = x.members then some (cyc + if bitOf x.ctl 62 then 24 else 12) else x.due }

/-- `barr`: R180, R258. -/
def execBarr (t : BitVec 3) (s : State) : Res :=
  let x := s.tag t
  let k := s.cur.k
  .next (if x.member k = false then s.barrierFault 3
    else if x.arrived.getLsbD k.val then s.barrierFault 2
    else s.setTag t (x.arrive k s.cyc))

/-- The difference of a token from CPH, as a signed 16-bit number (R181). -/
def RouteTag.delta (x : RouteTag) (tok : DWord) : Int := (tok.truncate 16 - x.cph).toInt

/-- STALE after a wait two or more phases behind (R182). -/
def staleAfter (v : DWord) : DWord := putBit (putBits v 31 0 (min (bitsOf v 31 0 + 1) 0xFFFF_FFFF)) 63 true

/-- `bwait`: R181, R258. It issues only when its phase has completed, which ISSUE_GROUP awaits. -/
def execBwait (a : BitVec 5) (t : BitVec 3) (s : State) : Res :=
  let x := s.tag t
  let d := x.delta (s.rs a)
  .next (if x.member s.cur.k = false then s.barrierFault 3
    else if 2 ≤ d then s.barrierFault 1
    else if d ≤ -2 then s.onHere fun y => { y with sys := { y.sys with stale := staleAfter y.sys.stale } }
    else s)

/-- `bwait.p`: R181, R258. A station outside the mask takes a barrier fault all the same (R183, log entry 7). -/
def execBwaitP (_a : BitVec 5) (t : BitVec 3) (s : State) : Res :=
  .next (if (s.tag t).member s.cur.k = false then s.barrierFault 3 else s)

/-- The station waits at `bwait` or `bwait.p` (R181). -/
def RouteTag.waits (x : RouteTag) (k : Stn) (tok : DWord) (parity : Bool) : Bool :=
  x.member k && (if parity then tok.getLsbD 0 == x.cph.getLsbD 0 else x.delta tok == 0 || x.delta tok == 1)

/-- The control register, mask and arrivals that `bcfg` leaves (R179). -/
def RouteTag.configure (mask : BitVec 384) (cph part : Nat) : RouteTag :=
  let cl := fun c => ((mask.toNat / 2 ^ (96 * c)) % 2 ^ 96 != 0)
  let span := ((List.range 4).countP cl) > 1
  ⟨BitVec.ofNat 64 (b2n (mask != 0) * 2 ^ 63 + b2n span * 2 ^ 62 + part % 16 * 2 ^ 58 + cph % 65536 * 2 ^ 32), mask, 0, none⟩

/-- Every station frozen in a wait on the tag takes a barrier fault with subcode 0x4 (R179). -/
def State.resetWaits (s : State) (t : BitVec 3) : State :=
  allStns.foldl (fun s k =>
    let x := s.stn k
    if x.run.waitTag = some t.toNat then
      let y := x.stream .conductor
      (s.onStn k fun x => { x with run := { x.run with waitTag := none, stall := 0 } }).lateTrap k 0x08 4
        ⟨1, y.stamp + gapAt (s.wordsAt k .conductor y.pc), y.pc, none⟩
    else s) s

/-- `bcfg`: R179, R271. It issues only when its bay is not PENDING. -/
def execBcfg (a : BitVec 4) (b : BitVec 5) (t : BitVec 3) (s : State) : Res :=
  let x := s.tag t
  let p := s.partOf s.cur.k
  let mask : BitVec 384 := (s.here.bay a.toNat).data.extractLsb' 0 384
  let inside := allStns.all fun k => !mask.getLsbD k.val || ((s.stn k).run.on && (s.stn k).run.part == p)
  .next (s.resident (s.need ((bitOf x.ctl 63 = false ∨ bitsOf x.ctl 61 58 = p) ∧ inside = true)
    ((s.setTag t (RouteTag.configure mask (bitsOf (s.rs b) 15 0) p)).resetWaits t)))

/-! ### Semaphores, padding and the end of a block -/

/-- `hsig`: R185, R259. -/
def execHsig (n : BitVec 6) (s : State) : Res := .next (s.onHere fun t => t.raise n.toNat)

/-- `hsig.lo`: R185, R259. -/
def execHsigLo (n : BitVec 6) (s : State) : Res := .next (s.onHere fun t => t.lower n.toNat)

/-- An await of semaphore n: a schedule miss where it is not raised; otherwise it is lowered, unless kept (R185). -/
def State.await (s : State) (n : Nat) (keep : Bool) (ok : State → State) : State :=
  if s.here.raised n then ok (if keep then s else s.onHere fun t => t.lower n) else s.scheduleMiss 1

/-- `hchk`: R185, R259. -/
def execHchk (k : BitVec 1) (n : BitVec 6) (s : State) : Res := .next (s.await n.toNat (k == 1) id)

/-- `pause`: R260. -/
def execPause (_i : BitVec 16) (s : State) : Res := .next s

/-- A stream as it stands after what it releases in this group (R175). -/
def State.afterGroup (s : State) (k : Stn) (e : Engine) : State :=
  let t := s.stn k
  let x := t.stream e
  let now := s.nom k - t.run.base
  if e = .conductor then s.advance k e s.cur.pc s.cur.len s.cur.stamp none
  else if s.inGroup k e = false then s
  else if s.repCount k e ≤ x.rep.getD 0 + 1 then s.advance k e x.pc (s.nextIndex k e x.pc - x.pc) now none
  else s.onStn k fun t => t.setStream e { x with stamp := now, rep := some (x.rep.getD 0 + 1) }

/-- Some stream's next instruction is released in the nominal cycles n + 1 to n + m (R175). -/
def State.paddingUsed (s : State) (k : Stn) (m : Nat) : Bool :=
  Engine.all.any fun e => match (s.afterGroup k e).releaseAt k e with
    | none => false
    | some r => decide (s.nom k + 1 ≤ r) && decide (r ≤ s.nom k + m)

/-- The length of the performed prefix (R129). -/
def CopyCmd.prefixLen (c : CopyCmd) : Nat := ((c.done.find? (·.1 = 0)).map (·.2)).getD 0

/-- A timed command of a copy channel has pieces that are not performed (R175). -/
def Channel.timedBusy (c : Channel) : Bool := c.cmds.any fun m => m.timed && decide (m.prefixLen < m.len)

/-- Timed operations of a station still in flight: engine pipelines, timed copy pieces, undelivered timed replies (R175). An operation that
a later engine code issues in the group of the `resync` is not counted, and the standing pieces of the interrupted task's copies are
counted in a handler: the manual settles neither (log entry 149). -/
def State.timedInFlight (s : State) (k : Stn) : Bool :=
  let t := s.stn k
  !t.pend.isEmpty || !t.mat.ops.isEmpty || t.ch.any Channel.timedBusy || s.txns.any (·.k == k) || t.tap.slack.isSome

/-- The padding that `resync` reserves reads as a stall reason of its own (R175, R402). -/
def State.padUntil (s : State) (p : Nat) : State := s.onHere fun t => { t with run := { t.run with resyncAt := s.now, resyncEnd := s.now + p } }

/-- `resync`: R175, R261. -/
def execResync (i : BitVec 16) (s : State) : Res :=
  let k := s.cur.k
  let lag := s.here.run.lag
  let m := min lag i.toNat
  .next (if m = 0 then s.padUntil i.toNat
    else if s.paddingUsed k m ∨ s.timedInFlight k then s.scheduleMiss 6
    else (s.padUntil i.toNat).defer (.relag k (lag - m)))

/-- `trap`: R268; a complete instruction, whose trap is a system call with the immediate as its code (R376, R377). The stream goes on
behind it without `lp_end` (R243). -/
def execTrap (i : BitVec 16) (s : State) : Res :=
  .next { s.raiseTrap s.cur.k (s.trapHere 0x0A 0 i.toNat) with jump := some (s.cur.pc - s.here.run.lo + s.cur.len) }

/-- `eret`: R268, R382. It needs a trap with RES = 1 and no `fork` or `fork.pf` in the handler. -/
def execEret (s : State) : Res :=
  let t := s.here.trap
  .next (s.resident (s.need (t.inHandler = true ∧ bitOf t.tcause 62 = true ∧ t.forked = false) ({ s with stay := true }.defer (.resume s.cur.k))))

/-- `halt`: R268. -/
def execHalt (s : State) : Res := .next (s.resident (s.onHere Station.halt))

end Sys2Proof.Machine
end

