-- ==== Sys2Proof/Machine/Flags.lean ====
section
/-!
DEFINITION. The exception flags of FFLAGS as a mask of seven bits, NV in bit 0 to ISAT in bit 6 (R85).
-/

namespace Sys2Proof.Machine

/-- A set of exception flags (R85). -/
abbrev Flags := BitVec 7

/-- Invalid (R85). -/
def fNV : Flags := 1
/-- Division by zero (R85). -/
def fDZ : Flags := 2
/-- Overflow (R85). -/
def fOF : Flags := 4
/-- Underflow (R85). -/
def fUF : Flags := 8
/-- Inexact (R85). -/
def fNX : Flags := 16
/-- An encode or a conversion clipped (R85). -/
def fQSAT : Flags := 32
/-- An INT32 accumulation or reduction clipped (R85). -/
def fISAT : Flags := 64

/-- A flag under a condition. -/
def flagIf (b : Prop) [Decidable b] (f : Flags) : Flags := if b then f else 0

/-- The union of the flags of several results: sets combine by OR (R85). -/
def orFlags (l : List Flags) : Flags := l.foldl (· ||| ·) 0

end Sys2Proof.Machine
end

