-- ==== Sys2Proof/Machine/Num.lean ====
section
/-!
DEFINITION. Number formats: exact decoding, rounding once, FP32 arithmetic and special functions (R71 to R84, R274, R276, R283,
R284).
-/

namespace Sys2Proof.Machine

/-! ### Exact values and rounding -/

/-- A decoded element: a NaN with its sign, whether it is quiet and its payload aligned to 22 bits, an infinity, or the exact
value m * 2^e with a sign (R71, R82, R84). -/
inductive FVal where
  | nan (neg quiet : Bool) (payload : Nat)
  | inf (neg : Bool)
  | fin (neg : Bool) (m : Nat) (e : Int)
  deriving DecidableEq, Repr

/-- Exponent and fraction bits of an IEEE-style format (R82). -/
structure FpFmt where
  eb : Nat
  fb : Nat

def FpFmt.f32 : FpFmt := ⟨8, 23⟩
def FpFmt.bf16 : FpFmt := ⟨8, 7⟩
def FpFmt.f16 : FpFmt := ⟨5, 10⟩

/-- m / 2^sh rounded to an integer in mode rm, where `sticky` says that the exact magnitude lies strictly between m and m + 1; and
whether the result is inexact (R83). -/
def shiftRound (rm : Nat) (neg sticky : Bool) (m : Nat) (sh : Int) : Nat × Bool :=
  if sh ≤ 0 then (m * 2 ^ (-sh).toNat, sticky)
  else
    let h := 2 ^ sh.toNat
    let n := m / h
    let r := 2 * (m % h) + b2n sticky
    let up :=
      if rm = 0 then decide (h < r) || (r == h && n % 2 == 1)
      else if rm = 1 then false
      else if rm = 2 then !neg && r != 0
      else neg && r != 0
    (n + b2n up, r != 0)

/-- The exact magnitude m * 2^e (with `sticky` as above) rounded once into an IEEE-style format: overflow and underflow as R84
says, tininess after rounding as R82 says. -/
def FpFmt.round (f : FpFmt) (rm : Nat) (neg sticky : Bool) (m : Nat) (e : Int) : Nat × Flags :=
  let top := b2n neg * 2 ^ (f.eb + f.fb)
  if m = 0 ∧ sticky = false then (top, 0)
  else
    let emin : Int := 2 - 2 ^ (f.eb - 1)
    let lg : Int := m.log2 + e
    let q : Int := max lg emin - f.fb
    let (n, inex) := shiftRound rm neg sticky m (q - e)
    let code := ((q + f.fb - emin) * 2 ^ f.fb).toNat + n
    let inf := (2 ^ f.eb - 1) * 2 ^ f.fb
    let away := rm = 0 ∨ (rm = 2 ∧ neg = false) ∨ (rm = 3 ∧ neg = true)
    let tiny := lg < emin - 1 ∨ (lg = emin - 1 ∧ (shiftRound rm neg sticky m (lg - f.fb - e)).1 < 2 ^ (f.fb + 1))
    if inf ≤ code then (top + (if away then inf else inf - 1), fOF ||| fNX)
    else (top + code, flagIf (inex = true) fNX ||| flagIf (inex = true ∧ tiny) fUF)

/-- An IEEE-style code decoded exactly (R82). -/
def FpFmt.decode (f : FpFmt) (b : Nat) : FVal :=
  let neg := b / 2 ^ (f.eb + f.fb) % 2 == 1
  let ex := b / 2 ^ f.fb % 2 ^ f.eb
  let fr := b % 2 ^ f.fb
  let bias : Int := 2 ^ (f.eb - 1) - 1
  if ex = 2 ^ f.eb - 1 then
    if fr = 0 then .inf neg
    else .nan neg (fr / 2 ^ (f.fb - 1) == 1) (fr % 2 ^ (f.fb - 1) * 2 ^ (23 - f.fb))
  else if ex = 0 then .fin neg fr (1 - bias - f.fb)
  else .fin neg (fr + 2 ^ f.fb) (ex - bias - f.fb)

/-- A value rounded once into an IEEE-style format; a NaN keeps its sign and the high bits of its payload and becomes quiet
(R84). -/
def FpFmt.encode (f : FpFmt) (rm : Nat) : FVal → Nat × Flags
  | .nan neg quiet p =>
    (b2n neg * 2 ^ (f.eb + f.fb) + (2 ^ f.eb - 1) * 2 ^ f.fb + 2 ^ (f.fb - 1) + p / 2 ^ (23 - f.fb), flagIf (quiet = false) fNV)
  | .inf neg => (b2n neg * 2 ^ (f.eb + f.fb) + (2 ^ f.eb - 1) * 2 ^ f.fb, 0)
  | .fin neg m e => f.round rm neg false m e

/-! ### Hidden-one minifloats and integers -/

/-- Fraction bits and bias of H8 and H6 with their exponent bits (R79). -/
structure HFmt where
  eb : Nat
  fb : Nat
  bias : Nat

def HFmt.h8 : HFmt := ⟨4, 3, 7⟩
def HFmt.h6 : HFmt := ⟨3, 2, 3⟩

/-- The sign bit's place, which is also the NaN's code (R79). -/
def HFmt.nan (f : HFmt) : Nat := 2 ^ (f.eb + f.fb)

/-- A minifloat decoded (R79, R81). -/
def HFmt.decode (f : HFmt) (b : Nat) : FVal :=
  if b = f.nan then .nan false true 0
  else if b = 0 then .fin false 0 0
  else .fin (decide (f.nan ≤ b)) (2 ^ f.fb + b % 2 ^ f.fb) ((b % f.nan / 2 ^ f.fb : Nat) - (f.bias : Int) - f.fb)

/-- The order of the magnitude m * 2^s and the integer x. -/
def magCmp (m : Nat) (s : Int) (x : Nat) : Ordering := compare (m * 2 ^ s.toNat) (x * 2 ^ (-s).toNat)

/-- A value encoded into a minifloat: to nearest, ties to the even code (R81). In units of 2^(-bias - fb), code 1 is 2^fb + 1 and
zero is the only code below it. -/
def HFmt.encode (f : HFmt) : FVal → Nat × Flags
  | .nan _ quiet _ => (f.nan, flagIf (quiet = false) fNV)
  | .inf neg => (b2n neg * f.nan + (f.nan - 1), fQSAT ||| fNX)
  | .fin neg m e =>
    let s : Int := e + f.bias + f.fb
    let one := 2 ^ f.fb + 1
    if m = 0 then (0, 0)
    else if magCmp m s ((2 ^ (f.fb + 1) - 1) * 2 ^ (2 ^ f.eb - 1)) = .gt then (b2n neg * f.nan + (f.nan - 1), fQSAT ||| fNX)
    else if magCmp (2 * m) s one ≠ .gt then (0, fUF ||| fNX)
    else if magCmp m s one ≠ .gt then (b2n neg * f.nan + 1, flagIf (magCmp m s one ≠ .eq) fNX)
    else
      let lg : Int := m.log2 + e
      let (n, inex) := shiftRound 0 neg false m (lg - f.fb - e)
      (b2n neg * f.nan + ((lg + f.bias).toNat * 2 ^ f.fb + n - 2 ^ f.fb), flagIf (inex = true) fNX)

/-- A two's-complement code of w bits decoded. -/
def intDecode (w b : Nat) : FVal :=
  if 2 ^ (w - 1) ≤ b then .fin true (2 ^ w - b) 0 else .fin false b 0

/-- The code of an integer clipped to w bits, and whether it clipped. -/
def clipTo (w : Nat) (v : Int) : Nat × Bool :=
  let hi : Int := 2 ^ (w - 1) - 1
  let c := max (-hi - 1) (min v hi)
  ((c % 2 ^ w).toNat, c != v)

/-- A value rounded to an integer and clipped (R84); an infinity sets NV and QSAT, and not NX (log entry 121). -/
def intEncode (w rm : Nat) : FVal → Nat × Flags
  | .nan .. => (0, fNV)
  | .inf neg => (if neg then 2 ^ (w - 1) else 2 ^ (w - 1) - 1, fNV ||| fQSAT)
  | .fin neg m e =>
    let (n, inex) := shiftRound rm neg false m (-e)
    let (c, clip) := clipTo w (if neg then -(n : Int) else n)
    (c, flagIf (inex = true ∨ clip = true) fNX ||| flagIf (clip = true) fQSAT)

/-! ### Elements of a format -/

/-- An element decoded (R71). -/
def decElem (fmt b : Nat) : FVal :=
  match fmt with
  | 0x8 => HFmt.h8.decode b
  | 0x9 => HFmt.h6.decode b
  | 0xA => FpFmt.bf16.decode b
  | 0xB => FpFmt.f16.decode b
  | 0xC => intDecode 8 b
  | 0xE => intDecode 32 b
  | _ => FpFmt.f32.decode b

/-- A value encoded into an element (R81, R84). -/
def encElem (fmt rm : Nat) (v : FVal) : Nat × Flags :=
  match fmt with
  | 0x8 => HFmt.h8.encode v
  | 0x9 => HFmt.h6.encode v
  | 0xA => FpFmt.bf16.encode rm v
  | 0xB => FpFmt.f16.encode rm v
  | 0xC => intEncode 8 rm v
  | 0xE => intEncode 32 rm v
  | _ => FpFmt.f32.encode rm v

/-! ### Page formats -/

/-- Bits of an element of a format (R71). -/
def fmtBits (f : Nat) : Nat :=
  if 1 ≤ f ∧ f ≤ 7 then f + 1 else if f = 9 then 6 else if f = 0xA ∨ f = 0xB then 16
  else if f = 0xD ∨ f = 0xE then 32 else 8

/-- Elements of a block of a geometry (R72). -/
def geomLen (g : Nat) : Nat := if g = 1 then 16 else if g = 2 then 64 else 32

/-- A BFP format (R71). -/
def isBfp (f : Nat) : Bool := decide (1 ≤ f) && decide (f ≤ 7)

/-- Elements and bytes of the unit that an access covers whole: a BFP block, an H6 group, or one element (R72, R80). -/
def fmtUnit (f g : Nat) : Nat × Nat :=
  if isBfp f then (geomLen g, 1 + geomLen g * (f + 1) / 8)
  else if f = 9 then (4, 3)
  else (1, fmtBits f / 8)

/-- The format-alignment subcode of a span of n bytes at a page offset, or 0 (R74, R80, R93): padding first, then units. -/
def spanCheck (f g po n : Nat) : Nat :=
  let (e, b) := fmtUnit f g
  if f = 0 then 0
  else if e > 1 then
    if po + n > 65536 / b * b then 2 else if po % b ≠ 0 ∨ n % b ≠ 0 then 1 else 0
  else if po % b ≠ 0 then 1 else 0

/-- The format-alignment subcode of a conductor access, which covers whole elements and never whole blocks (R245). -/
def scalarSpan (f g po n : Nat) : Nat :=
  let (e, b) := fmtUnit f g
  if f = 0 then 0
  else if e > 1 then (if po + n > 65536 / b * b then 2 else 1)
  else if po % b ≠ 0 ∨ n % b ≠ 0 then 1 else 0

/-! ### Blocks -/

/-- Fields of n bits of a number, from the lowest. -/
def fieldsOf (n : Nat) : Nat → Nat → List Nat
  | 0, _ => []
  | k + 1, v => v % 2 ^ n :: fieldsOf n k (v / 2 ^ n)

/-- The number whose fields of n bits are given, from the lowest. -/
def packFields (n : Nat) : List Nat → Nat
  | [] => 0
  | v :: r => v % 2 ^ n + 2 ^ n * packFields n r

/-- The elements of a BFP block with w-bit mantissas (R72, R73). -/
def bfpDecode (w n : Nat) (bs : List Byte) : List FVal :=
  let e := (bs.headD 0).toNat
  (fieldsOf w n (leNat (bs.drop 1))).map fun m =>
    if e = 255 then .nan false true 0
    else if 2 ^ (w - 1) ≤ m then .fin true (2 ^ w - m) ((e : Int) - 127 - (w - 1 : Nat))
    else .fin false m ((e : Int) - 127 - (w - 1 : Nat))

/-- Exponent of the magnitude of a finite non-zero value. -/
def FVal.lg : FVal → Option Int
  | .fin _ m e => if m = 0 then none else some (m.log2 + e)
  | _ => none

/-- A mantissa of `bfp_encode`: the signed mantissa, whether it underflowed, whether it saturated, whether its value changed. -/
def bfpMantissa (lim : Nat) (se : Int) : FVal → Int × Bool × Bool × Bool
  | .fin neg m e =>
    let (n, inex) := shiftRound 0 neg false m (se - e)
    if lim < n then (if neg then -(lim : Int) else lim, false, true, true)
    else (if neg then -(n : Int) else n, n == 0 && m != 0, false, inex)
  | .inf neg => (if neg then -(lim : Int) else lim, false, true, true)
  | .nan .. => (0, false, false, false)

/-- A result of `bfp_encode`: bytes, underflow count, saturation count, flags (R75). -/
structure BfpOut where
  bytes : List Byte
  u : Nat
  s : Nat
  flags : Flags

/-- `bfp_encode` (R75). -/
def bfpEncode (w : Nat) (off : Bool) (xs : List FVal) : BfpOut :=
  let n := xs.length
  let snan := xs.any fun x => match x with | .nan _ q _ => !q | _ => false
  let nan := xs.any fun x => match x with | .nan .. => true | _ => false
  let inf := xs.any fun x => match x with | .inf _ => true | _ => false
  let zero := leBytes (n * w / 8) 0
  if nan then ⟨255 :: zero, 0, 0, flagIf (snan = true) fNV⟩
  else
    let big := (xs.filterMap FVal.lg).max?
    if big = none ∧ inf = false then ⟨0 :: zero, 0, 0, 0⟩
    else
      let e : Int := match big with
        | none => 254
        | some l => max 0 (min 254 (l + 128 - (if off then 1 else 0)))
      let ms := xs.map (bfpMantissa (2 ^ (w - 1) - 1) (e - 127 - (w - 1 : Nat)))
      let u := ms.countP (·.2.1)
      let s := ms.countP (·.2.2.1)
      ⟨BitVec.ofInt 8 e :: leBytes (n * w / 8) (packFields w (ms.map fun m => (m.1 % 2 ^ w).toNat)), u, s,
        flagIf (0 < s) fQSAT ||| flagIf (0 < u) fUF ||| flagIf (ms.any (·.2.2.2) = true) fNX⟩

/-! ### Scale selection -/

/-- OFF of a scale-selection unit (R76). -/
def ScaleUnit.off (u : ScaleUnit) : Bool := bitOf u.stat 63

/-- SSSTAT of an offset and a window (R76, R77). -/
def scaleStat (off : Bool) (h : List (Nat × Nat × Nat)) : DWord :=
  BitVec.ofNat 64 (b2n off * 2 ^ 63 + h.length * 2 ^ 48 + (h.map (·.2.1)).sum * 2 ^ 32 + (h.map (·.1)).sum * 2 ^ 16)

/-- `scale_after_block` (R77); a switch empties the window, and NBLK, UCNT and SCNT read 0 from then on (log entry 120). -/
def ScaleUnit.record (x : ScaleUnit) (u s n : Nat) : ScaleUnit :=
  let h := x.hist ++ [(u, s, n)]
  let h := if 256 < h.length then h.drop 1 else h
  let total := (h.map (·.2.2)).sum
  let full := bitsOf x.cfg 1 0 = 0 ∧ h.length = 256
  if full ∧ x.off = false ∧ bitsOf x.cfg 47 32 * total < 65536 * (h.map (·.1)).sum then { x with stat := scaleStat true [], hist := [] }
  else if full ∧ x.off = true ∧ bitsOf x.cfg 31 16 * total < 65536 * (h.map (·.2.1)).sum then
    { x with stat := scaleStat false [], hist := [] }
  else { x with stat := scaleStat x.off h, hist := h }

/-- A write of SSSTAT sets OFF and empties the window (R76). -/
def ScaleUnit.writeStat (x : ScaleUnit) (v : DWord) : ScaleUnit := { x with stat := scaleStat (bitOf v 63) [], hist := [] }

/-- A write of SSCFG; one that changes MODE to 01 or 10 sets OFF (R76). MODE 11 is refused by the caller. -/
def ScaleUnit.writeCfg (x : ScaleUnit) (v : DWord) : ScaleUnit :=
  let m := bitsOf v 1 0
  let cfg := v &&& 0x0000_FFFF_FFFF_0003#64
  if m ≠ bitsOf x.cfg 1 0 ∧ 1 ≤ m then { x with cfg := cfg, stat := putBit x.stat 63 (m == 2) } else { x with cfg := cfg }

/-! ### Runs of elements -/

/-- Elements decoded from whole units of a format (R72, R80): raw bytes have no elements. -/
def decodeRun (fmt geom : Nat) : Nat → List Byte → List FVal
  | 0, _ => []
  | k + 1, bs =>
    let (e, n) := fmtUnit fmt geom
    (if isBfp fmt then bfpDecode (fmt + 1) e (bs.take n)
     else if fmt = 9 then (fieldsOf 6 4 (leNat (bs.take 3))).map HFmt.h6.decode
     else [decElem fmt (leNat (bs.take n))]) ++ decodeRun fmt geom k (bs.drop n)

/-- What an encode of a run gives: bytes, flags, and the scale-selection unit that it names, updated (R77). -/
structure RunOut where
  bytes : List Byte
  flags : Flags
  unit : Option ScaleUnit

/-- Values encoded into k whole units of a format (R72, R75, R80, R81, R84). -/
def encodeRun (fmt geom rm : Nat) : Nat → List FVal → Option ScaleUnit → RunOut
  | 0, _, u => ⟨[], 0, u⟩
  | k + 1, vs, u =>
    let (e, n) := fmtUnit fmt geom
    let xs := vs.take e
    let (b, f, u) :=
      if isBfp fmt then
        let o := bfpEncode (fmt + 1) ((u.map ScaleUnit.off).getD false) xs
        (o.bytes, o.flags, u.map fun x => x.record o.u o.s e)
      else
        let cs := xs.map (encElem fmt rm)
        (leBytes n (packFields (if fmt = 9 then 6 else 8 * n) (cs.map (·.1))), orFlags (cs.map (·.2)), u)
    let r := encodeRun fmt geom rm k (vs.drop e) u
    ⟨b ++ r.bytes, f ||| r.flags, r.unit⟩

/-! ### FP32 values -/

/-- The default NaN (R82). -/
def defaultNan : Word := 0x7FC0_0000

/-- Plus and minus infinity. -/
def infOf (neg : Bool) : Word := if neg then 0xFF80_0000 else 0x7F80_0000

/-- The exact value of an FP32 word. -/
def fval (w : Word) : FVal := FpFmt.f32.decode w.toNat

def isNan (w : Word) : Bool := 0x7F80_0000 < w.toNat % 2 ^ 31
def isSnan (w : Word) : Bool := isNan w && !w.getLsbD 22
def isInf (w : Word) : Bool := w.toNat % 2 ^ 31 == 0x7F80_0000
def isZero (w : Word) : Bool := w.toNat % 2 ^ 31 == 0
/-- The payload of a NaN (R82). -/
def payloadOf (w : Word) : Nat := w.toNat % 2 ^ 22
/-- The quiet bit set (R87). -/
def quiet (w : Word) : Word := w ||| 0x0040_0000

/-- Zero with a sign. -/
def zeroOf (neg : Bool) : Word := if neg then 0x8000_0000 else 0

/-- A rounded result as a word. -/
def wordRes (r : Nat × Flags) : Word × Flags := (BitVec.ofNat 32 r.1, r.2)

/-- `nan_pick` (R274): the NaN that a result takes, where there is one. -/
def nanPick (xs : List Word) : Option (Word × Flags) :=
  let ns := xs.filter isNan
  match (ns.find? fun x => payloadOf x != 0), ns with
  | _, [] => none
  | some x, _ => some (quiet x, flagIf (xs.any isSnan = true) fNV)
  | none, x :: _ => some (quiet x, flagIf (xs.any isSnan = true) fNV)

/-- The sum of two values, rounded once to FP32; an exact zero sum takes its sign as IEEE 754 says (R274). -/
def addVals (rm : Nat) : FVal → FVal → Word × Flags
  | .inf a, .inf b => if a = b then (infOf a, 0) else (defaultNan, fNV)
  | .inf a, _ => (infOf a, 0)
  | _, .inf b => (infOf b, 0)
  | .fin n1 m1 e1, .fin n2 m2 e2 =>
    let e := min e1 e2
    let t : Int := (if n1 then -1 else 1) * (m1 * 2 ^ (e1 - e).toNat) + (if n2 then -1 else 1) * (m2 * 2 ^ (e2 - e).toNat)
    if t = 0 then (zeroOf (if m1 = 0 ∧ m2 = 0 ∧ n1 = n2 then n1 else rm == 3), 0)
    else wordRes (FpFmt.f32.round rm (decide (t < 0)) false t.natAbs e)
  | _, _ => (defaultNan, 0)

/-- The exact product of two values with a sign change, or none where it is invalid (R86, R274). A zero product has the signs' product also
where a factor's format has no signed zero (log entry 123). -/
def mulVals (flip : Bool) : FVal → FVal → Option FVal
  | .inf a, .inf b => some (.inf ((a != b) != flip))
  | .inf a, .fin b m _ => if m = 0 then none else some (.inf ((a != b) != flip))
  | .fin a m _, .inf b => if m = 0 then none else some (.inf ((a != b) != flip))
  | .fin a m e, .fin b n f => some (.fin ((a != b) != flip) (m * n) (e + f))
  | _, _ => none

/-- FP32 addition (R274, R276). -/
def f32Add (rm : Nat) (a b : Word) : Word × Flags := (nanPick [a, b]).getD (addVals rm (fval a) (fval b))

/-- The sign of an FP32 word inverted. -/
def f32Neg (a : Word) : Word := a ^^^ 0x8000_0000

/-- FP32 subtraction: a NaN operand is picked before the sign changes (R274, R276). -/
def f32Sub (rm : Nat) (a b : Word) : Word × Flags := (nanPick [a, b]).getD (addVals rm (fval a) (fval (f32Neg b)))

/-- FP32 multiplication (R274, R276). -/
def f32Mul (rm : Nat) (a b : Word) : Word × Flags :=
  (nanPick [a, b]).getD (match mulVals false (fval a) (fval b) with
    | none => (defaultNan, fNV)
    | some v => wordRes (FpFmt.f32.encode rm v))

/-- D + A * B, or D - A * B, with one rounding (R276). -/
def f32Fma (rm : Nat) (sub : Bool) (d a b : Word) : Word × Flags :=
  (nanPick [a, b, d]).getD (match mulVals sub (fval a) (fval b) with
    | none => (defaultNan, fNV)
    | some v => addVals rm v (fval d))

/-- A * 2^k, rounded once (R283). -/
def f32Scale (rm : Nat) (a : Word) (k : Int) : Word × Flags :=
  (nanPick [a]).getD (match fval a with
    | .fin neg m e => wordRes (FpFmt.f32.round rm neg false m (e + k))
    | v => wordRes (FpFmt.f32.encode rm v))

/-- A key that orders FP32 words that are not NaNs, with -0 below +0. -/
def f32Key (w : Word) : Int := if w.getLsbD 31 then -((w.toNat % 2 ^ 31 : Nat) : Int) - 1 else w.toNat

/-- The greater or the lesser of two FP32 words (R276). -/
def f32MaxMin (isMax : Bool) (a b : Word) : Word × Flags :=
  (nanPick [a, b]).getD (if decide (f32Key a < f32Key b) == isMax then b else a, 0)

/-- The exact order of two FP32 words that are not NaNs, with -0 equal to +0 (R277). -/
def f32Ord (a b : Word) : Ordering :=
  let k := fun w => if isZero w then (0 : Int) else f32Key w
  compare (k a) (k b)

/-! ### Special functions -/

/-- The integer square root, one bit of the root for each step. -/
def isqrtFrom (n : Nat) : Nat → Nat → Nat
  | 0, acc => acc
  | i + 1, acc => isqrtFrom n i (if (acc + 2 ^ i) * (acc + 2 ^ i) ≤ n then acc + 2 ^ i else acc)

/-- The integer square root. -/
def isqrt (n : Nat) : Nat := isqrtFrom n (n.log2 / 2 + 1) 0

/-- Fraction bits that the special functions compute with: no FP32 argument's result of `exp2` or `log2` comes near enough to a
rounding boundary for the bits below to matter, since those results are irrational and there are fewer than 2^32 arguments
(DEDUCED, log entry 11). -/
def specBits : Nat := 160

/-- 2^(f / 2^k) for f < 2^k, with specBits fraction bits: the product of the square roots of 2 that f's bits select. -/
def exp2Frac (k f : Nat) : Nat :=
  ((List.range k).foldl (fun (acc, r) i =>
    let r := isqrt (r * 2 ^ specBits)
    (if f.testBit (k - 1 - i) then acc * r / 2 ^ specBits else acc, r)) (2 ^ specBits, 2 * 2 ^ specBits)).1

/-- `vexp2` (R284). -/
def f32Exp2 (rm : Nat) (a : Word) : Word × Flags :=
  (nanPick [a]).getD (match fval a with
    | .nan .. => (defaultNan, 0)
    | .inf neg => (if neg then 0 else infOf false, 0)
    | .fin neg m e =>
      if m = 0 then (0x3F80_0000, 0)
      else if (m.log2 : Int) + e ≥ 8 then
        wordRes (if neg then FpFmt.f32.round rm false true 1 (-400) else FpFmt.f32.round rm false true 1 300)
      else if (m.log2 : Int) + e < -40 then
        wordRes (if neg then FpFmt.f32.round rm false true (2 ^ 40 - 1) (-40) else FpFmt.f32.round rm false true (2 ^ 40) (-40))
      else
        let k := (-e).toNat
        let t : Int := (if neg then -1 else 1) * (m * 2 ^ e.toNat)
        let f := (t % 2 ^ k).toNat
        if f = 0 then wordRes (FpFmt.f32.round rm false false 1 (t / 2 ^ k))
        else wordRes (FpFmt.f32.round rm false true (exp2Frac k f) (t / 2 ^ k - specBits)))

/-- `vrcp` (R284). -/
def f32Rcp (rm : Nat) (a : Word) : Word × Flags :=
  (nanPick [a]).getD (match fval a with
    | .nan .. => (defaultNan, 0)
    | .inf neg => (zeroOf neg, 0)
    | .fin neg m e =>
      if m = 0 then (infOf neg, fDZ)
      else
        let n := 2 ^ 60
        wordRes (FpFmt.f32.round rm neg (n % m != 0) (n / m) (-60 - e)))

/-- `vrsq` (R284). -/
def f32Rsq (rm : Nat) (a : Word) : Word × Flags :=
  (nanPick [a]).getD (match fval a with
    | .nan .. => (defaultNan, 0)
    | .inf neg => if neg then (defaultNan, fNV) else (0, 0)
    | .fin neg m e =>
      if m = 0 then (infOf neg, fDZ)
      else if neg then (defaultNan, fNV)
      else
        let (m, e) := if e % 2 = 0 then (m, e) else (2 * m, e - 1)
        let r := isqrt (2 ^ 120 / m)
        wordRes (FpFmt.f32.round rm false (r * r * m != 2 ^ 120) r (-60 - e / 2)))

/-- The first n bits of log2 of y / 2^256, for y / 2^256 from 1 up to 2. -/
def log2Frac : Nat → Nat → Nat → Nat
  | 0, _, acc => acc
  | n + 1, y, acc =>
    let z := y * y / 2 ^ 256
    if 2 ^ 257 ≤ z then log2Frac n (z / 2) (2 * acc + 1) else log2Frac n z (2 * acc)

/-- `vlog2` (R284). -/
def f32Log2 (rm : Nat) (a : Word) : Word × Flags :=
  (nanPick [a]).getD (match fval a with
    | .nan .. => (defaultNan, 0)
    | .inf neg => if neg then (defaultNan, fNV) else (infOf false, 0)
    | .fin neg m e =>
      if m = 0 then (infOf true, fDZ)
      else if neg then (defaultNan, fNV)
      else
        let k : Int := m.log2 + e
        if m = 2 ^ m.log2 then wordRes (FpFmt.f32.round rm (decide (k < 0)) false k.natAbs 0)
        else
          let t : Int := k * 2 ^ 100 + (log2Frac 100 (m * 2 ^ (256 - m.log2)) 0 : Nat)
          if t < 0 then wordRes (FpFmt.f32.round rm true true (-t - 1).toNat (-100))
          else wordRes (FpFmt.f32.round rm false true t.toNat (-100)))

/-! ### INT32 lanes -/

/-- An INT32 result, clipped with ISAT or wrapped (R276). -/
def i32Res (sat : Bool) (v : Int) : Word × Flags :=
  if sat then
    let (c, clip) := clipTo 32 v
    (BitVec.ofNat 32 c, flagIf (clip = true) fISAT)
  else (BitVec.ofInt 32 v, 0)

/-- An element converted between two formats: decoded exactly and rounded once; raw bits are copied (R84). -/
def convertElem (src dst rm b : Nat) : Nat × Flags := if src = 0 ∨ dst = 0 then (b, 0) else encElem dst rm (decElem src b)

/-! ### The counter generator -/

/-- `cg` (R94). -/
def cg (key : DWord) (layer stream elem : Nat) : DWord :=
  let x := BitVec.ofNat 64 (layer % 2 ^ 16 * 2 ^ 48 + stream % 2 ^ 16 * 2 ^ 32 + elem % 2 ^ 32) ^^^ key
  let x := x ^^^ (x >>> 31)
  let x := x * 0x9C5A_3E71_D4B2_0F4B#64
  let x := x ^^^ (x >>> 29)
  let x := x * 0xE3A1_57C9_26D8_4B15#64
  x ^^^ (x >>> 32)

/-- The keep test (R95): a threshold of 0 is read as 2^24. -/
def keeps (key : DWord) (layer stream elem t : Nat) : Bool :=
  decide ((cg key layer stream elem >>> 40).toNat < if t = 0 then 2 ^ 24 else t)

end Sys2Proof.Machine
end

