-- ==== Sys2Proof/Machine/Timed.lean ====
section
/-!
DEFINITION. Timed accesses at issue: the capability check, the pin table, the checks of page formats, and the path of each line
access (R18, R32, R46, R55, R60, R74, R93).
-/

namespace Sys2Proof.Machine

/-! ### Capability check -/

/-- `cap_check` (R18): the offset, or the subcode of the first check that fails. -/
def capCheck (c : Cap) (node : Nat) (disp : Int) (n need : Nat) (remoteOk capAccess : Bool) : Except Nat Nat :=
  let o : Int := c.cursor + disp
  if c.tag = false then .error 1
  else if c.sealed then .error 2
  else if c.obj = 0 then .error 3
  else if c.node ≠ node ∧ remoteOk = false then .error 4
  else if c.rights &&& need ≠ need then .error 5
  else if capAccess = true ∧ o % 16 ≠ 0 then .error 6
  else if o < 0 ∨ o + n > c.limit then .error 7
  else .ok o.toNat

/-- A meaning that continues with the offset of a checked access, or traps with the subcode (R18). -/
def State.checked (s : State) (c : Cap) (disp : Int) (n need : Nat) (remoteOk capAccess : Bool) (f : Nat → State) : State :=
  match capCheck c s.nodeId disp n need remoteOk capAccess with
  | .error x => s.capViolation x
  | .ok o => f o

/-! ### The pin table -/

/-- A place that the pin table names: a bank of the cluster or the stack, the byte address of the page, the offset in the page, and
what the leaf entry said of the page when the entry was filled (R32, R33). -/
structure PageAt where
  bank : Option Stn
  base : Nat
  po : Nat
  fmt : Nat
  geom : Nat
  aplace : Nat
  ord : Bool
  deriving DecidableEq, Repr

/-- The frame of a page: a page of a bank of the cluster, or of the stack (R30, R33). -/
def pageAt (cl : Nat) (bank : Bool) (frame po : Nat) (l : Nat × Nat × Nat × Bool) : PageAt :=
  if bank then ⟨some (stnOf (cl * 96 + frame / 16)), frame % 16 * 65536, po, l.1, l.2.1, l.2.2.1, l.2.2.2⟩
  else ⟨none, frame * 65536, po, l.1, l.2.1, l.2.2.1, l.2.2.2⟩

/-- An entry that maps offset o of an object (R32). -/
def PinEntry.at_ (e : PinEntry) (cl obj o : Nat) : Option PageAt :=
  let t := o + e.abase
  let p := t / 65536
  if e.obj = obj ∧ e.first ≤ p ∧ p < e.first + e.count then
    some (pageAt cl e.bank (e.frame + (p - e.first)) (t % 65536) (e.pages.getD (p - e.first) (0, 0, 0, false)))
  else none

/-- The pin-table lookup of one offset: fills refuse overlaps, so at most one entry matches (R32). -/
def State.pin (s : State) (k : Stn) (obj o : Nat) : Option PageAt :=
  (s.stn k).pins.toList.findSome? fun e => e.bind fun e => e.at_ (clusterOf k) obj o

/-- A run of bytes of an access that lies in one line. -/
structure Seg where
  page : PageAt
  len : Nat
  deriving DecidableEq, Repr

/-- The byte address of a segment in its bank or in the stack. -/
def Seg.addr (g : Seg) : Nat := g.page.base + g.page.po

/-- The line of a segment. -/
def Seg.line (g : Seg) : Nat := g.addr / 256 * 256

/-- An access of n bytes cut at line boundaries, each page it touches looked up on its own (R32, R46); none where a page is not
pinned. -/
def State.segments (s : State) (k : Stn) (obj : Nat) : Nat → Nat → Nat → Option (List Seg)
  | 0, _, _ => some []
  | f + 1, o, n =>
    if n = 0 then some []
    else match s.pin k obj o with
      | none => none
      | some p =>
        let m := min n (256 - p.po % 256)
        (s.segments k obj f (o + m) (n - m)).map (⟨p, m⟩ :: ·)

/-- An access of at most 256 bytes through the pin table: its segments, or a capability violation 0x8 (R32). -/
def State.pinned (s : State) (obj o n : Nat) (f : List Seg → State) : State :=
  match s.segments s.cur.k obj 4 o n with
  | none => s.capViolation 8
  | some g => f g

/-! ### Paths -/

/-- Distance and direction between two slots: clockwise where it is at most 52 (R55). -/
def route (a b : Nat) : Nat × Bool :=
  let d := (b + 104 - a) % 104
  if d ≤ 52 then (d, true) else (104 - d, false)

/-- The line access of a segment, i cycles after the first of its access, with the bytes it touches (R46, R55, R58, R60). -/
def State.path (s : State) (id i : Nat) (g : Seg) (offs : List Nat) (op : TOp) : TPart :=
  let k := s.cur.k
  let c := s.cyc
  let own := g.page.bank = some k
  let (h, cw) := match g.page.bank with
    | some j => if own then (0, true) else route (slotOf (localOf k)) (slotOf (localOf j))
    | none => route (slotOf (localOf k)) 103
  let b := s.here.sys.blane
  let up := bitsOf b 4 0
  let down := bitsOf b 9 5
  let stack := g.page.bank.isNone
  let arr := if stack then c + 5 + h + i else c + 1 + h + i
  { id := id, stack := stack, own := own, bank := g.page.bank.getD 0, line := g.line
    offs := offs, lo := g.addr % 256, len := g.len, hop := h, cw := cw
    lane := if cw then up else down, back := if cw then down else up
    lag := s.here.run.lag % 2 ^ 24, drive := c + 1 + i, arr := arr, reply := if stack then arr + 8 else arr + 1
    due := (if stack then 14 else 3) + 2 * h + i, still := 0
    op := op, st := .sent, lost := false, tag := false, poison := false, data := 0, delivered := false }

/-- The cycle in which what a line access brings is at its station: it has stood still while it waited for its request (R60, R173). -/
def Txn.usable (x : Txn) (p : TPart) : Nat := x.issue + p.due + p.still

/-- A line access whose request is not yet made stands still for a cycle (R173). -/
def TPart.wait (p : TPart) : TPart :=
  { p with drive := p.drive + 1, arr := p.arr + 1, reply := p.reply + 1, still := p.still + 1 }

/-- Lines of a station's accesses after the first, whose requests are not yet made, stand still while the station is frozen (R127, R173,
R293). -/
def State.waitLines (s : State) (k : Stn) : State :=
  { s with txns := s.txns.map fun x => if x.k = k then
      { x with parts := x.parts.map fun p => if s.cyc < p.drive ∧ p.st = .sent then p.wait else p } else x }

/-- A station has a line access whose request is not yet made. -/
def State.linesWait (s : State) (k : Stn) : Bool := s.txns.any fun x => x.k == k && x.parts.any fun p => decide (s.cyc < p.drive) && p.st == .sent

/-- The bytes of a segment, as offsets in its line. -/
def Seg.offs (g : Seg) : List Nat := (List.range g.len).map fun i => g.addr % 256 + i

/-- The parts of an access: the i-th segment's path one cycle after the one before it (R46). -/
def State.paths (s : State) (segs : List (Seg × List Nat × TOp)) : List TPart :=
  segs.zipIdx.map fun ((g, offs, op), i) => s.path (s.nextId + i) i g offs op

/-- A timed access sent with its parts; the request beats carry the station's LAG (R174). -/
def State.sendParts (s : State) (use : TUse) (parts : List TPart) : State :=
  let c := s.cur
  { s with
    nextId := s.nextId + parts.length
    txns := s.txns ++ [⟨c.k, c.e.code, c.stamp, c.pc, c.rpti, s.cyc, s.now, s.here.run.level, use, none, parts⟩] }

/-- A timed access issued; one to the stack needs a lag of zero (R174). -/
def State.send (s : State) (use : TUse) (segs : List (Seg × List Nat × TOp)) : State :=
  if s.here.run.lag ≠ 0 ∧ segs.any (·.1.page.bank.isNone) then s.scheduleMiss 7 else s.sendParts use (s.paths segs)

/-- Reads of whole segments. -/
def readSegs (segs : List Seg) : List (Seg × List Nat × TOp) := segs.map fun g => (g, g.offs, .read)

/-- Writes of whole segments from a list of bytes; a capability-form store says what becomes of the tag (R22). -/
def writeSegs (segs : List Seg) (bs : List Byte) (tag : Option Bool) : List (Seg × List Nat × TOp) :=
  match segs with
  | [] => []
  | g :: r => (g, g.offs, .write (g.offs.zip bs) tag) :: writeSegs r (bs.drop g.len) tag

/-- The bytes that a timed read brought back, in the order of the access. -/
def Txn.bytes (x : Txn) : List Byte := x.parts.flatMap fun p => ((bytesOf p.data).drop p.lo).take p.len

end Sys2Proof.Machine
end

