-- ==== Sys2Proof/Machine/Untimed.lean ====
section
/-!
DEFINITION. Untimed operations at issue: the queues that they enter and the markers of fences (R102, R104 to R109).
-/

namespace Sys2Proof.Machine

/-- No queue: the operations that R104 leaves out of the eight queues. -/
def noQueue : Nat := 8

/-- An operation with nothing in it, to be filled in by the instruction that issues it. -/
def State.newUOp (s : State) (owner : Owner) : UOp where
  id := s.nextId
  k := s.cur.k
  part := s.partOf s.cur.k
  ctx := bitsOf s.here.sys.ctxid 15 0
  eng := s.cur.e.code
  qset := s.cur.k.val
  rq := noQueue
  wq := noQueue
  seq := s.seq
  issue := s.cyc
  owner := owner
  pinned := none
  src := none
  seg := none
  dst := none
  add := 0
  srcFmt := 0
  srcGeom := 0
  dstFmt := 0
  dstGeom := 0
  convert := false
  level := s.here.run.level
  limit := 2 ^ 40
  cmp := none
  ssu := none
  flags := 0
  settled := false
  parked := false
  dead := false
  code := 0
  pieces := []

/-- A piece that reads and writes n bytes. -/
def UPiece.plain (src dst n pos : Nat) (data : List Byte) : UPiece := ⟨src, n, dst, n, pos, .idle, 0, false, false, data, 0, 0, none, none, (0, 0), false⟩

/-- An operation enters its queues in its issue cycle (R104). -/
def State.enqueue (s : State) (op : UOp) : State :=
  { s with uops := s.uops ++ [op], seq := s.seq + 1, nextId := s.nextId + 1 }

/-- An operation changed. -/
def State.onUOp (s : State) (id : Nat) (f : UOp → UOp) : State := { s with uops := s.uops.map fun u => if u.id = id then f u else u }

/-- A piece of an operation changed. -/
def UOp.onPiece (u : UOp) (i : Nat) (f : UPiece → UPiece) : UOp :=
  { u with pieces := u.pieces.zipIdx.map fun (p, j) => if j = i then f p else p }

/-- The 16-byte parts of an untimed access of n bytes at an offset (R100). -/
def parts16 : Nat → Nat → Nat → List (Nat × Nat)
  | 0, _, _ => []
  | f + 1, o, n =>
    if n = 0 then []
    else
      let m := min n (16 - o % 16)
      (o, m) :: parts16 f (o + m) (n - m)

/-- A queue fence's marker; one that names no queue holds nothing (R108, R109). -/
def State.mark (s : State) (mask scope : Nat) (align : Bool) : State :=
  if mask % 256 = 0 then s
  else
    { s with markers := s.markers ++ [⟨s.cur.k, s.cur.k.val, s.seq, mask % 256, scope, decide (256 ≤ mask), align, s.cyc⟩], seq := s.seq + 1 }

/-- The queues of an engine as a fence mask (R107, R109). -/
def ownQueues : Engine → Nat
  | .conductor => 3
  | .copy0 => 12
  | .copy1 => 48
  | .fabric => 192
  | .vector => 0
  | .matrix => 0
  | .tap => 0

/-- A queue fence (R108): at `.eng` scope its mask may name only the engine's own queues (R109). -/
def State.fence (s : State) (k : BitVec 3) (m : BitVec 9) : State :=
  s.need (k ≠ 0 ∨ m.toNat &&& ownQueues s.cur.e = m.toNat) (s.mark m.toNat k.toNat false)

/-- Request to fill a bay: an illegal-operand trap where the bay is PENDING (R45), and PENDING from the issue cycle on (R44). -/
def State.claimBay (s : State) (b : Nat) (f : State → State) : State :=
  s.need ((s.here.bay b).st ≠ .pending) (f (s.onHere fun t => t.pendBay b))

end Sys2Proof.Machine
end

