-- ==== Sys2Proof/Machine/ConductorUnits.lean ====
section
/-!
DEFINITION. Conductor instructions that act on the coachman, the signal unit, the mailboxes, the routing counters and the event
stream (R262 to R266, R269, R270).
-/

namespace Sys2Proof.Machine

/-! ### The coachman -/

/-- Some station of partition p belongs to team t (R186). -/
def State.teamIn (s : State) (p t : Nat) : Bool :=
  allStns.any fun k => (s.stn k).run.on && (s.stn k).run.part == p && s.teamOf k == some t

/-- The coachman of a cluster. -/
def State.coachman (s : State) (cl : Nat) : Coachman := s.pkg.coach[cl % 4]'(Nat.mod_lt _ (by decide))

/-- The state with the coachman of a cluster changed. -/
def State.onCoachman (s : State) (cl : Nat) (f : Coachman → Coachman) : State :=
  { s with pkg := { s.pkg with coach := s.pkg.coach.set (cl % 4) (f (s.coachman cl)) (Nat.mod_lt _ (by decide)) } }

/-- A context record (R155). -/
def Coachman.record (c : Coachman) (i : Nat) : DWord := ((c.records.find? (·.1 = i)).map (·.2)).getD 0

/-- A waybill entry (R153). -/
def Coachman.entry (c : Coachman) (i : Nat) : BitVec 128 := ((c.waybill.find? (·.1 = i)).map (·.2)).getD 0

/-- A value put under a key of a list whose keys rise; a value equal to `zero` is not listed. -/
def putKey {α : Type} [DecidableEq α] (zero : α) : List (Nat × α) → Nat → α → List (Nat × α)
  | [], k, v => if v = zero then [] else [(k, v)]
  | (a, b) :: r, k, v =>
    if k < a then (if v = zero then (a, b) :: r else (k, v) :: (a, b) :: r)
    else if k = a then (if v = zero then r else (k, v) :: r)
    else (a, b) :: putKey zero r k v

/-- A context record replaced. -/
def Coachman.setRecord (c : Coachman) (i : Nat) (v : DWord) : Coachman := { c with records := putKey 0 c.records i v }

/-- A waybill entry replaced. -/
def Coachman.setEntry (c : Coachman) (i : Nat) (v : BitVec 128) : Coachman := { c with waybill := putKey 0 c.waybill i v }

/-- Fields of a waybill entry (R153). -/
def wbV (e : BitVec 128) : Bool := e.getLsbD 127
def wbCue (e : BitVec 128) : Bool := e.getLsbD 126
def wbTeam (e : BitVec 128) : Nat := e.toNat / 2 ^ 112 % 1024
def wbCutag (e : BitVec 128) : Nat := e.toNat / 2 ^ 80 % 2 ^ 25
def wbRows (e : BitVec 128) : Nat := e.toNat / 2 ^ 64 % 128
def wbBlock (e : BitVec 128) : Nat := e.toNat / 2 ^ 48 % 65536
def wbTag (e : BitVec 128) : Nat := e.toNat % 2 ^ 25

/-- Fields of a context record (R155). -/
def crTeam (r : DWord) : Nat := bitsOf r 59 50

/-- The partition that wrote a valid waybill entry, whose team the entry names (R154, R407; log entry 81). -/
def Coachman.wayPart (c : Coachman) (i : Nat) : Nat := ((c.wayBy.find? (·.1 = i)).map (·.2)).getD 0

/-- The partition that wrote a valid context record, whose team the record names (R155, R407; log entry 81). -/
def Coachman.recPart (c : Coachman) (i : Nat) : Nat := ((c.recBy.find? (·.1 = i)).map (·.2)).getD 0

/-- What a `board` leaves of a record (R262). -/
def boarded (mode : Nat) (old v : DWord) : DWord :=
  match mode with
  | 0 => putBits v 47 32 (bitsOf old 47 32)
  | 1 => putBit old 62 true
  | 2 => putBit old 62 false
  | 3 => putBit (putBits old 24 0 (bitsOf v 24 0)) 62 true
  | 5 => 0
  | _ => old

/-- What a `wbset` leaves of an entry (R263). -/
def wayset (mode : Nat) (old : BitVec 128) (lo hi : DWord) : BitVec 128 :=
  match mode with
  | 0 => hi ++ lo
  | 1 => old &&& ~~~(BitVec.ofNat 128 (2 ^ 127))
  | 3 => old ||| BitVec.ofNat 128 (2 ^ 125)
  | _ => old

/-- One table write performed (R262, R263). -/
def Coachman.perform (c : Coachman) (w : TableWrite) : Coachman :=
  if w.way then
    { c.setEntry w.idx (wayset w.mode (c.entry w.idx) w.val w.val2) with
      wayBy := if w.mode = 0 then putKey 0 c.wayBy w.idx w.part else c.wayBy }
  else
    { c.setRecord w.idx (boarded w.mode (c.record w.idx) w.val) with
      recBy := if w.mode = 0 then putKey 0 c.recBy w.idx w.part else c.recBy }

/-- The writes of a coachman that are due in or before a cycle: cycle by cycle, of one cycle in ascending order of stations (R262). -/
def Coachman.dueWrites (c : Coachman) (cyc : Nat) : List TableWrite :=
  ((c.writes.filter fun w => decide (w.at_ ≤ cyc)).foldl (fun l w =>
    (l.takeWhile fun v => decide (v.at_ < w.at_ ∨ v.at_ = w.at_ ∧ v.stn ≤ w.stn)) ++ w ::
      l.dropWhile fun v => decide (v.at_ < w.at_ ∨ v.at_ = w.at_ ∧ v.stn ≤ w.stn)) [])

/-- The tables as they will stand when the writes on their way have been performed: a `wbset` issued now is performed after them, so the
invariants of R154 are judged of these. -/
def Coachman.soon (c : Coachman) : Coachman :=
  (c.dueWrites (c.writes.foldl (fun n w => max n w.at_) 0)).foldl Coachman.perform c

/-- A table write on its way to the coachman, to be performed in cycle c + 4 (R262, R263). -/
def State.sendTable (s : State) (way : Bool) (mode idx : Nat) (val val2 : DWord) (d : BitVec 5) : State :=
  s.onCoachman (clusterOf s.cur.k) fun c =>
    { c with writes := c.writes ++ [⟨s.cyc + 4, s.cur.k.val, s.partOf s.cur.k, way, mode, idx, val, val2, d, s.now + 5⟩] }

/-- `board`: R262. -/
def execBoard (d a b : BitVec 5) (m : BitVec 4) (s : State) : Res :=
  let i := (s.rs a).toNat
  let v := s.rs b
  let p := s.partOf s.cur.k
  let c := s.coachman (clusterOf s.cur.k)
  let r := c.record i
  .next (s.need (i < 4096 ∧ (bitOf r 63 = false ∨ c.recPart i = p ∧ s.teamIn p (crTeam r) = true) ∧
      (m = 0 → bitsOf v 49 48 = 0 ∧ bitsOf v 31 25 = 0 ∧ (bitOf v 63 = false ∨ s.teamIn p (crTeam v) = true)) ∧
      (m = 3 → bitsOf v 63 25 = 0))
    (s.sendTable false m.toNat i v 0 d))

/-- The invariants of R154 for an entry to be written at an index, over the table as the writes on their way leave it. -/
def State.waybillOk (s : State) (cl p i : Nat) (e : BitVec 128) : Bool :=
  e.extractLsb' 122 3 == 0 && e.extractLsb' 105 7 == 0 && e.extractLsb' 71 9 == 0 && e.extractLsb' 25 23 == 0 &&
  (!wbV e || (s.teamIn p (wbTeam e) && decide (1 ≤ wbRows e) && decide (wbRows e ≤ 64) &&
    (s.coachman cl).soon.waybill.all fun (j, x) =>
      j == i || !wbV x || wbTag x != wbTag e || wbTeam x != wbTeam e || (s.coachman cl).soon.wayPart j != p))

/-- `wbset`: R263. -/
def execWbset (d a b : BitVec 5) (m : BitVec 4) (s : State) : Res :=
  let i := (s.rs a).toNat
  let lo := s.rs b
  let hi := s.rs (b + 1)
  let cl := clusterOf s.cur.k
  let p := s.partOf s.cur.k
  let c := s.coachman cl
  let e := c.entry i
  .next (s.need (i < 8192 ∧ (wbV e = false ∨ c.wayPart i = p ∧ s.teamIn p (wbTeam e) = true) ∧
      (m = 0 → s.waybillOk cl p i (hi ++ lo) = true))
    (s.sendTable true m.toNat i lo hi d))

/-! ### Signals -/

/-- `sig`: R112, R264. The unit records the signal, which fires when R112 allows. -/
def execSig (k : BitVec 3) (f : BitVec 2) (n : BitVec 6) (s : State) : Res :=
  let c := s.rc (n.truncate 4)
  let flagOk := match capCheck c s.nodeId 0 8 Right.write true false with
    | .ok o => o % 8 == 0
    | .error _ => false
  .next (s.need (s.here.sigs.length < 16 ∧ (f = 2 → flagOk = true))
    (s.onHere fun t => { t with sigs := t.sigs ++ [⟨k.toNat, f.toNat, n.toNat, c, s.cyc, s.here.run.level⟩] }))

/-! ### Mailboxes -/

/-- A mailbox's configuration word (R190). -/
def State.mailbox (s : State) (m : Nat) : DWord := ((s.pkg.boxes.find? (·.idx = m)).map (·.cfg)).getD 0

/-- A mailbox's configuration word replaced. -/
def State.setMailbox (s : State) (m : Nat) (v : DWord) : State :=
  { s with pkg := { s.pkg with boxes := s.pkg.boxes.filter (·.idx != m) ++ [⟨m, v⟩] } }

/-- A mailbox that `mb_select` may choose in a class (R191). -/
def servable (p c : Nat) (v : DWord) : Bool :=
  bitOf v 63 && bitsOf v 62 59 == p && bitsOf v 58 57 == c && bitsOf v 56 48 != 0

/-- The first mailbox of a class after its cursor, in round-robin order (R191). -/
def State.mbNext (s : State) (p c cur : Nat) : Option Nat :=
  let l := (s.pkg.boxes.filter fun b => servable p c b.cfg).map fun b => (b.idx + 131072 - (cur + 1)) % 131072
  l.min?.map fun d => (d + cur + 1) % 131072

/-- `mb_select` (R191): the class and the mailbox. -/
def State.mbSelect (s : State) (p : Nat) : Option (Fin 4 × Nat) :=
  (List.finRange 4).findSome? fun c => (s.mbNext p c.val ((s.part p).cursors[c.val])).map fun m => (c, m)

/-- The head of a mailbox consumed: HEAD advances and COUNT falls (R190). -/
def mbTake (v : DWord) : DWord :=
  putBits (putBits v 27 20 ((bitsOf v 27 20 + 1) % (bitsOf v 47 40 + 1))) 56 48 (bitsOf v 56 48 - 1)

/-- `mbrecv`: R191, R265. The message is read by the memory port as an untimed read of the ring slot that was HEAD. -/
def execMbrecv (d : BitVec 4) (s : State) : Res :=
  let p := s.partOf s.cur.k
  .next (s.resident (s.claimBay d.toNat fun s => match s.mbSelect p with
    | none => s.enqueue { s.newUOp (.mail d.toNat 0 0) with pieces := [UPiece.plain 0 0 0 0 []] }
    | some (c, m) =>
      let v := s.mailbox m
      let s := s.onPart p fun q => { q with cursors := q.cursors.set c.val m }
      let a := bitsOf v 19 0 * 16384 + bitsOf v 27 20 * 64
      (s.setMailbox m (mbTake v)).enqueue { s.newUOp (.mail d.toNat m 1) with
        pieces := (List.range 4).map fun i => UPiece.plain (a + 16 * i) 0 16 (16 * i) [] }))

/-- `mbpost`: R266, R374. It issues only when its bay is not PENDING, which ISSUE_GROUP awaits; the post has the fate of a host
post and is visible from the next cycle on (R191). -/
def execMbpost (a : BitVec 5) (b : BitVec 4) (s : State) : Res :=
  let m := (s.rs a).toNat
  .next (s.resident (s.need (m < 131072 ∧ bitsOf (s.mailbox m) 62 59 = s.partOf s.cur.k)
    (s.defer (.ev (.hostMailboxPost m true ((bytesOf (s.here.bay b.toNat).data).take 64))))))

/-! ### Routing counters and markers -/

/-- `rcsnap`: R269. The access travels as a read of the target's bank and occupies no sub-bank. -/
def execRcsnap (d : BitVec 4) (a : BitVec 5) (s : State) : Res :=
  let i := (s.rs a).toNat
  let j := stnOf (clusterOf s.cur.k * 96 + i)
  .next (s.need (i < 96 ∧ (s.stn j).sys.teamid = s.here.sys.teamid) (s.claimBay d.toNat fun s =>
    s.sendParts (.bay d.toNat) [s.path s.nextId 0 ⟨⟨some j, 0, 0, 0, 0, 0, false⟩, 256⟩ [] .snap]))

/-- `smark`: R270, R400; dropped and counted where the ring is full. -/
def execSmark (k : BitVec 3) (i : BitVec 16) (s : State) : Res :=
  .next (s.stnRecord s.cur.k 6 k.toNat s.cur.e.code s.cur.pc i.toNat s.cur.stamp)

end Sys2Proof.Machine
end

