-- ==== Sys2Proof/Machine/Walk.lean ====
section
/-!
DEFINITION. The page walker, its cache, pin-table fills and invalidations (R25 to R38).
-/

namespace Sys2Proof.Machine

/-! ### Tables in memory -/

/-- Bits [hi:lo] of a structure read from memory. -/
def nbits (v hi lo : Nat) : Nat := v / 2 ^ lo % 2 ^ (hi + 1 - lo)

/-- n bytes of the stack as a number; stack addresses have 34 bits (R56). -/
def State.stackNat (s : State) (a n : Nat) : Nat := s.mem.readLe (stackKey (a % 2 ^ 34)) n

/-- Object descriptor i of partition p (R25, R26). -/
def State.descriptor (s : State) (p i : Nat) : Nat := s.stackNat (bitsOf (s.part p).otcfg 33 15 * 32768 + i * 32) 32

/-- A descriptor that R35 calls malformed. -/
def descBad (d p : Nat) : Bool :=
  nbits d 255 232 != 0 || nbits d 191 162 != 0 || nbits d 142 104 != 0 || nbits d 47 0 != 0 || nbits d 59 56 != p % 16 ||
    nbits d 61 60 == 0 || nbits d 61 60 == 3 || nbits d 195 192 != 0

/-- Fields of a descriptor (R26). -/
def descV (d : Nat) : Bool := nbits d 63 63 == 1
def descPeer (d : Nat) : Bool := nbits d 62 62 == 1
def descLen (d : Nat) : Nat := nbits d 103 64
def descBase (d : Nat) : Nat := nbits d 231 192

/-- Fields of a leaf entry (R28). -/
def leafMoves (e : Nat) : Nat := nbits e 119 117
def leafEpoch (e : Nat) : Nat := nbits e 116 113
def leafSettled (e : Nat) : Bool := nbits e 112 112 == 1
def leafRes (e : Nat) : Nat := nbits e 109 108
def leafPlace (e : Nat) : Nat := nbits e 107 106
def leafOrd (e : Nat) : Bool := nbits e 105 105 == 1
def leafGeom (e : Nat) : Nat := nbits e 104 103
def leafFmt (e : Nat) : Nat := nbits e 102 99
def leafKind (e : Nat) : Nat := nbits e 57 56
def leafFrame (e : Nat) : Nat := nbits e 55 0

/-- A structure with bits [hi:lo] replaced. -/
def nput (v hi lo x : Nat) : Nat := v - nbits v hi lo * 2 ^ lo + x % 2 ^ (hi + 1 - lo) * 2 ^ lo

/-- `frame_ok` (R30, R35). -/
def State.frameOk (s : State) (p e : Nat) : Bool :=
  let f := leafFrame e
  match leafKind e with
  | 0 => decide (f < 2 ^ 13) && decide (f / 16 % 128 < 96)
  | 1 => decide (f < 2 ^ 18) && decide (bitsOf (s.part p).pstk 17 0 ≤ f) && decide (f ≤ bitsOf (s.part p).pstk 49 32)
  | 2 => decide (f < 2 ^ 48)
  | _ => true

/-- A leaf entry that R35 calls malformed; the geometry must be 00 where the format is not BFP (R28). -/
def State.leafBad (s : State) (p e : Nat) : Bool :=
  nbits e 123 120 != 0 || nbits e 98 58 != 0 || leafFmt e == 15 || leafGeom e == 3 ||
    (!isBfp (leafFmt e) && leafGeom e != 0) || !s.frameOk p e

/-- `frame_base` and the page offset (R30). -/
def leafPhys (e po : Nat) : Phys :=
  let f := leafFrame e
  match leafKind e with
  | 0 => .bank (f / 2048 % 4 * 96 + f / 16 % 128) (f % 16 * 65536 + po)
  | 1 => .stack (f * 65536 + po)
  | 2 => .host (f * 65536 + po)
  | _ => .peer (f / 2 ^ 46) (f / 2 ^ 24 % 2 ^ 22) (f % 2 ^ 24 * 65536 + po)

/-- What a walk finds: the place with the leaf entry and its address, a memory-fault code, or a page in transit (R35, R36). -/
inductive Walked where
  | at_ (ph : Phys) (leaf leafAt : Nat)
  | fault (code : Nat)
  | transit
  deriving DecidableEq, Repr

/-- The leaf entry's address for a page number, or a memory-fault code (R35). -/
def State.leafAddr (s : State) (d pn : Nat) : Except Nat Nat :=
  let root := nbits d 161 143
  if nbits d 61 60 = 1 then
    (if 4096 ≤ pn ∨ root % 2 = 1 then .error 3 else .ok (root * 32768 + pn * 16))
  else if 2 ^ 24 ≤ pn then .error 3
  else
    let de := s.stackNat (root * 32768 + pn / 4096 * 8) 8
    if nbits de 62 34 ≠ 0 ∨ nbits de 15 0 ≠ 0 then .error 3
    else if nbits de 63 63 = 0 then .error 4
    else .ok (nbits de 33 16 * 65536 + pn % 4096 * 16)

/-- A leaf entry with its accessed bit set, and its dirty bit for a write (R35). -/
def leafTouched (e : Nat) (write : Bool) : Nat :=
  let e := nput e 110 110 1
  if write then nput e 111 111 1 else e

/-- The walk of R35 over a descriptor and, where one is given, a cached leaf entry, up to the swap. -/
def State.walkWith (s : State) (p d o n : Nat) (leaf : Option (Nat × Nat)) : Walked :=
  if descV d = false then .fault 1
  else if descBad d p then .fault 3
  else if o + n > descLen d then .fault 2
  else
    let t := o + descBase d
    match (match leaf with
      | some (a, e) => Except.ok (a, e)
      | none => (s.leafAddr d (t / 65536)).map fun a => (a, s.stackNat a 16)) with
    | .error c => .fault c
    | .ok (a, e) =>
      if s.leafBad p e then .fault 3
      else if leafRes e = 0 then .fault 4
      else if leafRes e = 3 then .transit
      else .at_ (leafPhys e (t % 65536)) e a

/-- The walk without its swap: what the tables in memory say (R35). -/
def State.look (s : State) (p obj o n : Nat) : Walked :=
  if bitsOf (s.part p).otcfg 55 34 ≤ obj then .fault 1 else s.walkWith p (s.descriptor p obj) o n none

/-- The swap of R35: the leaf entry in memory gains A, and D for a write. -/
def State.touchLeaf (s : State) (a e : Nat) (write : Bool) : State :=
  if leafTouched e write = e then s else s.poke (stackKey (a % 2 ^ 34)) (leBytes 16 (leafTouched e write))

/-- The cached entry of a port for a page. -/
def State.cached (s : State) (port p obj page : Nat) : Option CacheEntry :=
  s.pkg.cache.find? fun c => c.port == port && c.part == p && c.obj == obj && c.page == page

/-- A translation put into a port's object-table cache (R35, R36). -/
def State.cachePut (s : State) (c : CacheEntry) : State :=
  { s with pkg := { s.pkg with
      cache := s.pkg.cache.filter (fun x => !(x.port == c.port && x.part == c.part && x.obj == c.obj && x.page == c.page)) ++ [c] } }

/-- The station that takes a partition's fault traps (R383). -/
def State.faultStn (s : State) (p : Nat) : Stn :=
  let q := (s.part p).fqcfg
  stnOf (bitsOf q 46 45 * 96 + bitsOf q 44 38)

/-- Errors corrected in a read of n bytes that no station makes: the partition's fault station counts them, and they are reported (R386,
R400; log entry 133). -/
def State.correctFor (s : State) (port p key n : Nat) : State :=
  s.correctWords (s.faultStn p) p port key n

/-- What a walk reads in the stack for page pn of an object, with the lengths: the directory entry of an object of two levels, and the
leaf entry (R35). -/
def State.entryReads (s : State) (d pn : Nat) : List (Nat × Nat) :=
  (if nbits d 61 60 = 1 then [] else [(nbits d 161 143 * 32768 + pn / 4096 * 8, 8)]) ++ match s.leafAddr d pn with
    | .ok a => [(a, 16)]
    | .error _ => []

/-- The address of an object's descriptor (R25). -/
def State.descAddr (s : State) (p obj : Nat) : Nat := bitsOf (s.part p).otcfg 33 15 * 32768 + obj * 32

/-- What a walk reads in the stack, with the lengths: the descriptor, then the entries of the page (R35). -/
def State.tableReads (s : State) (p obj o : Nat) : List (Nat × Nat) :=
  let d := s.descriptor p obj
  (s.descAddr p obj, 32) :: if descV d = false ∨ descBad d p = true then [] else s.entryReads d ((o + descBase d) / 65536)

/-- Errors corrected in the reads of a walk (R386). -/
def State.correctTables (s : State) (port p obj o : Nat) : State :=
  (s.tableReads p obj o).foldl (fun s (a, n) => s.correctFor port p (stackKey (a % 2 ^ 34)) n) s

/-- A leaf entry changes with the access: its address. -/
def swapped (a e : Nat) (write : Bool) : Option Nat := if leafTouched e write = e then none else some a

/-- A walk of the tables in memory, with its swap, whose address is answered; the port may keep what it read, as it chooses (R35). -/
def State.walkTables (s : State) (port p obj o n : Nat) (write : Bool) : Walked × Option Nat × State :=
  let s := s.correctTables port p obj o
  match s.look p obj o n with
  | .at_ ph e a =>
    let d := s.descriptor p obj
    let (x, s) := (s.touchLeaf a e write).draw
    (.at_ ph e a, swapped a e write,
      if x % 2 = 1 then s.cachePut ⟨port, p, obj, (o + descBase d) / 65536, d, a, leafTouched e write⟩ else s)
  | w => (w, none, s)

/-- `walk` of R35 at a memory port: n bytes of offset o that lie in one page. Where the port's cache holds the page, it may use the
cached entries; a swap against an entry that has changed restarts the walk from the tables. The address of a leaf entry that it swapped
is answered: that is an access of its line's channel (R56). -/
def State.walk (s : State) (port p obj o n : Nat) (write : Bool) : Walked × Option Nat × State :=
  if bitsOf (s.part p).otcfg 55 34 ≤ obj then (.fault 1, none, s)
  else
    let c := s.pkg.cache.find? fun c => c.port == port && c.part == p && c.obj == obj && c.page == (o + descBase c.desc) / 65536
    match c with
    | none => s.walkTables port p obj o n write
    | some c =>
      let (x, s) := s.draw
      if x % 2 = 0 then s.walkTables port p obj o n write
      else match s.walkWith p c.desc o n (some (c.leafAt, c.leaf)) with
        | .at_ ph e a =>
          if leafTouched e write = e then (.at_ ph e a, none, s)
          else if s.stackNat a 16 = e then
            (.at_ ph e a, some a, (s.touchLeaf a e write).cachePut { c with leaf := leafTouched e write })
          else s.walkTables port p obj o n write
        | w => (w, none, s)

/-! ### Pin-table fills -/

/-- The tests of a fill on page pn after the page before it; the page's entry, or the STATUS (R33). -/
def State.pinPage (s : State) (k : Stn) (p d pn : Nat) (prev : Option Nat) : Except Nat (Nat × Nat) :=
  match s.leafAddr d pn with
  | .error c => .error (if c = 4 then 1 else 6)
  | .ok a =>
    let e := s.stackNat a 16
    let place := fun e => if leafKind e = 0 then leafFrame e % 2048 else leafFrame e
    if s.leafBad p e then .error 6
    else if leafRes e ≠ 2 then .error 1
    else if 2 ≤ leafKind e ∨ leafKind e = 0 ∧ leafFrame e / 2048 ≠ clusterOf k then .error 4
    else match prev with
      | none => .ok (a, e)
      | some q => if leafKind q = leafKind e ∧ place e = place q + 1 then .ok (a, e) else .error 2

/-- Errors corrected in the reads of a fill, which the station counts (R33, R386). -/
def State.correctFill (s : State) (k : Stn) (p : Nat) (reads : List (Nat × Nat)) : State :=
  reads.foldl (fun s (a, n) => s.correctWords k p (clusterOf k) (stackKey (a % 2 ^ 34)) n) s

/-- The pages of a run from pn on, each walked for a read, so that its accessed bit is set (R33, R35). -/
def State.pinRun (s : State) (k : Stn) (p d : Nat) : Nat → Nat → Option Nat → List Nat → Except Nat (List Nat) × State
  | 0, _, _, acc => (.ok acc, s)
  | n + 1, pn, prev, acc =>
    let s := s.correctFill k p (s.entryReads d pn)
    match s.pinPage k p d pn prev with
    | .error c => (.error c, s)
    | .ok (a, e) => (s.touchLeaf a e false).pinRun k p d n (pn + 1) (some e) (acc ++ [e])

/-- Another valid entry of the station overlaps a run (R33). -/
def Station.pinOverlap (t : Station) (i obj first count : Nat) : Bool :=
  t.pins.toList.zipIdx.any fun (e, j) => match e with
    | none => false
    | some e => j != i && e.obj == obj && decide (e.first < first + count) && decide (first < e.first + e.count)

/-- The entry of a run whose pages passed. -/
def pinEntry (obj first count d : Nat) (es : List Nat) : PinEntry :=
  let e := es.headD 0
  ⟨obj, first, count, leafKind e == 0, if leafKind e = 0 then leafFrame e % 2048 else leafFrame e, descBase d,
    es.map fun e => (leafFmt e, leafGeom e, leafPlace e, leafOrd e)⟩

/-- The outcome of a fill: the entry, or the STATUS of the first failure in the order of R33. Whether ROOT[0] = 1 makes the descriptor of
an object of one level malformed R33 does not say; `leafAddr` tests it page by page, after the length (log entry 147). -/
def State.pinWalk (s : State) (k : Stn) (i obj first count : Nat) : Except Nat PinEntry × State :=
  let p := s.partOf k
  if bitsOf (s.part p).otcfg 55 34 ≤ obj then (.error 5, s)
  else
    let s := s.correctFill k p [(s.descAddr p obj, 32)]
    let d := s.descriptor p obj
    if descV d = false then (.error 5, s)
    else if descBad d p then (.error 6, s)
    else if descLen d + descBase d ≤ (first + count - 1) * 65536 then (.error 3, s)
    else match s.pinRun k p d count first none [] with
      | (.error c, s) => (.error c, s)
      | (.ok es, s) =>
        if (s.stn k).pinOverlap i obj first count then (.error 7, s) else (.ok (pinEntry obj first count d es), s)

/-- The entry that PINCTL names. -/
def pinIndex (v : DWord) : Fin 32 := ⟨bitsOf v 16 12, by unfold bitsOf; exact Nat.mod_lt _ (by decide)⟩

/-- PINCTL is written: with GO = 1 the fill starts, and the entry matches nothing meanwhile (R33); it ends in some later cycle. A
write without GO leaves a fill under way as it is; one with GO abandons it (log entry 117). -/
def State.pinWrite (s : State) (k : Stn) (v : DWord) : State :=
  let t := s.stn k
  let keep := if t.pinDue.isSome then bitsOf t.sys.pinctl 63 60 else bitsOf t.sys.pinctl 62 60
  let r := putBits (v &&& 0x1_FFFF#64) 63 60 keep
  if bitOf v 63 then
    let (x, s) := s.draw
    s.onStn k fun t => { t with
      sys := { t.sys with pinctl := putBit r 63 true }
      pins := t.pins.set (pinIndex v).val none
      pinDue := some (s.cyc + 1 + x, t.sys.pinobj, v) }
  else s.onStn k fun t => { t with sys := { t.sys with pinctl := r } }

/-- `PIN_FILL`: R33. -/
def execPinFill (k : Stn) (v : Nat) (s : State) : Res := .next (s.pinWrite k (putBit (BitVec.ofNat 64 v) 63 true))

/-- `PIN_FILL_COMPLETE`: R33; a run of no pages clears the entry. -/
def execPinFillComplete (k : Stn) (s : State) : Res :=
  .next (match (s.stn k).pinDue with
    | none => s
    | some (_, obj, v) =>
      let n := bitsOf v 11 0
      let i := pinIndex v
      let (r, s) := if n = 0 then ((.error 0 : Except Nat PinEntry), s) else s.pinWalk k i.val (bitsOf obj 21 0) (bitsOf obj 45 22) n
      let (e, st) := match r with
        | .ok e => (some e, 0)
        | .error c => (none, c)
      s.onStn k fun t => { t with
        pinDue := none, pins := t.pins.set i.val e
        sys := { t.sys with pinctl := putBits (putBit t.sys.pinctl 63 false) 62 60 st } })

/-! ### Invalidation -/

/-- OTINV is written: every port discards the named entries, and BUSY reads 1 until the commands that used one of them have finished
(R38). -/
def State.invalidate (s : State) (p : Nat) (v : DWord) : State :=
  let s := { s with pkg := { s.pkg with
    cache := s.pkg.cache.filter fun c => !(c.part == p && (bitOf v 63 || c.obj == bitsOf v 21 0)) } }
  s.onPart p fun q => { q with otbusy := q.otbusy ++ [(s.nextId, if bitOf v 63 then none else some (bitsOf v 21 0))] }

/-- `OTINV`: R38. -/
def execOtinv (k : Stn) (v : DWord) (s : State) : Res := .next (s.invalidate (s.partOf k) v)

end Sys2Proof.Machine
end

