-- ==== Sys2Proof/Machine/RingMap.lean ====
section
/-!
DEFINITION. Where the weight ring keeps its segments: the delay line and the slack window of each line, the channels that the
transport claims, and segment headers (R141 to R151).
-/

namespace Sys2Proof.Machine

/-! ### Registers -/

/-- A line of the ring. -/
def State.rline (s : State) (l : Nat) : RingLine := s.pkg.ring.lines[l % 2]'(Nat.mod_lt _ (by decide))

/-- The state with the ring changed. -/
def State.onRing (s : State) (f : Ring → Ring) : State := { s with pkg := { s.pkg with ring := f s.pkg.ring } }

/-- A ring with a line changed. -/
def Ring.onLine (r : Ring) (l : Nat) (f : RingLine → RingLine) : Ring :=
  { r with lines := r.lines.set (l % 2) (f (r.lines[l % 2]'(Nat.mod_lt _ (by decide)))) (Nat.mod_lt _ (by decide)) }

/-- The state with a line of the ring changed. -/
def State.onLine (s : State) (l : Nat) (f : RingLine → RingLine) : State := s.onRing fun r => r.onLine l f

/-- Fields of RLCFG (R146). -/
def RingLine.base (r : RingLine) : Nat := bitsOf r.cfg 63 44
def RingLine.segs_ (r : RingLine) : Nat := bitsOf r.cfg 43 31
def RingLine.hop (r : RingLine) : Nat := bitsOf r.cfg 30 18
def RingLine.lnk (r : RingLine) : Nat := bitsOf r.cfg 17 7
def RingLine.trim (r : RingLine) : Nat := bitsOf r.cfg 6 2
def RingLine.inSel (r : RingLine) : Nat := bitsOf r.cfg 1 0

/-- Fields of RLSRC (R146). -/
def RingLine.source (r : RingLine) : Bool := bitOf r.src 63
def RingLine.k (r : RingLine) : Nat := bitsOf r.src 47 24
def RingLine.toff (r : RingLine) : Nat := bitsOf r.src 23 0

/-- D, the delay from tail write to head read (R147). -/
def RingLine.delay (r : RingLine) : Nat := 2048 * r.hop - 6 - r.lnk - r.trim

/-- RLCFGl and RLSRCl as they are set at bring-up: BASE[44] is the line's, IN is never 11, and reserved bits are zero (R4, R146). -/
def lineCfg (l : Nat) (v : DWord) : DWord := putBit (if bitsOf v 1 0 = 3 then putBits v 1 0 0 else v) 44 (l % 2 == 1)
def lineSrc (v : DWord) : DWord := v &&& BitVec.ofNat 64 0x8000_FFFF_FFFF_FFFF

/-- S and NM1 (R145). -/
def State.slackS (s : State) : Nat := bitsOf s.pkg.ring.ringcfg 43 40
def State.ringNM1 (s : State) : Nat := bitsOf s.pkg.ring.ringcfg 63 56

/-! ### Slots and channels -/

/-- Stack address of beat j of frame g (R148). -/
def RingLine.slotAddr (r : RingLine) (g : Int) (j : Nat) : Nat :=
  (r.base * 16384 + 1024 * (2048 * (g % r.segs_).toNat + j)) % 2 ^ 34

/-- Frame and beat of a cycle (R144, R147). -/
def State.beatOf (s : State) (c : Int) : Int × Nat := ((c - s.phase) / 2048, ((c - s.phase) % 2048).toNat)

/-- The channel groups that the transport claims in cycle c (R148). -/
def State.ringGroups (s : State) (c : Nat) : List Nat :=
  if s.pkg.ring.up then
    [0, 1].flatMap fun l =>
      let r := s.rline l
      [((c : Int) - s.phase + 16 * (r.base % 2 : Nat)), ((c : Int) - s.phase + r.delay + 16 * (r.base % 2 : Nat))].map fun x => (x % 32).toNat
  else []

/-- Channel of a stack address (R56). -/
def channelOf (a : Nat) : Nat := a / 256 % 128

/-- The transport uses a channel in cycle c (R58, R148). -/
def State.ringClaims (s : State) (c ch : Nat) : Bool := (s.ringGroups c).contains (ch / 4)

/-! ### Headers -/

/-- The header of the segment of frame g on a line, as it stands in the buffer (R142). -/
def State.header (s : State) (l : Nat) (g : Int) : Nat := s.stackNat ((s.rline l).slotAddr g 0) 64

/-- Fields of a header (R142). -/
def hdrKind (h : Nat) : Nat := nbits h 67 64
def hdrTag (h : Nat) : Nat := nbits h 24 0
def hdrFmt (h : Nat) : Nat := nbits h 71 68
def hdrGeom (h : Nat) : Nat := nbits h 73 72
def hdrLen (h : Nat) : Nat := nbits h 116 96
def hdrCrc (h : Nat) : Nat := nbits h 511 480
def hdrMap (h : Nat) : MapTag := ⟨BitVec.ofNat 1 (nbits h 74 74), BitVec.ofNat 2 (nbits h 76 75), BitVec.ofNat 6 (nbits h 82 77)⟩

/-- A segment with this header on line l is present, for a MODEL (R143). -/
def hdrPresent (model l h : Nat) : Bool :=
  decide (hdrKind h ≤ 2) && nbits h 479 160 == 0 && nbits h 127 117 == 0 && nbits h 95 83 == 0 && nbits h 31 25 == 0 &&
    decide (hdrLen h ≤ 2097088) && hdrFmt h != 15 && hdrGeom h != 3 &&
    nbits h 159 128 == model && nbits h 24 24 == l

/-- A segment with this header is void (R143). -/
def hdrVoid (h : Nat) : Bool := hdrKind h == 15

/-! ### Taps -/

/-- d_k (R149). -/
def tapDelay (k : Stn) (up : Bool) : Nat := if up then 107 - slotOf (localOf k) else 5 + slotOf (localOf k)

/-- Frame and beat that a weight-lane tap at nominal cycle n names, before the catch-up distance (R151). -/
def State.tapBeat (s : State) (k : Stn) (up : Bool) (n : Nat) : Int × Nat := s.beatOf ((n : Int) - tapDelay k up)

/-- A quarter of a beat as the buffer holds it, with its poison (R150, R387). -/
def State.quarter (s : State) (l : Nat) (g : Int) (j q : Nat) : Line × Bool :=
  let a := (s.rline l).slotAddr g j + 256 * q
  (lineOfBytes (s.mem.readN (stackKey a) 256), s.mem.poisonIn (stackKey a) 256)

/-- Frame g lies in the slack window (R150, R152). -/
def State.inWindow (s : State) (g : Int) : Bool := decide ((s.frameOf s.cyc : Int) - g ≤ s.slackS)

end Sys2Proof.Machine
end

