-- ==== Sys2Proof/Machine/Tree.lean ====
section
/-!
DEFINITION. The order of sums: chunk sums, partials, the fixed tree and tree states, with their layout in a vector register (R86 to
R91, R285).
-/

namespace Sys2Proof.Machine

/-! ### Partials -/

/-- A value that enters a reduction as a leaf, with its P and N bits (R87). -/
def leafOf (w : Word) : Partial := ⟨w, w == infOf false, w == infOf true⟩

/-- The NV of a signalling leaf (R87). -/
def leafFlags (w : Word) : Flags := flagIf (isSnan w = true) fNV

/-- The value of a node of two FP32 values (R87). -/
def combineValue (a b : Word) : Word × Flags :=
  if isNan a ∨ isNan b then
    (if isNan a = true ∧ (payloadOf a ≠ 0 ∨ ¬ (isNan b = true ∧ payloadOf b ≠ 0)) then quiet a else quiet b, 0)
  else if isInf a = true ∧ isInf b = true ∧ a ≠ b then (defaultNan, 0)
  else addVals 0 (fval a) (fval b)

/-- `combine` of two FP32 partials (R87). -/
def combineF (a b : Partial) : Partial × Flags :=
  let (v, f) := combineValue a.v b.v
  let p := a.p || b.p
  let n := a.n || b.n
  let fin := !isInf a.v && !isInf b.v && !isNan a.v && !isNan b.v
  (⟨v, p || (fin && v == infOf false), n || (fin && v == infOf true)⟩,
   f ||| flagIf (p = true ∧ n = true ∧ ¬ (a.p = true ∧ a.n = true) ∧ ¬ (b.p = true ∧ b.n = true)) fNV)

/-- An INT32 sum clipped (R91). -/
def clip32 (v : Int) : Partial × Flags :=
  let (c, clip) := clipTo 32 v
  (⟨BitVec.ofNat 32 c, false, false⟩, flagIf (clip = true) fISAT)

/-- A node of a reduction of either type (R87, R91). -/
def combine (int : Bool) (a b : Partial) : Partial × Flags :=
  if int then clip32 (a.v.toInt + b.v.toInt) else combineF a b

/-- A node with absent children (R87). -/
def combineOpt (int : Bool) : Option Partial → Option Partial → Option Partial × Flags
  | none, b => (b, 0)
  | a, none => (a, 0)
  | some a, some b => (some (combine int a b).1, (combine int a b).2)

/-! ### Chunk sums -/

/-- The FP32 word of a NaN (R82). -/
def nanWord (neg quiet : Bool) (p : Nat) : Word := BitVec.ofNat 32 (b2n neg * 2 ^ 31 + 0x7F80_0000 + b2n quiet * 2 ^ 22 + p)

/-- The NaN words of a list of values. -/
def nanWords (xs : List FVal) : List Word := xs.filterMap fun x => match x with | .nan n q p => some (nanWord n q p) | _ => none

/-- A product term: its value, and the flags of its formation (R86). -/
def termOf (a b : FVal) : FVal × Flags :=
  match nanPick (nanWords [a, b]) with
  | some (w, f) => (fval w, f)
  | none => match mulVals false a b with
    | none => (.nan false true 0, fNV)
    | some v => (v, 0)

/-- A finite value as a multiple of 2^-400. -/
def FVal.scaled : FVal → Int
  | .fin neg m e => (if neg then -1 else 1) * (m * 2 ^ (e + 400).toNat)
  | _ => 0

/-- A value that is not finite, as a leaf. -/
def FVal.special : FVal → Option Partial
  | .nan n q p => some ⟨nanWord n q p, false, false⟩
  | .inf neg => some ⟨infOf neg, !neg, neg⟩
  | .fin .. => none

/-- The sum of a chunk's terms: exact and rounded once, or, with NaN or infinite terms, those terms combined in index order (R86;
a chunk that holds one has no sum of its finite terms to round, log entry 12; the order of their combination, log entry 122). -/
def chunkSum (ts : List FVal) : Partial × Flags :=
  match ts.filterMap FVal.special with
  | x :: r => r.foldl (fun (a, f) y => let (c, g) := combineF a y; (c, f ||| g)) (⟨quietNan x.v, x.p, x.n⟩, 0)
  | [] =>
    let t := (ts.map FVal.scaled).sum
    let negZero := ts.all fun x => match x with | .fin n m _ => n && m == 0 | _ => false
    if t = 0 then (leafOf (zeroOf negZero), 0)
    else
      let (w, f) := wordRes (FpFmt.f32.round 0 (decide (t < 0)) false t.natAbs (-400))
      (leafOf w, f)
where
  /-- A NaN among the terms is quiet in the sum (R86). -/
  quietNan (w : Word) : Word := if isNan w then quiet w else w

/-- The sum of a chunk of FP32 elements (R86). -/
def chunkElems (ws : List Word) : Partial × Flags :=
  let (c, f) := chunkSum (ws.map fval)
  (c, f ||| orFlags (ws.map leafFlags))

/-! ### The fixed tree -/

/-- One level of the tree: pairs combined in ascending order (R88). -/
def treeLevel (int : Bool) : List (Option Partial) → List (Option Partial) × Flags
  | a :: b :: r =>
    let (c, f) := combineOpt int a b
    let (cs, g) := treeLevel int r
    (c :: cs, f ||| g)
  | l => (l, 0)

/-- The levels of the tree up to its root. -/
def treeUp (int : Bool) : Nat → List (Option Partial) → Option Partial × Flags
  | 0, l => ((l.head?).join, 0)
  | n + 1, l =>
    let (l', f) := treeLevel int l
    let (r, g) := treeUp int n l'
    (r, f ||| g)

/-- `tree_sum` over leaves that may be absent (R88): seven levels cover 128 leaves. -/
def treeSum (int : Bool) (leaves : List (Option Partial)) : Option Partial × Flags := treeUp int 7 leaves

/-! ### Tree states -/

/-- The first pair of sibling entries of a list folded into its parent (R89). -/
def foldFirst (int : Bool) : List TreeEntry → Option (List TreeEntry × Flags)
  | a :: b :: r =>
    if a.l = b.l ∧ a.i % 2 = 0 ∧ b.i = a.i + 1 then
      let (c, f) := combine int a.x b.x
      some (⟨a.l + 1, a.i / 2, c⟩ :: r, f)
    else (foldFirst int (b :: r)).map fun (l, f) => (a :: l, f)
  | _ => none

/-- Sibling entries folded while there are any (R89). -/
def foldAll (int : Bool) : Nat → List TreeEntry → List TreeEntry × Flags
  | 0, l => (l, 0)
  | n + 1, l => match foldFirst int l with
    | none => (l, 0)
    | some (l', f) =>
      let (r, g) := foldAll int n l'
      (r, f ||| g)

/-- `tree_merge` (R89), or none where it raises a format-alignment trap with subcode 0x4. -/
def treeMerge (x y : TreeState) : Option (TreeState × Flags) :=
  if x.hi ≠ y.lo ∨ y.base.isSome ∨ x.int ≠ y.int then none
  else
    let e := x.entries ++ y.entries
    let (es, f) := foldAll x.int e.length e
    some (⟨x.lo, y.hi, x.int, x.base, es⟩, f)

/-- The state of one chunk (R89). -/
def oneChunk (int : Bool) (c : Nat) (x : Partial) : TreeState := ⟨c, c + 1, int, none, [⟨0, c, x⟩]⟩

/-- A merge with states that may be empty, which are the identity (R286). -/
def mergeOpt : Elem → Elem → Option (Elem × Flags)
  | none, y => some (y, 0)
  | x, none => some (x, 0)
  | some x, some y => (treeMerge x y).map fun (z, f) => (some z, f)

/-- `tree_read` as a partial (R89); a state without entries and without a base reads zero. -/
def treeRead (x : TreeState) : Partial × Flags :=
  let (r, f) := x.entries.reverse.foldl (fun (r, f) p =>
    let (c, g) := combineOpt x.int (some p.x) r
    (c, f ||| g)) (none, 0)
  let (r, g) := combineOpt x.int x.base r
  (r.getD ⟨0, false, false⟩, f ||| g)

/-- The value of an element: an empty one reads zero (R286, R298). -/
def readElem : Elem → Partial × Flags
  | none => (⟨0, false, false⟩, 0)
  | some x => treeRead x

/-! ### A tree state in a vector register -/

/-- Bits of a lane. -/
def laneBits (w : Word) (lo n : Nat) : Nat := w.toNat / 2 ^ lo % 2 ^ n

/-- The 64 lanes of a state (R285). -/
def stateLanes : Elem → List Word
  | none => List.replicate 64 0
  | some t =>
    let es := t.entries
    let b := t.base.getD ⟨0, false, false⟩
    let byte := fun i => match es[i]? with
      | some e => e.l + b2n e.x.p * 32 + b2n e.x.n * 64
      | none => 0
    [BitVec.ofNat 32 (b2n (t.lo < t.hi || t.base.isSome) * 2 ^ 31 + b2n t.base.isSome * 2 ^ 30 + es.length * 2 ^ 24 + t.lo % 2 ^ 24),
     BitVec.ofNat 32 (b2n t.int * 2 ^ 31 + t.hi % 2 ^ 24), b.v, BitVec.ofNat 32 (b2n b.p * 2 ^ 31 + b2n b.n * 2 ^ 30)] ++
    (List.range 48).map (fun i => ((es[i]?).map (·.x.v)).getD 0) ++
    (List.range 12).map fun i => BitVec.ofNat 32 (byte (4 * i) + byte (4 * i + 1) * 2 ^ 8 + byte (4 * i + 2) * 2 ^ 16 + byte (4 * i + 3) * 2 ^ 24)

/-- Lane i of a list of lanes. -/
def lane (ws : List Word) (i : Nat) : Word := ws.getD i 0

/-- The entries of a register from entry e on, whose chunks start at `start` (R285); none where one is no aligned node or has a
reserved bit set. -/
def readEntries (ws : List Word) : Nat → Nat → Nat → Option (List TreeEntry × Nat)
  | 0, _, start => some ([], start)
  | n + 1, e, start =>
    let b := laneBits (lane ws (52 + e / 4)) (8 * (e % 4)) 8
    let l := b % 32
    if 128 ≤ b ∨ start % 2 ^ l ≠ 0 then none
    else (readEntries ws n (e + 1) (start + 2 ^ l)).map fun (r, s) =>
      (⟨l, start / 2 ^ l, ⟨lane ws (4 + e), b / 32 % 2 == 1, b / 64 % 2 == 1⟩⟩ :: r, s)

/-- The state that a register holds (R285), or none where it is not well formed; V must say whether a chunk is covered or a base is
held (log entry 13). -/
def lanesState (ws : List Word) : Option Elem :=
  let w0 := lane ws 0
  let n := laneBits w0 24 6
  let lo := laneBits w0 0 24
  let hi := laneBits (lane ws 1) 0 24
  let int := laneBits (lane ws 1) 31 1 == 1
  let bp := laneBits w0 30 1 == 1
  let unused := (List.range 48).all fun e => decide (e < n) ||
    (lane ws (4 + e) == 0 && laneBits (lane ws (52 + e / 4)) (8 * (e % 4)) 8 == 0)
  if 48 < n ∨ laneBits (lane ws 1) 24 7 ≠ 0 ∨ laneBits (lane ws 3) 0 30 ≠ 0 ∨ unused = false then none
  else match readEntries ws n 0 lo with
    | none => none
    | some (es, e) =>
      if e ≠ hi ∨ (int = true ∧ (lane ws 3 ≠ 0 ∨ es.any (fun e => e.x.p || e.x.n) = true)) ∨
          laneBits w0 31 1 ≠ b2n (decide (lo < hi) || bp) then none
      else if lo < hi ∨ bp = true then
        some (some ⟨lo, hi, int, if bp then some ⟨lane ws 2, laneBits (lane ws 3) 31 1 == 1, laneBits (lane ws 3) 30 1 == 1⟩ else none, es⟩)
      else some none

end Sys2Proof.Machine
end

