-- ==== Sys2Proof/Machine/Vector.lean ====
section
/-!
DEFINITION. Vector instructions on registers: arithmetic, compares, predicates, conversions, quantisation, special functions,
reductions, moves, randomness, routing and log-sum-exp (R272 to R289, R294 to R296).
-/

namespace Sys2Proof

/-- The extension word asks for INT32 lanes. -/
def VExt.int (e : VExt) : Bool := e.t == 0xE

/-- `.sat` (R276). -/
def VExt.sat (e : VExt) : Bool := e.bit 21

/-- The scale-selection unit that an extension word names (R281). -/
def VExt.unit (e : VExt) : Option Nat := if e.bit 19 then some (e.bits 16 3) else none

end Sys2Proof

namespace Sys2Proof.Machine

/-! ### Operands and destinations -/

/-- A vector operand (R273). -/
def State.rv (s : State) (i : BitVec 6) : Line := s.here.vreg i

/-- A predicate operand. -/
def State.rq (s : State) (i : BitVec 3) : DWord := s.here.qreg i

/-- The active lanes (R272). -/
def State.active (s : State) (e : VExt) : DWord := if e.qe = 1 then s.rq e.q else BitVec.allOnes 64

/-- A vector result under a mask, with the flags that are set in the same cycle (R273, R85). -/
def State.putV (s : State) (d : BitVec 6) (mask data : Line) (f : Flags) (lat : Nat) : State :=
  let s := s.after lat (.vreg d mask data)
  if f = 0 then s else s.after lat (.flags f)

/-- A whole vector register from its lanes. -/
def State.putLanes (s : State) (d : BitVec 6) (ws : List Word) (f : Flags) (lat : Nat) : State :=
  s.putV d (BitVec.allOnes 2048) (lineOfLanes ws) f lat

/-- A result for each active lane; an inactive lane keeps its value and raises no flag (R272). -/
def State.lanewise (s : State) (e : VExt) (lat : Nat) (d : BitVec 6) (f : Nat → Word × Flags) : State :=
  let q := s.active e
  let rs := (List.range 64).map fun i => if q.getLsbD i then f i else (0, 0)
  s.putV d (laneMask q) (lineOfLanes (rs.map (·.1))) (orFlags (rs.map (·.2))) lat

/-- An elementwise instruction on A, B and the old D (R276). -/
def State.elementwise (s : State) (e : VExt) (lat : Nat) (d a b : BitVec 6) (f : Word → Word → Word → Word × Flags) : Res :=
  let va := s.rv a
  let vb := s.rv b
  let vd := s.rv d
  .next (s.lanewise e lat d fun i => f (laneOf va i) (laneOf vb i) (laneOf vd i))

/-! ### Arithmetic and logic -/

/-- An instruction with an FP32 and an INT32 form, each with its latency (R273, R276). -/
def State.arith (s : State) (x : Option VExt) (d a b : BitVec 6) (lf li : Nat) (ff : Nat → Word → Word → Word → Word × Flags)
    (fi : Int → Int → Int → Int) : Res :=
  let e := vext x 0xD
  if e.int then s.elementwise e li d a b fun a b d => i32Res e.sat (fi a.toInt b.toInt d.toInt)
  else s.elementwise e lf d a b (ff e.rm.toNat)

/-- `vadd`: R276. -/
def execVadd (d a b : BitVec 6) (x : Option VExt) (s : State) : Res :=
  s.arith x d a b 2 1 (fun rm a b _ => f32Add rm a b) fun a b _ => a + b
/-- `vsub`: R276. -/
def execVsub (d a b : BitVec 6) (x : Option VExt) (s : State) : Res :=
  s.arith x d a b 2 1 (fun rm a b _ => f32Sub rm a b) fun a b _ => a - b
/-- `vmul`: R276. -/
def execVmul (d a b : BitVec 6) (x : Option VExt) (s : State) : Res :=
  s.arith x d a b 4 4 (fun rm a b _ => f32Mul rm a b) fun a b _ => a * b
/-- `vfma`: R276. -/
def execVfma (d a b : BitVec 6) (x : Option VExt) (s : State) : Res :=
  s.arith x d a b 4 4 (fun rm a b d => f32Fma rm false d a b) fun a b d => d + a * b
/-- `vfms`: R276. -/
def execVfms (d a b : BitVec 6) (x : Option VExt) (s : State) : Res :=
  s.arith x d a b 4 4 (fun rm a b d => f32Fma rm true d a b) fun a b d => d - a * b

/-- A signed or unsigned comparison of INT32 lanes for `vmax` and `vmin` (R276). -/
def i32MaxMin (isMax uns : Bool) (a b : Word) : Word × Flags :=
  (if (if uns then decide (a.toNat < b.toNat) else decide (a.toInt < b.toInt)) == isMax then b else a, 0)

/-- `vmax` and `vmin` (R276). -/
def State.maxMin (s : State) (isMax : Bool) (x : Option VExt) (d a b : BitVec 6) : Res :=
  let e := vext x 0xD
  if e.int then s.elementwise e 1 d a b fun a b _ => i32MaxMin isMax (e.bit 20) a b
  else s.elementwise e 2 d a b fun a b _ => f32MaxMin isMax a b

/-- `vmax`: R276. -/
def execVmax (d a b : BitVec 6) (x : Option VExt) (s : State) : Res := s.maxMin true x d a b
/-- `vmin`: R276. -/
def execVmin (d a b : BitVec 6) (x : Option VExt) (s : State) : Res := s.maxMin false x d a b
/-- `vabs`: R276. -/
def execVabs (d a : BitVec 6) (x : Option VExt) (s : State) : Res :=
  s.arith x d a a 2 1 (fun _ a _ _ => (a &&& 0x7FFF_FFFF, 0)) fun a _ _ => a.natAbs
/-- `vneg`: R276. -/
def execVneg (d a : BitVec 6) (x : Option VExt) (s : State) : Res :=
  s.arith x d a a 2 1 (fun _ a _ _ => (f32Neg a, 0)) fun a _ _ => -a

/-- A raw operation on 32-bit patterns (R276). -/
def State.rawOp (s : State) (x : Option VExt) (d a b : BitVec 6) (f : Word → Word → Word) : Res :=
  s.elementwise (vext x 0) 1 d a b fun a b _ => (f a b, 0)

/-- `vand`: R276. -/
def execVand (d a b : BitVec 6) (x : Option VExt) (s : State) : Res := s.rawOp x d a b (· &&& ·)
/-- `vor`: R276. -/
def execVor (d a b : BitVec 6) (x : Option VExt) (s : State) : Res := s.rawOp x d a b (· ||| ·)
/-- `vxor`: R276. -/
def execVxor (d a b : BitVec 6) (x : Option VExt) (s : State) : Res := s.rawOp x d a b (· ^^^ ·)
/-- `vshl`: R276. -/
def execVshl (d a b : BitVec 6) (x : Option VExt) (s : State) : Res := s.rawOp x d a b fun a b => a <<< (b.toNat % 32)
/-- `vshr`: R276. -/
def execVshr (d a b : BitVec 6) (x : Option VExt) (s : State) : Res := s.rawOp x d a b fun a b => a >>> (b.toNat % 32)
/-- `vsra`: R276. -/
def execVsra (d a b : BitVec 6) (x : Option VExt) (s : State) : Res := s.rawOp x d a b fun a b => a.sshiftRight (b.toNat % 32)

/-! ### Compares and predicates -/

/-- The outcome of an FP32 comparison, with its NV (R277). -/
def f32Cmp (cc : Nat) (a b : Word) : Bool × Flags :=
  let un := isNan a || isNan b
  let sn := isSnan a || isSnan b
  let o := f32Ord a b
  match cc with
  | 0 => (!un && o == .eq, flagIf (sn = true) fNV)
  | 1 => (un || o != .eq, flagIf (sn = true) fNV)
  | 2 => (!un && o == .lt, flagIf (un = true) fNV)
  | 3 => (!un && o != .gt, flagIf (un = true) fNV)
  | 4 => (!un && o == .gt, flagIf (un = true) fNV)
  | 5 => (!un && o != .lt, flagIf (un = true) fNV)
  | _ => (un, flagIf (sn = true) fNV)

/-- The outcome of an INT32 comparison (R277). -/
def i32Cmp (cc : Nat) (a b : Word) : Bool :=
  match cc with
  | 0 => a == b
  | 1 => a != b
  | 2 => decide (a.toInt < b.toInt)
  | 3 => decide (a.toInt ≤ b.toInt)
  | 4 => decide (b.toInt < a.toInt)
  | 5 => decide (b.toInt ≤ a.toInt)
  | _ => decide (a.toNat < b.toNat)

/-- A predicate from its bits. -/
def predOf (f : Nat → Bool) : DWord := BitVec.ofNat 64 (((List.range 64).map fun i => b2n (f i) * 2 ^ i).sum)

/-- A predicate result with flags. -/
def State.putQ (s : State) (d : BitVec 3) (v : DWord) (f : Flags) (lat : Nat) : State :=
  let s := s.after lat (.qreg d (BitVec.allOnes 64) v)
  if f = 0 then s else s.after lat (.flags f)

/-- `vcmp`: R277. Inactive lanes write 0. -/
def execVcmp (d : BitVec 3) (a b : BitVec 6) (x : Option VExt) (s : State) : Res :=
  let e := vext x 0xD
  let cc := e.bits 19 3
  let q := s.active e
  let va := s.rv a
  let vb := s.rv b
  let r := fun i => if q.getLsbD i then
    (if e.int then (i32Cmp cc (laneOf va i) (laneOf vb i), 0) else f32Cmp cc (laneOf va i) (laneOf vb i)) else (false, (0 : Flags))
  .next (s.putQ d (predOf fun i => (r i).1) (orFlags ((List.range 64).map fun i => (r i).2)) 2)

/-- `vsel`: R278; qS is a selector, and every lane is written. -/
def execVsel (d a b : BitVec 6) (x : VExt) (s : State) : Res :=
  let m := laneMask (s.rq x.q)
  .next (s.putV d (BitVec.allOnes 2048) (merge (s.rv b) m (s.rv a)) 0 1)

/-- `pand`: R279. -/
def execPand (d a b : BitVec 3) (s : State) : Res := .next (s.putQ d (s.rq a &&& s.rq b) 0 1)
/-- `por`: R279. -/
def execPor (d a b : BitVec 3) (s : State) : Res := .next (s.putQ d (s.rq a ||| s.rq b) 0 1)
/-- `pxor`: R279. -/
def execPxor (d a b : BitVec 3) (s : State) : Res := .next (s.putQ d (s.rq a ^^^ s.rq b) 0 1)
/-- `pnot`: R279. -/
def execPnot (d a : BitVec 3) (s : State) : Res := .next (s.putQ d (~~~s.rq a) 0 1)

/-! ### Conversion and quantisation -/

/-- `vcvt`: R280. -/
def execVcvt (d a : BitVec 6) (x : VExt) (s : State) : Res :=
  let t := x.t.toNat
  let src := x.bits 18 4
  let n := fmtBits src
  let m := fmtBits t
  let q := s.active x
  let v := (s.rv a).toNat / 2 ^ (64 * n * x.bits 16 2)
  let rs := (List.range 64).map fun i =>
    if q.getLsbD i then convertElem src t x.rm.toNat (v / 2 ^ (n * i) % 2 ^ n) else (0, 0)
  let ones := (List.range 64).map fun i => if q.getLsbD i then 2 ^ m - 1 else 0
  let at_ := fun l => BitVec.ofNat 2048 (packFields m l * 2 ^ (64 * m * x.bits 14 2))
  .next (s.putV d (at_ ones) (at_ (rs.map (·.1))) (orFlags (rs.map (·.2))) 2)

/-- Units and output bytes of a quantisation of 64 lanes (R281). -/
def quantUnits (t geo : Nat) : Nat × Nat :=
  let (e, n) := fmtUnit t geo
  (64 / e, 64 / e * n)

/-- A scale-selection unit of a station. -/
def Station.scaleUnit (t : Station) (i : Nat) : ScaleUnit := t.scale[i % 8]'(Nat.mod_lt _ (by decide))

/-- A scale-selection unit of a station replaced. -/
def Station.setScaleUnit (t : Station) (i : Nat) (u : ScaleUnit) : Station :=
  { t with scale := t.scale.set (i % 8) u (Nat.mod_lt _ (by decide)) }

/-- An encode of values that may name a scale-selection unit, which takes the blocks in the issue cycle (R77, R78). -/
def State.encode (s : State) (fmt geom rm units : Nat) (vs : List FVal) (ssu : Option Nat) : List Byte × Flags × State :=
  let o := encodeRun fmt geom rm units vs (ssu.map s.here.scaleUnit)
  (o.bytes, o.flags, match ssu, o.unit with
    | some i, some u => s.onHere fun t => t.setScaleUnit i u
    | _, _ => s)

/-- `vquant`: R281. -/
def execVquant (d a : BitVec 6) (x : Option VExt) (s : State) : Res :=
  let e := vext x 0
  let t := e.t.toNat
  let (k, n) := quantUnits t (e.bits 20 2)
  let ofs := e.bits 8 8
  .next (s.need (ofs + n ≤ 256)
    (let (bs, f, s) := s.encode t (e.bits 20 2) 0 k ((lanesOf (s.rv a)).map fval) e.unit
     s.putV d (byteMask ofs n) (BitVec.ofNat 2048 (leNat bs * 2 ^ (8 * ofs))) f 4))

/-- `vdeq`: R282; every element is exact in FP32. -/
def execVdeq (d a : BitVec 6) (x : Option VExt) (s : State) : Res :=
  let e := vext x 0
  let t := e.t.toNat
  let (k, n) := quantUnits t (e.bits 20 2)
  let ofs := e.bits 8 8
  let vs := decodeRun t (e.bits 20 2) k (((bytesOf (s.rv a)).drop ofs).take n)
  .next (s.need (ofs + n ≤ 256)
    (s.lanewise e 4 d fun i => (BitVec.ofNat 32 (FpFmt.f32.encode 0 (vs.getD i (.fin false 0 0))).1, 0)))

/-- `vscale`: R283. -/
def execVscale (d a b : BitVec 6) (x : Option VExt) (s : State) : Res :=
  let e := vext x 0xD
  s.elementwise e 2 d a b fun a b _ => f32Scale e.rm.toNat a (max (-512) (min 512 b.toInt))

/-! ### Special functions -/

/-- A special function of one operand (R284). -/
def State.special (s : State) (x : Option VExt) (d a : BitVec 6) (f : Nat → Word → Word × Flags) : Res :=
  let e := vext x 0xD
  s.elementwise e 8 d a a fun a _ _ => f e.rm.toNat a

/-- `vexp2`: R284. -/
def execVexp2 (d a : BitVec 6) (x : Option VExt) (s : State) : Res := s.special x d a f32Exp2
/-- `vrcp`: R284. -/
def execVrcp (d a : BitVec 6) (x : Option VExt) (s : State) : Res := s.special x d a f32Rcp
/-- `vrsq`: R284. -/
def execVrsq (d a : BitVec 6) (x : Option VExt) (s : State) : Res := s.special x d a f32Rsq
/-- `vlog2`: R284. -/
def execVlog2 (d a : BitVec 6) (x : Option VExt) (s : State) : Res := s.special x d a f32Log2

/-! ### Reductions and scans -/

/-- A group of registers from one on lies within v0 to v63 (R272). -/
def State.group (s : State) (a : BitVec 6) (n : Nat) (t : State) : State := s.need (a.toNat + n ≤ 64) t

/-- The state in a register, or an illegal-operand trap where it is not well formed (R285). -/
def State.treeIn (s : State) (a : BitVec 6) (f : Elem → State) : State :=
  match lanesState (lanesOf (s.rv a)) with
  | none => s.illOperand
  | some x => f x

/-- A merge of two states into a register, or a format-alignment trap with subcode 0x4 (R89, R286). -/
def State.mergeInto (s : State) (d : BitVec 6) (x y : Elem) (f : Flags) : State :=
  match mergeOpt x y with
  | none => s.formatTrap 4
  | some (z, g) => s.putLanes d (stateLanes z) (f ||| g) 8

/-- The elements of a chunk in four registers (R286). -/
def State.chunkWords (s : State) (a : BitVec 6) (c : Nat) : List Word :=
  (lanesOf (s.rv a) ++ lanesOf (s.rv (a + 1)) ++ lanesOf (s.rv (a + 2)) ++ lanesOf (s.rv (a + 3))).take c

/-- `vredsum`: R286. In `.add` the index of the first element is judged before the state in vD. -/
def execVredsum (d a b : BitVec 6) (x : Option VExt) (s : State) : Res :=
  let e := vext x 0xD
  let mode := e.bits 20 2
  .next (
    if mode = 0 then
      let g := (laneOf (s.rv b) 0).toNat
      let ws := s.chunkWords a (if x.isNone then 256 else e.bits 12 8 + 1)
      s.group a 4 (
        if g % 256 ≠ 0 ∨ 2 ^ 24 ≤ g / 256 then s.formatTrap 3
        else s.treeIn d fun old =>
          let (c, f) := if e.int then clip32 (ws.map BitVec.toInt).sum else chunkElems ws
          s.mergeInto d old (some (oneChunk e.int (g / 256) c)) f)
    else if mode = 1 then s.treeIn a fun x => s.treeIn b fun y => s.mergeInto d x y 0
    else s.treeIn a fun x =>
      let (r, f) := readElem x
      s.putLanes d [r.v, BitVec.ofNat 32 (b2n r.n * 2 + b2n r.p)] f 8)

/-- The lane of the greatest value under a key, the lowest of equals. -/
def maxLane (key : Nat → Int) : List Nat → Option Nat
  | [] => none
  | i :: r => match maxLane key r with
    | none => some i
    | some j => some (if key i < key j then j else i)

/-- `vredmax`: R287. -/
def execVredmax (d a : BitVec 6) (x : Option VExt) (s : State) : Res :=
  let e := vext x 0xD
  let v := s.rv a
  let q := s.active e
  let ls := (List.range 64).filter fun i => q.getLsbD i
  let none' := if e.int then 0x8000_0000#32 else infOf true
  let key := fun i => if e.int then (laneOf v i).toInt else f32Key (laneOf v i)
  let out := fun (w : Word) (i : Nat) (f : Flags) => Host.Outcome.next (s.putLanes d [w, BitVec.ofNat 32 i] f 5)
  match (if e.int then none else nanPick (ls.map (laneOf v))) with
  | some (w, f) =>
    let ns := ls.filter fun i => isNan (laneOf v i)
    out w (((ns.find? fun i => payloadOf (laneOf v i) != 0).or ns.head?).getD 0) f
  | none => match maxLane key ls with
    | none => out none' 0xFFFF_FFFF 0
    | some i => out (laneOf v i) i 0

/-- `vscan`: R288. -/
def execVscan (d a b : BitVec 6) (x : Option VExt) (s : State) : Res :=
  let e := vext x 0xD
  let va := s.rv a
  let q := s.active e
  let k := laneOf (s.rv b) 0
  let leaf := fun (w : Word) => if e.int then (⟨w, false, false⟩ : Partial) else leafOf w
  let sig := fun (w : Word) => if e.int then 0 else leafFlags w
  .next (s.lanewise e 8 d fun i =>
    let ls := (List.range (i + 1)).map fun j => if q.getLsbD j then some (leaf (laneOf va j)) else none
    let (t, f) := treeSum e.int ls
    let (r, g) := combineOpt e.int (some (leaf k)) t
    ((r.getD ⟨0, false, false⟩).v, f ||| g ||| sig k ||| sig (laneOf va i)))

/-! ### Data movement -/

/-- A lane that the instruction names by number. -/
def State.move (s : State) (e : VExt) (lat : Nat) (d : BitVec 6) (f : Nat → Word) : Res := .next (s.lanewise e lat d fun i => (f i, 0))

/-- `vmov`: R289. -/
def execVmov (d a : BitVec 6) (x : Option VExt) (s : State) : Res :=
  let v := s.rv a
  s.move (vext x 0) 1 d fun i => laneOf v i

/-- `vperm`: R289. -/
def execVperm (d a b : BitVec 6) (x : Option VExt) (s : State) : Res :=
  let va := s.rv a
  let vb := s.rv b
  s.move (vext x 0) 2 d fun i => let j := (laneOf vb i).toNat; if j < 64 then laneOf va j else 0

/-- `vbcast`: R289. -/
def execVbcast (d a : BitVec 6) (x : Option VExt) (s : State) : Res :=
  let e := vext x 0
  let w := laneOf (s.rv a) (e.bits 16 6)
  s.move e 2 d fun _ => w

/-- `vslide`: R289; lane j of A and B together, with B above A for a slide to lower lanes and below it otherwise. -/
def execVslide (d a b : BitVec 6) (x : Option VExt) (s : State) : Res :=
  let e := vext x 0
  let n : Int := (BitVec.ofNat 7 (e.bits 15 7)).toInt
  let va := s.rv a
  let vb := s.rv b
  s.move e 2 d fun i =>
    let j : Int := i + n
    if 0 ≤ j ∧ j < 64 then laneOf va j.toNat else laneOf vb (if 64 ≤ j then j - 64 else j + 64).toNat

/-- `vpack`: R289. -/
def execVpack (d a b : BitVec 6) (x : Option VExt) (s : State) : Res :=
  let e := vext x 0
  let va := s.rv a
  let vb := s.rv b
  let both := (lanesOf va ++ lanesOf vb).map BitVec.toNat
  .next (match e.bits 20 2 with
    | 0 => s.putV d (BitVec.allOnes 2048) (BitVec.ofNat 2048 (packFields 16 both)) 0 2
    | 1 => s.putV d (byteMask 0 128) (BitVec.ofNat 2048 (packFields 8 both)) 0 2
    | 2 => s.putLanes d ((List.range 64).map fun i => (va.extractLsb' (16 * (64 * e.bits 19 1 + i)) 16).zeroExtend 32) 0 2
    | _ => s.putLanes d ((List.range 64).map fun i => (va.extractLsb' (8 * (64 * e.bits 18 2 + i)) 8).zeroExtend 32) 0 2)

/-- `vli`: R289. -/
def execVli (d : BitVec 6) (i : BitVec 12) (x : Option VExt) (s : State) : Res :=
  let e := vext x 0xE
  let f32 := BitVec.ofNat 32 (FpFmt.f32.round 0 (decide (i.toInt < 0)) false i.toInt.natAbs 0).1
  s.move e 1 d fun n =>
    if e.t = 0 then BitVec.ofNat 32 (e.bits 0 20 * 2 ^ 12 + i.toNat)
    else if e.t = 0xD then f32
    else i.signExtend 32 + (if e.bit 21 then BitVec.ofNat 32 n else 0)

/-! ### Randomness and dropout -/

/-- Key, layer and stream of vB (R294). -/
def cgOf (v : Line) (elem : Nat) : DWord :=
  cg (v.extractLsb' 0 64) (laneBits (laneOf v 2) 0 16) (laneBits (laneOf v 2) 16 16) elem

/-- `vrng`: R294. -/
def execVrng (d a b : BitVec 6) (x : Option VExt) (s : State) : Res :=
  let e := vext x 0
  let va := s.rv a
  let vb := s.rv b
  s.move e 4 d fun i =>
    let r := cgOf vb (laneOf va i).toNat
    if e.bit 21 then r.extractLsb' 32 32 else r.extractLsb' 0 32

/-- Lane i of `vdrop` is kept (R95, R294). -/
def dropKeeps (vb : Line) (i : Nat) : Bool :=
  keeps (vb.extractLsb' 0 64) (laneBits (laneOf vb 2) 0 16) (laneBits (laneOf vb 2) 16 16)
    (((laneOf vb 4).toNat + i) % 2 ^ 32) (laneBits (laneOf vb 3) 0 24)

/-- `vdrop`: R294. -/
def execVdrop (d a b : BitVec 6) (x : Option VExt) (s : State) : Res :=
  let e := vext x 0xD
  let va := s.rv a
  let vb := s.rv b
  let q := s.active e
  .next (s.need (laneBits (laneOf vb 3) 24 8 = 0)
    (let s := s.lanewise e 5 d fun i => if dropKeeps vb i then f32Mul e.rm.toNat (laneOf va i) (laneOf vb 5) else (0, 0)
     if e.bit 21 then s.putQ (BitVec.ofNat 3 (e.bits 18 3)) (predOf fun i => q.getLsbD i && dropKeeps vb i) 0 5 else s))

/-! ### Expert routing -/

/-- The n lanes of greatest key, in descending order, ties to the lower lane (R295). -/
def topLanes (key : Nat → Int) : Nat → List Nat → List Nat
  | 0, _ => []
  | n + 1, ls => match maxLane key ls with
    | none => []
    | some i => i :: topLanes key n (ls.filter (· != i))

/-- `vtopk`: R295. -/
def execVtopk (d a b : BitVec 6) (x : Option VExt) (s : State) : Res :=
  let e := vext x 0xD
  let va := s.rv a
  let vb := s.rv b
  let q := s.active e
  let k := e.bits 16 5 + 1
  let key := fun i => (f32Add 0 (laneOf va i) (laneOf vb i)).1
  let ls := (List.range 64).filter fun i => q.getLsbD i && !isNan (key i)
  let top := topLanes (fun i => if isZero (key i) then 0 else f32Key (key i)) k ls
  let out := (List.range 64).map fun j =>
    if j < k then BitVec.ofNat 32 (top.getD j 0xFFFF_FFFF)
    else if 32 ≤ j ∧ j < 32 + k then (match top[j - 32]? with | some i => laneOf va i | none => defaultNan)
    else 0
  let s := s.putLanes d out 0 6
  .next (if e.bit 21 ∧ top ≠ [] then s.after 4 (.counts top) else s)

/-! ### Log-sum-exp -/

/-- `rne(x - y)` and then `exp2_rne`, with the flags of both (R296). -/
def expDiff (x y : Word) : Word × Flags :=
  let (d, f) := f32Sub 0 x y
  let (r, g) := f32Exp2 0 d
  (r, f ||| g)

/-- `scaled` (R296). -/
def lseScaled (v m m2 : Word) : Partial × Flags :=
  if m = infOf true then (⟨0, false, false⟩, 0)
  else
    let (t, f) := expDiff m m2
    let (r, g) := f32Mul 0 v t
    (leafOf r, f ||| g)

/-- The greatest of some FP32 values, or minus infinity where there is none (R296). -/
def maxOf (ws : List Word) : Word := ws.foldl (fun m w => (f32MaxMin true m w).1) (infOf true)

/-- `lse_acc` (R296): the state, and the active inputs by lane. -/
def lseAcc (m v : Word) (xs : List (Option Word)) : Word × Word × Flags :=
  match nanPick (m :: v :: xs.filterMap id) with
  | some (n, f) => (n, n, f)
  | none =>
    let m2 := maxOf (m :: xs.filterMap id)
    if m2 = infOf false then (m2, m2, 0)
    else if m2 = infOf true then (m2, v, 0)
    else
      let ts := xs.map fun x => x.bind fun w => if w = infOf true then none else some (expDiff w m2)
      let (t, f) := treeSum false (ts.map fun x => x.map fun p => leafOf p.1)
      let (c, g) := lseScaled v m m2
      let (r, h) := combineOpt false (some c) t
      (m2, (r.getD ⟨0, false, false⟩).v, f ||| g ||| h ||| orFlags (ts.filterMap fun x => x.map (·.2)))

/-- `lse_mrg` (R296). -/
def lseMrg (mA sA mB sB : Word) : Word × Word × Flags :=
  match nanPick [mA, sA, mB, sB] with
  | some (n, f) => (n, n, f)
  | none =>
    let m2 := maxOf [mA, mB]
    if m2 = infOf false then (m2, m2, 0)
    else if m2 = infOf true then (m2, 0, 0)
    else
      let (a, f) := lseScaled sA mA m2
      let (b, g) := lseScaled sB mB m2
      let (r, h) := combineF a b
      (m2, r.v, f ||| g ||| h)

/-- `vlse`: R296. -/
def execVlse (d a b : BitVec 6) (x : Option VExt) (s : State) : Res :=
  let e := vext x 0xD
  let va := s.rv a
  let vb := s.rv b
  let q := s.active e
  let (m, v, f) :=
    if e.bit 21 then lseMrg (laneOf va 0) (laneOf va 1) (laneOf vb 0) (laneOf vb 1)
    else lseAcc (laneOf vb 0) (laneOf vb 1) ((List.range 64).map fun i => if q.getLsbD i then some (laneOf va i) else none)
  .next (s.putLanes d [m, v] f 12)

end Sys2Proof.Machine
end

