-- ==== Sys2Proof/Machine/VectorMem.lean ====
section
/-!
DEFINITION. Vector loads, stores, gathers, scatters and the operand-FIFO moves (R290 to R293, R297).
-/

namespace Sys2Proof.Machine

/-! ### Footprints -/

/-- What a checked footprint is: its object, its first offset, which may lie below 0 where no active lane's bytes do, the place of its start
in the page that holds it, the format and geometry that decide it, elements and bytes of the unit that holds a lane's element, and its
length (R290). -/
structure Footprint where
  obj : Nat
  o : Int
  po : Nat
  fmt : Nat
  geom : Nat
  elems : Nat
  bytes : Nat
  len : Nat

/-- The active lanes in ascending order (R272). -/
def lanesIn (q : DWord) : List Nat := (List.range 64).filter fun i => q.getLsbD i

/-- The bytes that element j of a unit of e elements and b bytes governs, as runs in the unit: of a BFP block its exponent byte and the
bytes of its mantissa, else the whole unit (R74, R290). -/
def elemRuns (bfp : Bool) (e b j : Nat) : List (Nat × Nat) :=
  if bfp then let w := (b - 1) * 8 / e; [(0, 1), (1 + j * w / 8, (j * w + w - 1) / 8 - j * w / 8 + 1)] else [(0, b)]

/-- The subcode of the lowest active lane whose bytes fail the capability check (R290). -/
def laneCheck (c : Cap) (node : Nat) (disp : Int) (need : Nat) (bfp : Bool) (e b : Nat) (ls : List Nat) : Option Nat :=
  ls.findSome? fun i => (elemRuns bfp e b (i % e)).findSome? fun r =>
    match capCheck c node (disp + (i / e * b + r.1 : Nat)) r.2 need false false with
    | .error x => some x
    | .ok _ => none

/-- The pinned page of an offset that may lie below 0, where nothing is (R32). -/
def State.pinInt (s : State) (obj : Nat) (o : Int) : Option PageAt := if o < 0 then none else s.pin s.cur.k obj o.toNat

/-- The page that decides a footprint's format, with the place of the footprint's start in the page that holds it: the page of the
start, or where that one is not pinned the first pinned page of its 256 bytes (R32; log entry 14). -/
def State.formatPage (s : State) (obj : Nat) (o : Int) : Option (PageAt × Nat) :=
  (List.range 256).findSome? fun (j : Nat) => (s.pinInt obj (o + j)).map fun p => (p, (p.po + 65536 - j) % 65536)

/-- A footprint with its checks: the capability for each active lane, the operand checks `ok` of the page's format, the pin table, and
format alignment of the whole footprint, its inactive lanes too (R74, R290; log entries 14 and 124). An access without an active lane performs nothing (R291). -/
def State.footprint (s : State) (c : Cap) (i : BitVec 8) (x : VExt) (need : Nat) (ok : Nat → Bool) (f : Footprint → State) : State :=
  let disp : Int := i.toInt * 256
  let o : Int := c.cursor + disp
  let p := s.formatPage c.obj o
  let fmt := (p.map (·.1.fmt)).getD 0
  let geom := (p.map (·.1.geom)).getD 0
  let (e, b) := if x.t = 0 ∨ fmt = 0 then (1, 4) else fmtUnit fmt geom
  let bfp := isBfp fmt && !(e == 1)
  let ls := lanesIn (s.active x)
  match laneCheck c s.nodeId disp need bfp e b ls, p with
  | some x, _ => s.capViolation x
  | none, none => if ls = [] then s else s.capViolation 8
  | none, some (_, po) =>
    let len := 64 / e * b
    s.need (ok fmt = true) (if ls = [] then s
      else if spanCheck fmt geom po len ≠ 0 then s.formatTrap (spanCheck fmt geom po len)
      else f ⟨c.obj, o, po, fmt, geom, e, b, len⟩)

/-- The positions of the footprint that the active lanes' bytes take (R290). -/
def Footprint.touched (f : Footprint) (q : DWord) (pos : Nat) : Bool :=
  (List.range f.elems).any fun j => q.getLsbD (pos / f.bytes * f.elems + j) &&
    (elemRuns (isBfp f.fmt && !(f.elems == 1)) f.elems f.bytes j).any fun r => decide (r.1 ≤ pos % f.bytes) && decide (pos % f.bytes < r.1 + r.2)

/-- A line of a footprint: its index, its segment, the position of its first byte, and the positions of active bytes in it. -/
structure FootLine where
  idx : Nat
  seg : Seg
  pos : Nat
  act : List Nat

/-- A line of a footprint of n bytes from a position on, where active lanes touch it (R291); the page of the bytes that they touch has to be
pinned (R32). -/
def State.footLine (s : State) (f : Footprint) (q : DWord) (idx pos n : Nat) : Option (List FootLine) :=
  let act := (List.range n).filterMap fun i => if f.touched q (pos + i) then some (pos + i) else none
  match act with
  | [] => some []
  | j :: _ => (s.pinInt f.obj (f.o + j)).map fun p => [⟨idx, ⟨{ p with po := p.po + pos - j }, n⟩, pos, act⟩]

/-- The lines that the active lanes touch (R291); none where one is not pinned (R32). -/
def State.footLines (s : State) (f : Footprint) (q : DWord) : Option (List FootLine) :=
  let n := min f.len (256 - f.po % 256)
  match s.footLine f q 0 0 n, s.footLine f q 1 n (f.len - n) with
  | some a, some b => some (a ++ b)
  | _, _ => none

/-- Offsets in its line of a list of positions of the footprint. -/
def FootLine.offs (l : FootLine) : List Nat := l.act.map fun i => l.seg.addr % 256 + (i - l.pos)

/-- The lines of a footprint, or a capability violation with subcode 0x8; a line of the stack needs a lag of zero (R32, R174). -/
def State.withLines (s : State) (f : Footprint) (q : DWord) (g : List FootLine → State) : State :=
  match s.footLines f q with
  | none => s.capViolation 8
  | some ls => if s.here.run.lag ≠ 0 ∧ ls.any (·.seg.page.bank.isNone) then s.scheduleMiss 7 else g ls

/-- The line accesses of a footprint: line 1 one cycle after line 0, whether or not line 0 is accessed (R291). -/
def State.footParts (s : State) (ls : List FootLine) (op : FootLine → TOp) : List TPart :=
  ls.zipIdx.map fun (l, i) => s.path (s.nextId + i) l.idx l.seg l.offs (op l)

/-! ### Loads and stores -/

/-- `vld`: R290, R291. -/
def execVld (d : BitVec 6) (c : BitVec 4) (i : BitVec 8) (x : Option VExt) (s : State) : Res :=
  let e := vext x 0
  let q := s.active e
  .next (s.need (e.bit 21 = false) (s.footprint (s.rc c) i e Right.read (fun _ => true) fun f => s.withLines f q fun ls =>
    s.sendParts (.vload d e.t.toNat f.fmt f.geom e.rm.toNat q ((ls.head?.map (·.pos)).getD 0)) (s.footParts ls fun _ => .read)))

/-- An access converts: neither side raw and the formats differ (R290). -/
def converts (t fmt : Nat) : Bool := t != 0 && fmt != 0 && t != fmt

/-- The bytes of a stored footprint, the flags of its encoding, and the state with the named unit updated (R290). Inactive lanes are
not encoded. -/
def State.stored (s : State) (d : BitVec 6) (e : VExt) (f : Footprint) (q : DWord) : List Byte × Flags × State :=
  let ws := lanesOf (s.rv d)
  if converts e.t.toNat f.fmt then
    s.encode f.fmt f.geom e.rm.toNat (64 / f.elems)
      (ws.zipIdx.map fun (w, i) => if q.getLsbD i then decElem e.t.toNat w.toNat else .fin false 0 0)
      (if e.bit 21 ∧ isBfp f.fmt then some (e.bits 18 3) else none)
  else (bytesOf (s.rv d), 0, s)

/-- The flags of a store, set in the array cycle of its last line (R85, log entry 15). -/
def State.storeFlags (s : State) (ps : List TPart) (f : Flags) : State :=
  if f = 0 then s else s.after ((ps.map (·.arr)).foldl max s.cyc - s.cyc) (.flags f)

/-- A page's format takes a store with these fields: RM is 00 for BFP, H8 and H6, and QE is 0 for BFP and H6 (R290). -/
def storable (x : VExt) (fmt : Nat) : Bool :=
  (!(isBfp fmt || fmt == 8 || fmt == 9) || x.rm == 0) && (!(isBfp fmt || fmt == 9) || x.qe == 0)

/-- `vst`: R290, R291; the data are fixed at issue (R102). -/
def execVst (d : BitVec 6) (c : BitVec 4) (i : BitVec 8) (x : Option VExt) (s : State) : Res :=
  let e := vext x 0
  let q := s.active e
  .next (s.footprint (s.rc c) i e Right.write (storable e) fun f =>
    s.withLines f q fun ls =>
      let (bs, fl, s) := s.stored d e f q
      let ps := s.footParts ls fun l => .write (l.act.map fun i => (l.seg.addr % 256 + (i - l.pos), bs.getD i 0)) none
      (s.sendParts .none ps).storeFlags ps fl)

/-! ### Gathers and scatters -/

/-- A lane of a gather or scatter with its page (R292). -/
structure LaneAt where
  lane : Nat
  o : Nat
  page : PageAt

/-- The line of a lane. -/
def LaneAt.line (l : LaneAt) : Nat := (Seg.mk l.page 4).line

/-- The offset of a lane's bytes in their line. -/
def LaneAt.off (l : LaneAt) : Nat := (Seg.mk l.page 4).addr % 256

/-- The offsets of the active lanes, or the subcode of the lowest failing lane (R292). -/
def gatherOffs (c : Cap) (node : Nat) (disp : Int) (need : Nat) (v : Line) : List Nat → Except Nat (List (Nat × Nat))
  | [] => .ok []
  | i :: r => match capCheck c node (disp + ((laneOf v i).toNat : Int)) 4 need false false with
    | .error x => .error x
    | .ok o => match gatherOffs c node disp need v r with
      | .error x => .error x
      | .ok l => .ok ((i, o) :: l)

/-- The lanes of a gather or scatter with its checks: capability, pin table, then the operand checks (R292). -/
def State.laneAccess (s : State) (c : Cap) (i : BitVec 8) (x : VExt) (need : Nat) (f : List LaneAt → State) : State :=
  match gatherOffs c s.nodeId (i.toInt * 256) need (s.rv (BitVec.ofNat 6 (x.bits 16 6))) (lanesIn (s.active x)) with
  | .error x => s.capViolation x
  | .ok os =>
    let ls := os.filterMap fun (i, o) => (s.pin s.cur.k c.obj o).map fun p => (⟨i, o, p⟩ : LaneAt)
    if ls.length ≠ os.length then s.capViolation 8
    else
      let bank := (ls.head?.bind fun l => l.page.bank)
      s.need (ls.all (fun l => l.o % 4 == 0 && [0, 0xD, 0xE].contains l.page.fmt && l.page.bank.isSome && l.page.bank == bank) = true) (f ls)

/-- The distinct lines in ascending order of the lowest lane touching each (R293). -/
def gatherLines : List LaneAt → List Nat → List Nat
  | [], seen => seen
  | l :: r, seen => gatherLines r (if seen.contains l.line then seen else seen ++ [l.line])

/-- One line access for each distinct line, line k one cycle after line k - 1 (R293). -/
def State.gatherParts (s : State) (ls : List LaneAt) (op : List LaneAt → TOp) : List TPart :=
  (gatherLines ls []).zipIdx.filterMap fun (a, k) =>
    let on := ls.filter (·.line == a)
    on.head?.map fun l =>
      { s.path (s.nextId + k) k ⟨l.page, 4⟩ (on.flatMap fun l => (List.range 4).map (l.off + ·)).eraseDups (op on) with lo := 0, len := 256 }

/-- A 4-byte element moved between two of raw, FP32 and INT32: bits are moved where a side is raw or both are the same (R84, R292). -/
def convert4 (src dst rm : Nat) (w : Word) : Word × Flags :=
  if converts src dst then wordRes (convertElem src dst rm w.toNat) else (w, 0)

/-- `vgat`: R292, R293; vD is written at n + 66 + 2h. -/
def execVgat (d : BitVec 6) (c : BitVec 4) (i : BitVec 8) (x : VExt) (s : State) : Res :=
  .next (s.laneAccess (s.rc c) i x Right.read fun ls =>
    let ps := s.gatherParts ls fun _ => .read
    let lines := gatherLines ls []
    if ls = [] then s
    else s.sendParts (.gather d x.t.toNat x.rm.toNat
      (ls.map fun l => (l.lane, l.page.fmt, (lines.idxOf l.line) * 256 + l.off)) (s.now + 66 + 2 * ((ps.head?.map (·.hop)).getD 0))) ps)

/-- The bytes that the lanes on one line store; those of the highest lane remain (R293). -/
def scatterBytes (bs : List (Nat × Byte)) (l : List (Nat × Byte)) : List (Nat × Byte) :=
  (l.filter fun a => !bs.any (·.1 == a.1)) ++ bs

/-- `vsct`: R292, R293. -/
def execVsct (d : BitVec 6) (c : BitVec 4) (i : BitVec 8) (x : VExt) (s : State) : Res :=
  let v := s.rv d
  let word := fun (l : LaneAt) => convert4 x.t.toNat l.page.fmt x.rm.toNat (laneOf v l.lane)
  .next (s.laneAccess (s.rc c) i x Right.write fun ls =>
    let ps := s.gatherParts ls fun on => .write (on.foldl (fun acc l =>
      scatterBytes ((leBytes 4 (word l).1.toNat).zipIdx.map fun (b, j) => (l.off + j, b)) acc) []) none
    if ls = [] then s
    else (s.sendParts .none ps).storeFlags ps (orFlags (ls.map fun l => (word l).2)))

/-! ### Operand FIFOs -/

/-- FIFO A or B. -/
def Station.fifo (t : Station) (b : Bool) : Fifo := if b then t.mat.fb else t.mat.fa

/-- FIFO A or B replaced. -/
def Station.setFifo (t : Station) (b : Bool) (f : Fifo) : Station :=
  { t with mat := if b then { t.mat with fb := f } else { t.mat with fa := f } }

/-- Lines that a FIFO holds at most (R131). -/
def fifoSize (b : Bool) : Nat := if b then 256 else 128

/-- A FIFO has no room (R131). -/
def Station.fifoFull (t : Station) (b : Bool) : Bool := decide (fifoSize b ≤ (t.fifo b).lines.length)

/-- A line appended to a FIFO at its next position (R131). -/
def Fifo.append (f : Fifo) (l : FifoLine) : Fifo := { f with lines := f.lines ++ [l], pos := f.pos + 1 }

/-- A line without a map tag (R309). -/
def FifoLine.plain (d : Line) (poison : Bool) : FifoLine := ⟨d, ⟨0, 0, 0⟩, poison⟩

/-- An untimed copy command to a FIFO is outstanding (R126, R131). -/
def Station.untimedFill (t : Station) (b : Bool) : Bool :=
  t.ch.any fun c => c.cmds.any fun m => !m.timed && m.dkind == (if b then 2 else 1)

/-- `vpush`: R297; the line is appended at n + 1. -/
def execVpush (a : BitVec 6) (x : Option VExt) (s : State) : Res :=
  let b := (vext x 0).bit 21
  .next (s.need (s.here.untimedFill b = false)
    (if s.here.fifoFull b then s.scheduleMiss 2 else s.after 1 (.push b (s.rv a))))

/-- `vpop`: R297; the line is removed at n + 1 and written at n + 2. -/
def execVpop (d : BitVec 6) (x : Option VExt) (s : State) : Res :=
  let b := (vext x 0).bit 21
  .next (if (s.here.fifo b).lines = [] then s.scheduleMiss 2 else s.after 1 (.pop b d))

end Sys2Proof.Machine
end

