-- ==== Sys2Proof/Machine/Copy.lean ====
section
/-!
DEFINITION. The copy channels at issue: descriptors, the checks of R126, acceptance, the write pointer, abandonment, and the copy
instructions (R122 to R140, R324 to R333).
-/

namespace Sys2Proof.Machine

/-! ### Channels -/

/-- A copy channel of a station. -/
def Station.chan (t : Station) (i : Nat) : Channel := t.ch[i % 2]'(Nat.mod_lt _ (by decide))

/-- A copy channel changed. -/
def Station.onChan (t : Station) (i : Nat) (f : Channel → Channel) : Station :=
  { t with ch := t.ch.set (i % 2) (f (t.chan i)) (Nat.mod_lt _ (by decide)) }

/-- A copy channel of station k. -/
def State.chan (s : State) (k : Stn) (i : Nat) : Channel := (s.stn k).chan i

/-- A copy channel of station k changed. -/
def State.onChan (s : State) (k : Stn) (i : Nat) (f : Channel → Channel) : State := s.onStn k fun t => t.onChan i f

/-- The channel whose stream issues (R165). -/
def chanOf (e : Engine) : Nat := if e = .copy1 then 1 else 0

/-- The range [a, a + n) put into a list of disjoint ranges, joined with those that it touches. -/
def addRange (l : List (Nat × Nat)) (a n : Nat) : List (Nat × Nat) :=
  let (hit, rest) := l.partition fun (b, m) => decide (b ≤ a + n) && decide (a ≤ b + m)
  let lo := hit.foldl (fun x r => min x r.1) a
  let hi := hit.foldl (fun x r => max x (r.1 + r.2)) (a + n)
  (lo, hi - lo) :: rest

/-- Completed commands leave the channel in order, raising their semaphores, and WP rises over the performed prefix (R129); it never
falls behind the end of an abandoned command (R130, log entry 127). -/
def Channel.advance (c : Channel) : Nat → Channel × List CopyCmd
  | 0 => (c, [])
  | f + 1 => match c.cmds with
    | [] => (c, [])
    | m :: r =>
      let p := min m.len m.prefixLen
      let c := { c with wp := BitVec.ofNat 64 (max c.wp.toNat (m.start + p)) }
      if p < m.len then (c, [])
      else
        let (c, l) := Channel.advance { c with cmds := r, pieces := c.pieces.filter (·.cmd != m.id) } f
        (c, m :: l)

/-- A record of a copy channel's command: accepted, completed or abandoned (R400). -/
def State.copyRecord (s : State) (k : Stn) (i sub : Nat) (m : CopyCmd) : State := s.evenRecord k 2 sub (4 + i) m.pc m.start m.len

/-- The semaphore of a command that completes is raised (R129, R130). -/
def State.endCopy (s : State) (k : Stn) (m : CopyCmd) : State :=
  match m.rsem with
  | some n => s.onStn k fun t => t.raise n
  | none => s

/-- A piece that still stands in the channel's queues, with the choice whether it has left them (R130, R140). -/
def UPiece.leave (u : UPiece) (g : Bool) : UPiece :=
  { u with gone := u.gone || u.st == .reading || u.st == .writing || 0 < u.sent || g }

/-- The pieces of an operation when its command parks or is abandoned; a free choice says which have left the queues. -/
def leaveAll (x : Nat) (l : List UPiece) : List UPiece :=
  l.zipIdx.map fun (u, i) => if u.st = .done then u else u.leave (x.testBit i)

/-- An operation whose command is abandoned: parts not yet sent are discarded, and lines for a FIFO are not appended (R130). -/
def UOp.kill (u : UOp) (x : Nat) : UOp :=
  { u with
    dead := true, parked := false
    pieces := (leaveAll x u.pieces).map fun p => if p.gone && (u.dst.isSome || p.st == .reading) then p else { p with st := .done } }

/-- Every piece of an operation has ended. -/
def UOp.ended (u : UOp) : Bool := u.pieces.all fun p => p.st == .done

/-- An operation that nothing waits for once its pieces have ended. -/
def UOp.plain (u : UOp) : Bool :=
  u.dead || match u.owner with
    | .copy .. => true
    | .atom _ none => true
    | .flag => true
    | _ => false

/-- An operation's copy command stands in its channel: its destination is pending until WP has passed it (R61). -/
def State.stillPending (s : State) (u : UOp) : Bool :=
  match u.owner with
  | .copy i id => !u.dead && (s.chan u.k i).cmds.any (·.id == id)
  | _ => false

/-- Finished operations leave the queues. -/
def State.reap (s : State) : State := { s with uops := s.uops.filter fun u => !(u.plain && u.ended) || s.stillPending u }

/-- WP advances, and the commands that complete raise their semaphores and leave (R129). -/
def State.advanceWp (s : State) (k : Stn) (i : Nat) : State :=
  let (c, l) := (s.chan k i).advance 17
  (l.foldl (fun s m => (s.endCopy k m).copyRecord k i 1 m) (s.onChan k i fun _ => c)).reap

/-- A command of a channel changed. -/
def Channel.onCmd (c : Channel) (id : Nat) (f : CopyCmd → CopyCmd) : Channel :=
  { c with cmds := c.cmds.map fun m => if m.id = id then f m else m }

/-- Destination bytes of a command have been performed (R129). -/
def State.performed (s : State) (k : Stn) (i id pos n : Nat) : State :=
  (s.onChan k i fun c => c.onCmd id fun m => { m with done := addRange m.done pos n }).advanceWp k i

/-- The nominal cycle of the last source read of the commands accepted so far, as they stand (R127). -/
def Channel.planned (c : Channel) : Nat :=
  c.cmds.foldl (fun l m => if m.timed && decide (m.nextPiece < m.nPieces) then max l (m.firstNom + m.nPieces - 1) else l) c.lastRead

/-- The first source reads of commands that have read nothing yet, one cycle after the last read before them (R127). -/
def replanned : Nat → List CopyCmd → List CopyCmd
  | _, [] => []
  | l, m :: r =>
    if m.timed = false ∨ m.nextPiece = m.nPieces then m :: replanned l r
    else
      let m := if m.nextPiece = 0 then { m with firstNom := max m.issueNom l + 1 } else m
      m :: replanned (m.firstNom + m.nPieces - 1) r

/-- A command parked on a memory fault (R140). -/
def State.parkedCmd (s : State) (k : Stn) (i id : Nat) : Bool :=
  s.uops.any fun u => u.k == k && u.owner == .copy i id && u.parked

/-- A command is abandoned: it performs no further pieces, WP rises at once to its end, it counts as complete, and a channel that was
parked on it is parked no longer (R130, R140). -/
def State.abandon (s : State) (k : Stn) (i id cause code : Nat) : State :=
  match (s.chan k i).cmds.find? (·.id == id) with
  | none => s
  | some m =>
    let (x, s) := s.draw
    let parked := s.parkedCmd k i id
    let s := (s.copyRecord k i 2 m).endCopy k m
    let s := { s with uops := s.uops.map fun (u : UOp) => if u.k = k ∧ u.owner = Owner.copy i id then u.kill x else u }
    let s := s.onChan k i fun c =>
      { c with
        wp := BitVec.ofNat 64 (max c.wp.toNat (m.start + m.len))
        cmds := replanned c.lastRead (c.cmds.filter (·.id != id)), pieces := c.pieces.filter (·.cmd != id)
        cstat := putBits (putBits c.cstat 63 60 cause) 59 56 code
        cfst := if parked then putBit c.cfst 63 false else c.cfst }
    s.advanceWp k i

/-- DRN of a channel: a part that an abandoned command had sent is still under way (R130). -/
def State.draining (s : State) (k : Stn) (i : Nat) : Bool :=
  s.uops.any fun u => u.k == k && u.dead && match u.owner with
    | .copy j _ => j == i
    | _ => false

/-! ### Descriptors -/

/-- A signed field of w bits. -/
def sint (w v : Nat) : Int := if 2 ^ (w - 1) ≤ v then (v : Int) - 2 ^ w else v

/-- n bytes of a descriptor through the command path: its bank offset is task-level (R123, R324, R340). -/
def State.descNat (s : State) (k : Stn) (off n : Nat) : Nat :=
  leNat ((List.range n).map fun i => s.byteAt (bankKey k.val (s.remap k .task (off + i))))

/-- A copy descriptor (R123, R124). -/
structure CopyDesc where
  h : Nat
  dims : List (Nat × Int × Int)

/-- The descriptor at a bank offset. -/
def State.copyDesc (s : State) (k : Stn) (off : Nat) : CopyDesc :=
  let h := s.descNat k off 32
  ⟨h, (List.range (nbits h 55 52 + 1)).map fun i =>
    let e := s.descNat k (off + 32 + 16 * i) 16
    (nbits e 127 104, sint 52 (nbits e 103 52), sint 52 (nbits e 51 0))⟩

def CopyDesc.dkind (d : CopyDesc) : Nat := nbits d.h 51 50
def CopyDesc.op (d : CopyDesc) : Nat := nbits d.h 49 48
def CopyDesc.awe (d : CopyDesc) : Bool := nbits d.h 36 36 == 1
def CopyDesc.asem (d : CopyDesc) : Nat := nbits d.h 35 30

/-- Check 2 of R126, but for the window of `cpyw`: fields, strides, and DKIND and OP against the opcode (R325, R326, R327). -/
def CopyDesc.fieldsOk (d : CopyDesc) (opc : Nat) (tagged : Bool) : Bool :=
  nbits d.h 255 176 == 0 && nbits d.h 127 112 == 0 && nbits d.h 29 0 == 0 && (opc != 3 || nbits d.h 107 85 == 0 && nbits d.h 63 60 == 0) &&
    d.dims.all (fun (c, _, ds) => c != 0 && (d.dkind == 0 || ds == 0)) &&
    (match d.dims with | (_, ss, ds) :: _ => ss == 0 && ds == 0 | [] => true) &&
    d.dkind != 3 && (d.dkind == 0 || nbits d.h 59 56 == 0) &&
    (match opc with
      | 0 => d.dkind == 0 && d.op == 0
      | 1 => (d.dkind == 1 || d.dkind == 2) && d.op == 0
      | 4 => d.dkind == 0 && d.op == 1
      | _ => d.op == 0) &&
    (!tagged || d.dkind == 2)

/-- Where a side of a copy lies: an operand FIFO, an object of a node, or a segment in the slack window. -/
inductive Side where
  | fifo
  | mem (node obj : Nat)
  | seg (line : Nat) (frame : Int)
  deriving DecidableEq, Repr

/-- What a side shows at an offset: format, geometry, page offset and the bytes left in the page. -/
structure View where
  fmt : Nat
  geom : Nat
  po : Nat
  left : Nat

/-- The page of an object of the issuing node through the pin table, or through the walker; a page at a peer counts as raw, and so
does one that the walker does not return (R125, R126). -/
def State.view (s : State) (k : Stn) (pinned : Bool) (side : Side) (o : Int) : View :=
  match side with
  | .fifo => ⟨0, 0, 0, 2 ^ 64⟩
  | .seg l g =>
    let h := s.header l g
    ⟨if hdrFmt h = 15 then 0 else hdrFmt h, if hdrGeom h = 3 then 0 else hdrGeom h, 0, 2 ^ 64⟩
  | .mem node obj =>
    let raw := fun (t : Nat) => (⟨0, 0, t % 65536, 65536 - t % 65536⟩ : View)
    if node ≠ s.nodeId ∨ o < 0 then raw o.toNat
    else match (if pinned then s.pin k obj o.toNat else none) with
      | some p => ⟨p.fmt, p.geom, p.po, 65536 - p.po⟩
      | none =>
        let p := s.partOf k
        let t := o.toNat + descBase (s.descriptor p obj)
        match s.look p obj o.toNat 1 with
        | .at_ (.peer ..) _ _ => raw t
        | .at_ _ e _ => ⟨leafFmt e, leafGeom e, t % 65536, 65536 - t % 65536⟩
        | _ => raw t

/-- Elements and bytes of a unit on a side, or one byte. -/
def unitOf (conv : Bool) (v : View) : Nat × Nat := if conv then fmtUnit v.fmt v.geom else (1, 1)

/-- Bytes of a run of n units on a side. -/
def runBytes (conv : Bool) (v : View) (n : Nat) : Nat :=
  let (e, b) := unitOf conv v
  (n + e - 1) / e * b

/-- A run of a copy: its first offsets, the pages there, and the bytes that it takes on each side. A run lies in one page of a format
that has a geometry (R74). -/
structure RunAt where
  sa : Int
  da : Int
  sv : View
  dv : View
  sn : Nat
  dn : Nat

/-- A copy as its pages at issue describe it: its sides, its runs of `count` units, and whether its units are elements that are
converted (R125). -/
structure CopyPlan where
  src : Side
  dst : Side
  runs : List RunAt
  count : Nat
  convert : Bool

/-- The first run of a copy. -/
def CopyPlan.run0 (p : CopyPlan) : RunAt := p.runs.headD ⟨0, 0, ⟨0, 0, 0, 0⟩, ⟨0, 0, 0, 0⟩, 0, 0⟩
def CopyPlan.sv (p : CopyPlan) : View := p.run0.sv
def CopyPlan.dv (p : CopyPlan) : View := p.run0.dv
def CopyPlan.dn (p : CopyPlan) : Nat := p.run0.dn

/-- Destination bytes of a copy. -/
def CopyPlan.total (p : CopyPlan) : Nat := (p.runs.map (·.dn)).sum

/-- A pair of pages converts (R125). -/
def pairConverts (fifo : Bool) (a b : View) : Bool := !fifo && a.fmt != 0 && b.fmt != 0 && a.fmt != b.fmt

/-- The start offsets of the runs, outermost dimension first (R125). -/
def runStarts : List (Nat × Int × Int) → Int → Int → List (Int × Int)
  | [], sa, da => [(sa, da)]
  | (n, ss, ds) :: r, sa, da => (List.range n).flatMap fun (i : Nat) => runStarts r (sa + (i : Int) * ss) (da + (i : Int) * ds)

/-- A copy of runs of n units from given offsets; the pages at its first bytes give the unit. -/
def State.planOf (s : State) (k : Stn) (pinned : Bool) (src dst : Side) (n : Nat) (l : List (Int × Int)) : CopyPlan :=
  let (sa, da) := l.headD (0, 0)
  let conv := pairConverts (dst == .fifo) (s.view k pinned src sa) (s.view k pinned dst da)
  ⟨src, dst, l.map fun (sa, da) =>
    let sv := s.view k pinned src sa
    let dv := s.view k pinned dst da
    ⟨sa, da, sv, dv, runBytes conv sv n, runBytes conv dv n⟩, n, conv⟩

/-- The plan of a copy. -/
def State.copyPlan (s : State) (k : Stn) (pinned : Bool) (src dst : Side) (d : CopyDesc) (sa da : Int) : CopyPlan :=
  s.planOf k pinned src dst (d.dims.headD (1, 0, 0)).1 (runStarts (d.dims.drop 1).reverse sa da)

/-- Lowest offset of a list of runs, and the highest end. -/
def extent (l : List (Int × Nat)) : Int × Int :=
  let (a, n) := l.headD (0, 0)
  (l.foldl (fun x r => min x r.1) a, l.foldl (fun x r => max x (r.1 + r.2)) (a + n))

def CopyPlan.srcExtent (p : CopyPlan) : Int × Int := extent (p.runs.map fun r => (r.sa, r.sn))
def CopyPlan.dstExtent (p : CopyPlan) : Int × Int := extent (p.runs.map fun r => (r.da, r.dn))

/-! ### Checks -/

/-- A footprint's capability check (R18, R126). -/
def extentCheck (c : Cap) (node need : Nat) (e : Int × Int) (remoteOk : Bool) : Option Nat :=
  match capCheck c node (e.1 - c.cursor) (e.2 - e.1).toNat need remoteOk false with
  | .error x => some x
  | .ok _ => none

/-- The format-alignment subcode of n bytes of a side from an offset on, page by page (R74, R80, R93). -/
def State.sideSpan (s : State) (k : Stn) (pinned : Bool) (side : Side) : Nat → Int → Nat → Nat
  | 0, _, _ => 0
  | f + 1, o, n =>
    if n = 0 then 0
    else
      let v := s.view k pinned side o
      let m := min n v.left
      max (spanCheck v.fmt v.geom v.po m) (s.sideSpan k pinned side f (o + m) (n - m))

/-- Pages that n bytes can touch, and one more. -/
def pageFuel (n : Nat) : Nat := n / 65536 + 2

/-- Check 4 of R126. A segment is checked only where its elements are decoded: its blocks count from byte 64 (R142). -/
def State.copySpan (s : State) (k : Stn) (pinned : Bool) (p : CopyPlan) : Nat :=
  let side := fun sd o n (v : View) => match sd with
    | .mem .. => s.sideSpan k pinned sd (pageFuel n) o n
    | .seg .. => if p.convert && (decide (o < 64) || (o - 64) % (unitOf p.convert v).2 != 0) then 1 else 0
    | .fifo => 0
  let one := fun (r : RunAt) =>
    max (if p.count % (unitOf p.convert r.sv).1 ≠ 0 ∨ p.count % (unitOf p.convert r.dv).1 ≠ 0 then 1 else 0)
      (max (side p.src r.sa r.sn r.sv) (side p.dst r.da r.dn r.dv))
  (p.runs.map one).foldl max 0

/-- The pairs of a source page and a destination page that exchange bytes in a run, from unit e on (R125). -/
def State.runPairs (s : State) (k : Stn) (pinned : Bool) (p : CopyPlan) (r : RunAt) : Nat → Nat → List (View × View)
  | 0, _ => []
  | f + 1, e =>
    if p.count ≤ e then []
    else
      let (es, bs) := unitOf p.convert r.sv
      let (ed, bd) := unitOf p.convert r.dv
      let a := s.view k pinned p.src (r.sa + (e / es * bs : Nat))
      let b := s.view k pinned p.dst (r.da + (e / ed * bd : Nat))
      (a, b) :: s.runPairs k pinned p r f (min (e / es * es + max 1 (a.left / bs) * es) (e / ed * ed + max 1 (b.left / bd) * ed))

/-- All pairs of a copy. -/
def State.copyPairs (s : State) (k : Stn) (pinned : Bool) (p : CopyPlan) : List (View × View) :=
  p.runs.flatMap fun r => s.runPairs k pinned p r (2 * (pageFuel r.sn + pageFuel r.dn)) 0

/-- The pairs of a copy agree: none converts, or all convert between the same two formats, whatever their geometries (R125). -/
def pairsAgree (l : List (View × View)) : Bool :=
  match l with
  | [] => true
  | (a, b) :: _ =>
    l.all (fun (x, y) => !pairConverts false x y) ||
      l.all fun (x, y) => pairConverts false x y && x.fmt == a.fmt && y.fmt == b.fmt

/-- Check 5 of R126; a page at a peer is judged by its holder. -/
def State.copyFormats (s : State) (k : Stn) (pinned add : Bool) (p : CopyPlan) : Bool :=
  let l := s.copyPairs k pinned p
  (p.dst == .fifo || pairsAgree l) && (!add || match p.dst with
    | .mem node obj => node != s.nodeId || p.runs.all (fun r =>
        (List.range (pageFuel r.dn)).all fun j =>
          let o := r.da + (min (j * 65536) (r.dn - 1) : Nat)
          let v := s.view k pinned p.dst o
          v.fmt == 0xD || v.fmt == 0xE ||
            (match s.look (s.partOf k) obj o.toNat 1 with
              | .at_ (.peer ..) _ _ => true
              | .at_ .. => false
              | _ => true))
    | _ => true)

/-- Check 7 of R126. -/
def CopyPlan.overlaps (p : CopyPlan) : Bool :=
  p.src != .fifo && p.src == p.dst && decide (p.srcExtent.1 < p.dstExtent.2) && decide (p.dstExtent.1 < p.srcExtent.2)

/-- Check 8 of R126. -/
def Station.fifoClash (t : Station) (i dkind : Nat) (timed : Bool) : Bool :=
  dkind != 0 &&
    (((t.chan (i + 1)).cmds.any fun m => m.dkind == dkind && !(timed && m.timed)) ||
      (t.chan i).cmds.any fun m => m.dkind == dkind && timed && !m.timed)

/-! ### Pieces -/

/-- The run of memory keys that a segment of a timed access takes. -/
def Seg.key (g : Seg) : Nat × Nat :=
  (match g.page.bank with
    | some j => bankKey j.val g.addr
    | none => stackKey g.addr, g.len)

/-- The common unit of a run: bytes on each side (R127). -/
def RunAt.step (r : RunAt) (conv : Bool) : Nat × Nat :=
  let (es, bs) := unitOf conv r.sv
  let (ed, bd) := unitOf conv r.dv
  let u := es * ed / Nat.gcd es ed
  (u / es * bs, u / ed * bd)

/-- The pieces of a run of a timed copy, or none where a page is not pinned (R122, R127). A piece ends at a line of either side; one
of a converting copy ends at the last whole unit before it, or holds one unit. -/
def State.runPieces (s : State) (k : Stn) (id : Nat) (u g : Nat × Nat) (sobj : Nat) (dobj : Option Nat) :
    Nat → Nat → Nat → Nat → Nat → Option (List Piece)
  | 0, _, _, _, _ => some []
  | f + 1, sa, da, left, pos =>
    if left = 0 then some []
    else match s.pin k sobj sa, dobj.map fun o => (o, s.pin k o da) with
      | none, _ => none
      | some _, some (_, none) => none
      | some a, b =>
        let room := match b with
          | some (_, some q) => 256 - q.po % 256
          | _ => 256 - pos % 256
        let n := max 1 (min (min ((256 - a.po % 256) / u.1) (room / u.2)) (left / u.2))
        match s.segments k sobj 4 sa (n * u.1), (match b with
          | some (o, _) => s.segments k o 4 da (n * u.2)
          | none => some []) with
        | some x, some y => (s.runPieces k id u g sobj dobj f (sa + n * u.1) (da + n * u.2) (left - n * u.2) (pos + n * u.2)).map
            (⟨id, 0, x.map Seg.key, y.map Seg.key, g, pos, n * u.2, none, none, 0, 0, false, y.length⟩ :: ·)
        | _, _ => none

/-- The pieces of all runs from a stream position on. -/
def State.timedPieces (s : State) (k : Stn) (id : Nat) (p : CopyPlan) (sobj : Nat) (dobj : Option Nat) :
    List RunAt → Nat → Option (List Piece)
  | [], _ => some []
  | a :: r, pos =>
    if a.sa < 0 ∨ a.da < 0 then none
    else match s.runPieces k id (a.step p.convert) (a.sv.geom, a.dv.geom) sobj dobj (a.dn + 1) a.sa.toNat a.da.toNat a.dn pos with
      | none => none
      | some l => (s.timedPieces k id p sobj dobj r (pos + a.dn)).map (l ++ ·)

/-- The pieces of a timed command, numbered; none where the command is untimed (R122). -/
def State.copyPieces (s : State) (k : Stn) (id op : Nat) (p : CopyPlan) : Option (List Piece) :=
  let own := fun (n : Nat) => decide (n = s.nodeId)
  let l := match p.src, p.dst with
    | .mem n o, .fifo => if own n ∧ op = 0 then s.timedPieces k id p o none p.runs 0 else none
    | .mem n o, .mem m q => if own n ∧ own m ∧ op = 0 then s.timedPieces k id p o (some q) p.runs 0 else none
    | _, _ => none
  l.map fun l => l.zipIdx.map fun (x, i) => { x with idx := i }

/-- Bytes from a destination offset on that one piece of an unconverted untimed copy may take: to the next 256-byte line where a side lies
at a peer, where a capability or a leaf entry places it (R41, R358); to the next line of 64 bytes of a relaxed host frame (R370); and
otherwise to the end of a 16-byte part (R100). -/
def State.cutOf (s : State) (part : Nat) (src dst : Side) (sa da : Nat) : Nat :=
  let kind := fun (x : Side) (o : Nat) => match x with
    | .mem n obj =>
      if n ≠ s.nodeId then 256
      else match s.look part obj o 1 with
        | .at_ (.peer ..) e _ => if leafOrd e then 16 else 256
        | .at_ (.host _) e _ => if leafOrd e then 16 else 64
        | _ => 16
    | _ => 16
  let base := match dst with
    | .mem n obj => if n ≠ s.nodeId then 0 else descBase (s.descriptor part obj)
    | _ => 0
  let g := max (if kind src sa = 256 then 256 else 16) (kind dst da)
  g - (da + base) % g

/-- Pieces of an untimed run: whole units of a converting copy, and otherwise as many destination bytes as a piece may take (R100, R125);
`u` is the common unit, and `geom` the geometries of the pages. -/
def untimedRun (cut : Nat → Nat → Nat) (u geom : Nat × Nat) : Nat → Nat → Nat → Nat → Nat → List UPiece
  | 0, _, _, _, _ => []
  | f + 1, sa, da, left, pos =>
    if left = 0 then []
    else
      let n := if u = (1, 1) then min left (cut sa da) else u.2
      let m := n / u.2 * u.1
      ⟨sa, m, da, n, pos, .idle, 0, false, false, [], 0, 0, none, none, geom, false⟩ :: untimedRun cut u geom f (sa + m) (da + n) (left - n) (pos + n)

/-- The pieces of an untimed run. -/
def CopyPlan.runParts (p : CopyPlan) (s : State) (part : Nat) (r : RunAt) (da pos : Nat) : List UPiece :=
  untimedRun (s.cutOf part p.src p.dst) (r.step p.convert) (r.sv.geom, r.dv.geom) (r.dn + 1) r.sa.toNat da r.dn pos

/-- The pieces of the runs of an untimed copy from a stream position on; a FIFO's offsets are stream positions. -/
def CopyPlan.untimedFrom (p : CopyPlan) (s : State) (part : Nat) : List RunAt → Nat → List UPiece
  | [], _ => []
  | r :: l, pos => p.runParts s part r (if p.dst == .fifo then pos else r.da.toNat) pos ++ p.untimedFrom s part l (pos + r.dn)

/-- The pieces of an untimed copy. -/
def CopyPlan.untimed (p : CopyPlan) (s : State) (part : Nat) : List UPiece := p.untimedFrom s part p.runs 0

/-! ### Acceptance -/

/-- The object or segment of a side. -/
def Side.loc (d : Side) : Option Loc :=
  match d with
  | .mem n o => some ⟨n, o, 0⟩
  | _ => none

/-- The segment of a side. -/
def Side.frame (d : Side) : Option (Nat × Int) :=
  match d with
  | .seg l g => some (l, g)
  | _ => none

/-- An accepted command: it takes its positions, and is timed with its pieces, or enters the channel's queues (R104, R122, R128). -/
def State.accept (s : State) (opc : Nat) (d : CopyDesc) (p : CopyPlan) (tag : MapTag) (ps : Option (List Piece)) : State :=
  let k := s.cur.k
  let i := chanOf s.cur.e
  let c := s.chan k i
  let id := s.nextId
  let len := p.total
  let f := max s.now c.planned + 1
  let n := (ps.getD []).length
  let ssu := if nbits d.h 47 47 = 1 then some (nbits d.h 46 44) else none
  let m : CopyCmd :=
    { id := id, opcode := opc, timed := ps.isSome, issue := s.cyc, issueNom := s.now, stamp := s.cur.stamp, pc := s.cur.pc
      start := c.end_.toNat, len := len, dkind := d.dkind, add := d.op == 1, ssu := ssu
      rsem := if nbits d.h 43 43 = 1 then some (nbits d.h 42 37) else none, tag := tag
      srcFmt := p.sv.fmt, dstFmt := p.dv.fmt, convert := p.convert
      done := [], nextPiece := 0, firstNom := f, nPieces := n, level := s.here.run.level, hand := s.here.trap.inHandler }
  let s := s.onHere fun t =>
    (if d.awe then t.lower d.asem else t).onChan i fun c => { c with
      end_ := c.end_ + BitVec.ofNat 64 len
      starts := (c.starts ++ [(c.end_, len)]).drop (c.starts.length - 15)
      accepted := c.accepted + 1
      cmds := c.cmds ++ [m]
      pieces := c.pieces ++ ps.getD [] }
  let s := s.copyRecord k i 0 m
  if ps.isSome then { s with nextId := s.nextId + 1 }
  else s.enqueue { s.newUOp (.copy i id) with
    rq := 2 + 2 * i
    wq := if d.dkind = 0 then 3 + 2 * i else noQueue
    src := p.src.loc, seg := p.src.frame, dst := p.dst.loc
    add := if d.op = 1 then 3 else 0
    srcFmt := p.sv.fmt, srcGeom := p.sv.geom, dstFmt := p.dv.fmt, dstGeom := p.dv.geom, convert := p.convert
    ssu := ssu
    pieces := p.untimed s (s.partOf k) }

/-- The source side of a descriptor: an object through c[SRCC], or a segment of the slack window (R123, R327). -/
def State.copySource (s : State) (opc : Nat) (d : CopyDesc) : Side × Int :=
  if opc = 3 then (.seg (nbits d.h 111 111) ((s.frameOf s.now : Int) - (nbits d.h 110 108 : Nat)), (nbits d.h 84 64 : Nat))
  else
    let c := s.rc (BitVec.ofNat 4 (nbits d.h 63 60))
    (.mem c.node c.obj, (c.cursor : Int) + sint 48 (nbits d.h 111 64))

/-- The destination side of a descriptor (R123). -/
def State.copyDest (s : State) (d : CopyDesc) : Side × Int :=
  if d.dkind ≠ 0 then (.fifo, 0)
  else
    let c := s.rc (BitVec.ofNat 4 (nbits d.h 59 56))
    (.mem c.node c.obj, (c.cursor : Int) + sint 48 (nbits d.h 175 128))

/-- Checks 4 to 8 of R126, then acceptance. -/
def State.copyChecks (s : State) (opc : Nat) (d : CopyDesc) (p : CopyPlan) (tag : MapTag) (ps : Option (List Piece)) : State :=
  let k := s.cur.k
  let pinned := ps.isSome
  if s.copySpan k pinned p ≠ 0 then s.formatTrap (s.copySpan k pinned p)
  else
    s.need (s.copyFormats k pinned (d.op == 1) p = true ∧ (d.dkind = 0 ∨ p.total % 256 = 0) ∧ p.overlaps = false ∧
      s.here.fifoClash (chanOf s.cur.e) d.dkind pinned = false) (s.accept opc d p tag ps)

/-- A descriptor command (R324 to R327): location, then the checks of R126 in their order. -/
def State.copyCommand (s : State) (opc : Nat) (tag : Option MapTag) (desc : BitVec 16) : State :=
  let k := s.cur.k
  let off := desc.toNat * 16
  let d := s.copyDesc k off
  s.need (off + 32 + 16 * d.dims.length ≤ 0xF_8000) <|
  if 16 ≤ (s.chan k (chanOf s.cur.e)).cmds.length then s.scheduleMiss 3
  else if d.awe && !s.here.raised d.asem then s.scheduleMiss 1
  else s.need (d.fieldsOk opc tag.isSome = true) <|
    let (src, sa) := s.copySource opc d
    let (dst, da) := s.copyDest d
    let p0 := s.copyPlan k true src dst d sa da
    let ps := s.copyPieces k s.nextId d.op p0
    let p := if ps.isSome then p0 else s.copyPlan k false src dst d sa da
    s.need (opc ≠ 3 ∨ 0 ≤ p.srcExtent.1 ∧ p.srcExtent.2 ≤ 2097152) <|
    let sc := if opc = 3 then none else extentCheck (s.rc (BitVec.ofNat 4 (nbits d.h 63 60))) s.nodeId Right.copySrc p.srcExtent true
    let dc := if d.dkind ≠ 0 then none else extentCheck (s.rc (BitVec.ofNat 4 (nbits d.h 59 56))) s.nodeId Right.copyDst p.dstExtent true
    match sc, dc with
    | some x, _ => s.capViolation x
    | none, some x => s.capViolation x
    | none, none =>
      s.need (opc ≠ 2 ∨ ps.isSome) <|
      match src with
      | .seg l g => if s.inWindow g then s.copyChecks opc d p (hdrMap (s.header l g)) ps else s.trap 0x06 3
      | _ => s.copyChecks opc d p (tag.getD ⟨0, 0, 0⟩) ps

/-- `cpy`: R324, R325. -/
def execCpy (d : BitVec 16) (s : State) : Res := .next (s.copyCommand 0 none d)
/-- `cpyf`: R325, R326. -/
def execCpyf (d : BitVec 16) (x : Option MapTag) (s : State) : Res := .next (s.copyCommand 1 x d)
/-- `cpyt`: R325. -/
def execCpyt (d : BitVec 16) (s : State) : Res := .next (s.copyCommand 2 none d)
/-- `cpyw`: R325, R327. -/
def execCpyw (d : BitVec 16) (s : State) : Res := .next (s.copyCommand 3 none d)
/-- `cpyr`: R325. -/
def execCpyr (d : BitVec 16) (s : State) : Res := .next (s.copyCommand 4 none d)

/-! ### Tests, waits, fences and aborts -/

/-- The target position of `cwp` and `cwait` (R328): none where too few commands were accepted, or D exceeds the command. -/
def Channel.target (c : Channel) (m : Nat) (x : Option (BitVec 32)) : Option Nat :=
  if c.accepted < m + 1 then none
  else match c.starts.reverse[m]? with
    | none => none
    | some (a, len) =>
      let d := (x.map (·.toNat)).getD len
      if len < d then none else some (a.toNat + d)

/-- A semaphore raised or lowered by a test (R185, R328, R331). -/
def Station.testHs (t : Station) (n : Nat) (b : Bool) : Station := if b then t.raise n else t.lower n

/-- `cwp`: R328. -/
def execCwp (c : BitVec 1) (h : BitVec 6) (m : BitVec 4) (x : Option (BitVec 32)) (s : State) : Res :=
  let ch := s.chan s.cur.k c.toNat
  .next (match ch.target m.toNat x with
    | none => s.illOperand
    | some t => s.onHere fun y => y.testHs h.toNat (decide (t ≤ ch.wp.toNat)))

/-- `cwait`: R138, R328. It issues only when its barrier is passed, which ISSUE_GROUP awaits. -/
def execCwait (c : BitVec 1) (m : BitVec 4) (x : Option (BitVec 32)) (s : State) : Res :=
  .next (s.need (((s.chan s.cur.k c.toNat).target m.toNat x).isSome = true) s)

/-- The barrier of a `cwait` whose operands are in order is not passed (R138). -/
def Station.copyWaits (t : Station) (c m : Nat) (x : Option (BitVec 32)) : Bool :=
  match (t.chan c).target m x with
  | none => false
  | some n => decide ((t.chan c).wp.toNat < n)

/-- A block-transfer channel. -/
def State.btc (s : State) (n : Nat) : BtChan := s.pkg.bt[n % 64]'(Nat.mod_lt _ (by decide))

/-- The state with a block-transfer channel changed. -/
def State.onBt (s : State) (n : Nat) (f : BtChan → BtChan) : State :=
  { s with pkg := { s.pkg with bt := s.pkg.bt.set (n % 64) (f (s.btc n)) (Nat.mod_lt _ (by decide)) } }

/-- PART of a block-transfer channel (R132). -/
def BtChan.part (b : BtChan) : Nat := bitsOf b.ctl 59 56

/-- An act left to the fabric engine for a later cycle. -/
def State.fabricLater (s : State) (c : Nat) (a : FabLate) : State :=
  { s with pkg := { s.pkg with fab := { s.pkg.fab with late := s.pkg.fab.late ++ [(c, a)] } } }

/-- `chead`: R329; BTHEAD is written in cycle n + 2. -/
def execChead (h : BitVec 6) (a : BitVec 4) (s : State) : Res :=
  .next (s.need ((s.btc h.toNat).part = s.partOf s.cur.k) (s.fabricLater (s.cyc + 2) (.head h.toNat (s.rc a))))

/-- A bitmap slot of a station. -/
def Station.bitmap (t : Station) (k : Nat) : Bitmap := t.bitmaps[k % 8]'(Nat.mod_lt _ (by decide))

/-- A bitmap slot replaced. -/
def Station.setBitmap (t : Station) (k : Nat) (b : Bitmap) : Station :=
  { t with bitmaps := t.bitmaps.set (k % 8) b (Nat.mod_lt _ (by decide)) }

/-- The bitmap as it reads: chunks beyond the tile read as 1 (R136). -/
def Bitmap.read (b : Bitmap) : BitVec 256 :=
  b.bits ||| BitVec.ofNat 256 (2 ^ 256 - 2 ^ (bitsOf b.cfg 7 0 + 1))

/-- Fields of a bitmap slot (R136). -/
def Bitmap.v (b : Bitmap) : Bool := bitOf b.cfg 63
def Bitmap.gen (b : Bitmap) : Nat := bitsOf b.cfg 11 8
def Bitmap.objOf (b : Bitmap) : Nat := bitsOf b.obj 52 31
def Bitmap.tile (b : Bitmap) : Nat := bitsOf b.obj 30 0 * 512
def Bitmap.chunks (b : Bitmap) : Nat := bitsOf b.cfg 7 0 + 1

/-- `cmap`: R330, R136. -/
def execCmap (k : BitVec 3) (a : BitVec 4) (n : BitVec 8) (s : State) : Res :=
  let c := s.rc a
  .next (s.checked c 0 (512 * (n.toNat + 1)) Right.copyDst false false fun o =>
    s.need (o % 512 = 0 ∧ o / 512 < 2 ^ 31) (s.onHere fun t =>
      let b := t.bitmap k.toNat
      t.setBitmap k.toNat
        ⟨BitVec.ofNat 64 (c.obj * 2 ^ 31 + o / 512), BitVec.ofNat 64 (2 ^ 63 + (b.gen + 1) % 16 * 256 + n.toNat), 0⟩))

/-- Every bit of the mask is set in half-word h of a slot (R331). -/
def Bitmap.passed (b : Bitmap) (h : BitVec 3) (v : BitVec 32) : Bool := b.read.extractLsb' (32 * h.toNat) 32 &&& v == v

/-- `cmwait`: R138, R331. Without TEST it issues only when its barrier is passed, which ISSUE_GROUP awaits. -/
def execCmwait (k : BitVec 3) (hs : BitVec 6) (t : BitVec 1) (h : BitVec 3) (v : BitVec 32) (s : State) : Res :=
  let b := s.here.bitmap k.toNat
  .next (s.need (b.v = true) (if t = 1 then s.onHere fun y => y.testHs hs.toNat (b.passed h v) else s))

/-- The barrier of a `cmwait` on a bound slot is not passed (R138). -/
def Station.bitmapWaits (t : Station) (k : Nat) (h : BitVec 3) (v : BitVec 32) : Bool := (t.bitmap k).v && !(t.bitmap k).passed h v

/-- `cfence`: R108, R332. -/
def execCfence (k : BitVec 3) (m : BitVec 9) (s : State) : Res := .next (s.fence k m)

/-- `cabort`: R130, R140, R333. -/
def execCabort (c : BitVec 1) (s : State) : Res :=
  let k := s.cur.k
  let i := c.toNat
  let ch := s.chan k i
  let s := ch.cmds.foldl (fun s m =>
    if s.parkedCmd k i m.id then s.abandon k i m.id 3 (bitsOf ch.cfst 62 59) else s.abandon k i m.id 2 0) s
  .next (s.onChan k i fun c => { c with cfst := putBit c.cfst 63 false })

/-- `cabort.bt`: R333; at the fabric engine in cycle n + 2. -/
def execCabortBt (h : BitVec 6) (s : State) : Res :=
  .next (s.need ((s.btc h.toNat).part = s.partOf s.cur.k) (s.fabricLater (s.cyc + 2) (.abortBt h.toNat)))

end Sys2Proof.Machine
end

