-- ==== Sys2Proof/Machine/Heap.lean ====
section
/-!
DEFINITION. The candidate heap: rows of the heap store, folding, merging, and the instructions that set, read and merge rows (R314 to
R320).
-/

namespace Sys2Proof.Machine

/-! ### Rows -/

/-- HCFG's fields (R314). -/
def Station.heapK (t : Station) : Nat := bitsOf t.mat.hcfg 39 32
def Station.heapNL (t : Station) : Nat := bitsOf t.mat.hcfg 31 29
def Station.heapRM1 (t : Station) : Nat := bitsOf t.mat.hcfg 28 23

/-- Bytes of a row with k entries (R315). -/
def rowBytes (k : Nat) : Nat := (k + 8) * 8

/-- A row of the heap store (R315). -/
structure HRow where
  m : Word
  s : Word
  nrm : Word
  psn : Bool
  lset : Nat
  ne : Nat
  lidx : List Word
  llog : List Word
  ents : List (Word × Word)

/-- 32-bit words from the lowest byte on. -/
def words32 : Nat → List Byte → List Word
  | 0, _ => []
  | n + 1, bs => BitVec.ofNat 32 (leNat (bs.take 4)) :: words32 n (bs.drop 4)

/-- The bytes of some words. -/
def bytes32 (ws : List Word) : List Byte := ws.flatMap fun w => leBytes 4 w.toNat

/-- Pairs of adjacent words. -/
def pairs : List Word → List (Word × Word)
  | a :: b :: r => (a, b) :: pairs r
  | _ => []

/-- A row read from its bytes (R315). -/
def HRow.ofWords (ws : List Word) : HRow :=
  let f := lane ws 3
  let ne := laneBits f 8 8
  ⟨lane ws 0, lane ws 1, lane ws 2, f.getLsbD 0, laneBits f 4 4, ne, (ws.drop 4).take 4, (ws.drop 8).take 4, (pairs (ws.drop 16)).take ne⟩

/-- The words of a row of k entries (R315). -/
def HRow.words (h : HRow) (k : Nat) : List Word :=
  [h.m, h.s, h.nrm, BitVec.ofNat 32 (b2n h.psn + h.lset % 16 * 16 + h.ne % 256 * 256)] ++ h.lidx ++ h.llog ++ [0, 0, 0, 0] ++
    (h.ents.take k).flatMap (fun (a, b) => [a, b]) ++ List.replicate (2 * (k - h.ents.length)) 0xFFFF_FFFF

/-- Row r is addressable (R315). -/
def Station.rowOk (t : Station) (r : Nat) : Bool := decide (r ≤ t.heapRM1) && decide ((r + 1) * rowBytes t.heapK ≤ 65536)

/-- Row r may be written by no other operation in this nominal cycle (R317, R320). -/
def Station.rowOwned (t : Station) (r now : Nat) : Bool := t.mat.heapOwned.any fun (i, u) => i == r && decide (now < u)

/-- The words of row r; those of a row that is unpredictable since a write of HCFG are free values (R314). -/
def State.rowWords (s : State) (k : Stn) (r : Nat) : List Word × State :=
  let t := s.stn k
  let n := rowBytes t.heapK
  if t.mat.heapFree.getLsbD r then
    let (v, s) := s.draw
    (words32 (n / 4) (leBytes n v), s)
  else (words32 (n / 4) ((List.range n).map fun i => cellsRead t.mat.heap (r * n + i)), s)

/-- Bytes put into the heap store. -/
def Matrix.pokeHeap (m : Matrix) (off : Nat) : List Byte → Matrix
  | [] => m
  | b :: r => { m with heap := cellsWrite m.heap off b }.pokeHeap (off + 1) r

/-! ### Rank order and folding -/

/-- (x, v) ranks before (y, w): a greater logit first, with -0 equal to +0, then the lower index (R315). -/
def ranksBefore (a b : Word × Word) : Bool :=
  match f32Ord a.1 b.1 with
  | .gt => true
  | .lt => false
  | .eq => decide (a.2.toNat < b.2.toNat)

/-- An entry placed at its rank (R317). -/
def placeEntry (x : Word × Word) : List (Word × Word) → List (Word × Word)
  | [] => [x]
  | y :: r => if ranksBefore x y then x :: y :: r else y :: placeEntry x r

/-- `heap_insert` (R317). -/
def HRow.insert (h : HRow) (k : Nat) (x v : Word) : HRow :=
  let es := (placeEntry (x, v) h.ents).take k
  { h with ents := es, ne := es.length }

/-- `norm_step` (R317); no comparison with a NaN holds. -/
def HRow.norm (h : HRow) (y : Word) : HRow × Flags :=
  if y = infOf true then (h, 0)
  else if y = infOf false ∨ h.m = infOf false then ({ h with m := infOf false, s := infOf false }, 0)
  else if isNan h.m = false ∧ f32Ord y h.m = .gt then
    let (a, f) := lseScaled h.s h.m y
    let (b, g) := f32Add 0 a.v 0x3F80_0000
    ({ h with m := y, s := b }, f ||| g)
  else
    let (a, f) := expDiff y h.m
    let (b, g) := f32Add 0 h.s a
    ({ h with s := b }, f ||| g)

/-- The labels that name v take its logit (R317). -/
def HRow.label (h : HRow) (nl : Nat) (x v : Word) : HRow :=
  let hit := fun i => decide (i < nl) && lane h.lidx i == v
  { h with
    llog := (List.range 4).map fun i => if hit i then x else lane h.llog i
    lset := (List.range 4).foldl (fun n i => if hit i then n ||| 2 ^ i else n) h.lset }

/-- One finished logit of index v folded into a row (R317). -/
def HRow.fold (h : HRow) (k nl : Nat) (ls x v : Word) : HRow × Flags :=
  let h := h.label nl x v
  let (y, f) := f32Mul 0 x ls
  if isNan x ∨ isNan y then
    if h.psn then (h, f)
    else match nanPick [x, y] with
      | some (n, g) => ({ h with psn := true, m := n, s := n }, f ||| g)
      | none => (h, f)
  else
    let (h, g) := if h.psn then (h, 0) else h.norm y
    (h.insert k x v, f ||| g)

/-! ### The instructions -/

/-- A write of heap bytes due a latency after issue. -/
def State.putHeap (s : State) (off : Nat) (ws : List Word) (lat : Nat) : State := s.after lat (.heap off (bytes32 ws))

/-- Row r is no longer unpredictable (R314). -/
def Station.rowDefined (t : Station) (r : Nat) : Station :=
  { t with mat := { t.mat with heapFree := t.mat.heapFree &&& ~~~(BitVec.ofNat 64 (2 ^ r)) } }

/-- `mnorm`: R318, R315, R317. -/
def execMnorm (m : BitVec 2) (v row : BitVec 6) (s : State) : Res :=
  let t := s.here
  let r := row.toNat
  let k := t.heapK
  let base := r * rowBytes k
  let ws := lanesOf (s.rv v)
  .next (s.need (t.rowOk r = true ∧ (m ≠ 2 → t.rowOwned r s.now = false)) (
    if m = 0 then
      s.need (((List.range 4).all fun i => decide (i < t.heapNL) || lane ws i == 0xFFFF_FFFF) = true)
        ((s.onHere fun t => t.rowDefined r).putHeap base
          (HRow.words ⟨infOf true, 0, 0, false, 0, 0, ws.take 4, List.replicate 4 defaultNan, []⟩ k) 2)
    else if m = 1 then (s.putHeap (base + 8) [lane ws 0] 2).putHeap (base + 16) [lane ws 1] 2
    else
      let (h, s) := s.rowWords s.cur.k r
      s.putLanes v (h.take 16) 0 2))

/-- Registers that a row image takes (R319). -/
def rowRegs (k : Nat) : Nat := (rowBytes k + 255) / 256

/-- Lines written into consecutive registers. -/
def State.putRegs (s : State) (v : BitVec 6) (lat : Nat) : List Line → State
  | [] => s
  | l :: r => (s.putV v (BitVec.allOnes 2048) l 0 lat).putRegs (v + 1) lat r

/-- The lines of some words. -/
def linesOf : Nat → List Word → List Line
  | 0, _ => []
  | n + 1, ws => lineOfLanes (ws.take 64) :: linesOf n (ws.drop 64)

/-- `hread`: R319; a row that an operation owns reads as free values (R317). -/
def execHread (v row : BitVec 6) (s : State) : Res :=
  let t := s.here
  let n := rowRegs t.heapK
  .next (s.need (t.rowOk row.toNat = true ∧ v.toNat + n ≤ 64) (
    if t.rowOwned row.toNat s.now then
      let (x, s) := s.draw
      s.putRegs v (4 + n) ((List.range n).map fun i => BitVec.ofNat 2048 (x / 2 ^ (2048 * i)))
    else
      let (ws, s) := s.rowWords s.cur.k row.toNat
      s.putRegs v (4 + n) (linesOf n ws)))

/-- The words of n consecutive registers. -/
def State.regWords (s : State) (v : BitVec 6) : Nat → List Word
  | 0 => []
  | n + 1 => lanesOf (s.rv v) ++ s.regWords (v + 1) n

/-- The entries of a list stand in rank order, without a NaN logit (R320). -/
def ranked : List (Word × Word) → Bool
  | [] => true
  | [a] => !isNan a.1
  | a :: b :: r => !isNan a.1 && ranksBefore a b && ranked (b :: r)

/-- The rows of an `hmerge` merged: lower and higher by the form, with the local row's labels and NRM (R320). -/
def HRow.merge (k : Nat) (loc img : HRow) (locLow : Bool) : HRow × Flags :=
  let (lo, hi) := if locLow then (loc, img) else (img, loc)
  let (m, v, f) := lseMrg lo.m lo.s hi.m hi.s
  let es := (img.ents.foldl (fun es x => placeEntry x es) loc.ents).take k
  let log := fun i =>
    if lo.lset.testBit i then lane lo.llog i else if hi.lset.testBit i then lane hi.llog i else lane loc.llog i
  (⟨m, v, loc.nrm, lo.psn || hi.psn, lo.lset ||| hi.lset, min k (loc.ne + img.ne), loc.lidx, (List.range 4).map log, es⟩, f)

/-- `hmerge`: R320. -/
def execHmerge (lo : BitVec 1) (v row : BitVec 6) (s : State) : Res :=
  let t := s.here
  let r := row.toNat
  let k := t.heapK
  let n := rowRegs k
  .next (s.need (t.rowOk r = true ∧ v.toNat + n ≤ 64 ∧ t.rowOwned r s.now = false)
    (let (ws, s) := s.rowWords s.cur.k r
     let loc := HRow.ofWords ws
     let img := HRow.ofWords (s.regWords v n)
     let (h, f) := HRow.merge k loc img (lo == 1)
     s.need (img.ne ≤ k ∧ ranked img.ents = true ∧ img.lidx = loc.lidx)
       (let s := s.putHeap (r * rowBytes k) (h.words k) (4 + k)
        let s := if f = 0 then s else s.after (4 + k) (.flags f)
        s.onHere fun t => { t with mat := { t.mat with heapOwned := t.mat.heapOwned ++ [(r, s.now + 4 + k)] } })))

end Sys2Proof.Machine
end

