-- ==== Sys2Proof/Machine/Matrix.lean ====
section
/-!
DEFINITION. The matrix engine: formats, panels, array operations with their checks and completion, tile moves and map tables (R298 to
R313, R317, R321, R322).
-/

namespace Sys2Proof.Machine

/-! ### Tiles -/

/-- A tile of a station. -/
def Station.tile (t : Station) (i : BitVec 3) : Tile := t.regs.tiles[i.toNat]'(by omega)

/-- A tile of a station replaced. -/
def Station.setTile (t : Station) (i : BitVec 3) (x : Tile) : Station :=
  { t with regs := { t.regs with tiles := t.regs.tiles.set i.toNat x (by omega) } }

/-- An element of a tile (R298). -/
def Tile.elem (x : Tile) (r c : Nat) : Elem := (x[r % 64]'(Nat.mod_lt _ (by decide)))[c % 128]'(Nat.mod_lt _ (by decide))

/-- A tile with its rows changed. -/
def Tile.mapRows (x : Tile) (f : Nat → TileRow → TileRow) : Tile := Vector.ofFn fun (r : Fin 64) => f r.val x[r.val]

/-- A row with its elements changed. -/
def TileRow.mapElems (x : TileRow) (f : Nat → Elem → Elem) : TileRow := Vector.ofFn fun (c : Fin 128) => f c.val x[c.val]

/-- A closed value (R298). -/
def closed (int : Bool) (w : Word) : Elem := some ⟨0, 0, int, some (if int then ⟨w, false, false⟩ else leafOf w), []⟩

/-- The value of an element (R298). -/
def Elem.value (e : Elem) : Word := (readElem e).1.v

/-! ### Formats and panels -/

/-- Fields of MXFMT (R299). -/
def fmtA (m : DWord) : Nat := bitsOf m 31 28
def fmtB (m : DWord) : Nat := bitsOf m 27 24
def geomA (m : DWord) : Nat := bitsOf m 23 22
def geomB (m : DWord) : Nat := bitsOf m 21 20
def accInt (m : DWord) : Bool := bitOf m 19

/-- A format and geometry that `mfmt` accepts (R299). -/
def operandFmt (f g : Nat) : Bool := decide (1 ≤ f) && decide (f ≤ 12) && g != 3 && (isBfp f || g == 0)

/-- `mfmt`: R299. -/
def execMfmt (w : BitVec 13) (s : State) : Res :=
  let v := BitVec.ofNat 64 (w.toNat * 2 ^ 19)
  .next (s.need (operandFmt (fmtA v) (geomA v) = true ∧ operandFmt (fmtB v) (geomB v) = true ∧
      (accInt v = true → fmtA v = 0xC ∧ fmtB v = 0xC))
    (s.after 1 (.csr 0x402 v)))

/-- Bytes of a run of m elements (R301). -/
def runLen (f g m : Nat) : Nat := let (e, b) := fmtUnit f g; m / e * b

/-- Whole lines of some bytes (R301). -/
def linesFor (n : Nat) : Nat := (n + 255) / 256

/-- An array operation as the instruction names it: opcode (10 for `mvocb.bwd`), target tile, row predicate, FIRST, LAST, row-major
B, column-group code and base, extension words (R300). -/
structure MOp where
  kind : Nat
  t : BitVec 3
  src : BitVec 3
  u : BitVec 3
  first : Bool
  last : Bool
  rowMajor : Bool
  w : BitVec 2
  cb : BitVec 2
  x : MExt

/-- Field T (R300). -/
def MOp.fieldT (o : MOp) : Nat := if o.kind = 10 then o.src.toNat else o.t.toNat

/-- ARG0 of a record of an array operation: its opcode and field T (R400). -/
def arrayArg (kind fieldT : Nat) : Nat := (if kind = 10 then 9 else kind) + fieldT * 256

/-- NCOL (R300). -/
def MOp.ncol (o : MOp) : Nat := 128 / 2 ^ o.w.toNat

/-- Lines of the A panel (R301); `mvocb.bwd` consumes none (R322). -/
def MOp.aCount (o : MOp) (m : DWord) : Nat := if o.kind = 10 then 0 else linesFor (64 * runLen (fmtA m) (geomA m) 256)

/-- Lines of the B panel (R301, R322). -/
def MOp.bCount (o : MOp) (m : DWord) : Nat :=
  linesFor (if o.rowMajor then 256 * runLen (fmtB m) (geomB m) o.ncol else o.ncol * runLen (fmtB m) (geomB m) 256)

/-- g of an operation that names one (R300). -/
def MOp.g (o : MOp) : Option Nat :=
  match o.x with
  | .none => none
  | .g g => some g.toNat
  | .gk g _ _ => some g.toNat

/-- KC (R300). -/
def MOp.kc (o : MOp) : Nat :=
  match o.x with
  | .gk _ _ k => k.toNat + 1
  | _ => 256

/-- V0 (R300). -/
def MOp.v0 (o : MOp) : Nat :=
  match o.x with
  | .gk _ v _ => v.toNat
  | _ => 0

/-- A chunk of a BFP run through a map table (R311). -/
def mapBlock (w n mw : Nat) (table : Line) (bs : List Byte) : List FVal :=
  let e := (bs.headD 0).toNat
  (fieldsOf w n (leNat (bs.drop 1))).map fun i =>
    if e = 255 then .nan false true 0
    else
      let v := (byteOf table i).toInt
      .fin (decide (v < 0)) v.natAbs ((e : Int) - 127 - (mw - 1 : Nat))

/-- Coded blocks of a run (R311). -/
def mapRun (w n b mw : Nat) (table : Line) : Nat → List Byte → List FVal
  | 0, _ => []
  | k + 1, bs => mapBlock w n mw table (bs.take b) ++ mapRun w n b mw table k (bs.drop b)

/-- A run of m elements of a panel, from its n-th run on (R301, R311). -/
def panelRun (f g m : Nat) (map : Option (Nat × Line)) (bs : List Byte) (n : Nat) : List FVal :=
  let (e, b) := fmtUnit f g
  let r := (bs.drop (n * runLen f g m)).take (runLen f g m)
  match map with
  | some (mw, table) => mapRun (f + 1) e b mw table (m / e) r
  | none => decodeRun f g (m / e) r

/-- Column j of a row-major panel from its rows. -/
def columnOf (rows : List (List FVal)) (j : Nat) : List FVal := rows.map fun r => r.getD j (.fin false 0 0)

/-- The B columns of an operation, each of 256 elements (R301, R322). -/
def ArrayOp.columns (o : ArrayOp) : List (List FVal) :=
  let f := fmtB o.mxfmt
  let g := geomB o.mxfmt
  let bs := o.bLines.flatMap bytesOf
  if o.rowMajor then
    let rows := (List.range 256).map fun k => panelRun f g o.ncol o.map bs k
    (List.range o.ncol).map (columnOf rows)
  else (List.range o.ncol).map fun j => panelRun f g 256 o.map bs j

/-- Row r of the A operand: of the A panel, or the latched d values (R301, R322). -/
def ArrayOp.row (o : ArrayOp) (r : Nat) : List FVal :=
  if o.kind = 10 then (o.dvals.getD r []).map fval
  else panelRun (fmtA o.mxfmt) (geomA o.mxfmt) 256 none (o.aLines.flatMap bytesOf) r

/-- `chunk_sum` (R86, R91, R304). -/
def chunkDot (int : Bool) (kc : Nat) (a b : List FVal) : Partial × Flags :=
  let ts := ((a.zip b).take kc).map fun (x, y) => termOf x y
  if int then clip32 ((ts.map fun t => t.1.scaled).sum / 2 ^ 400)
  else
    let (c, f) := chunkSum (ts.map (·.1))
    (c, f ||| orFlags (ts.map (·.2)))

/-! ### The states that operations leave -/

/-- What check 8 needs of an element: its HI and its type, or none where it is empty. -/
abbrev Shape := Option (Nat × Bool)

/-- The shape of an element. -/
def Elem.shape (e : Elem) : Shape := e.map fun x => (x.hi, x.int)

/-- The shape that an operation in flight leaves (R303, R304, R317, R321). -/
def ArrayOp.shape (o : ArrayOp) (r c : Nat) (x : Shape) : Shape :=
  if o.q.getLsbD r = false ∨ c < o.c0 ∨ o.c0 + o.ncol ≤ c then x
  else if o.last then some (0, false)
  else
    let hi := match o.g with
      | some g => g / 256
      | none => (x.map (·.1)).getD 0
    some (hi + 1, accInt o.mxfmt)

/-- The shape of an element after every operation issued earlier (R303). -/
def Station.shapeAt (t : Station) (i : BitVec 3) (r c : Nat) : Shape :=
  (t.mat.ops.filter fun o => !o.done && o.t == i.toNat).foldl (fun x o => o.shape r c x) ((t.tile i).elem r c).shape

/-- Check 8 for one element (R303). -/
def MOp.elemOk (o : MOp) (int : Bool) (x : Shape) : Bool :=
  o.first || match x, o.g with
    | none, none => false
    | none, some _ => true
    | some (hi, ty), some g => hi == g / 256 && ty == int
    | some (_, ty), none => ty == int

/-- Check 7 (R303) and the bound on chunk indices (R90). -/
def MOp.chunkOk (o : MOp) (x : Shape) : Bool :=
  match o.g, x with
  | some g, _ => g % 256 == 0 && decide (g / 256 < 2 ^ 24)
  | none, some (hi, _) => decide (hi < 2 ^ 24)
  | none, none => true

/-- The elements that take part, with their shapes. -/
def Station.partShapes (t : Station) (o : MOp) (q : DWord) : List Shape :=
  (lanesIn q).flatMap fun r => (List.range o.ncol).map fun j => t.shapeAt o.t r (o.cb.toNat * o.ncol + j)

/-! ### Map tags -/

/-- Fields of MAPST (R310). -/
def MapSlot.v (m : MapSlot) : Bool := bitOf m.reg 63
def MapSlot.pv (m : MapSlot) : Bool := bitOf m.reg 62
def MapSlot.gen (m : MapSlot) : Nat := bitsOf m.reg 57 52
def MapSlot.pgen (m : MapSlot) : Nat := bitsOf m.reg 51 46
def MapSlot.cnt (m : MapSlot) : Nat := bitsOf m.reg 8 0
def MapSlot.pcnt (m : MapSlot) : Nat := bitsOf m.reg 17 9

/-- A map slot of a station. -/
def Station.mapSlot (t : Station) (i : Nat) : MapSlot := t.mat.maps[i % 4]'(Nat.mod_lt _ (by decide))

/-- A map slot of a station changed. -/
def Station.onMapSlot (t : Station) (i : Nat) (f : MapSlot → MapSlot) : Station :=
  { t with mat := { t.mat with maps := t.mat.maps.set (i % 4) (f (t.mapSlot i)) (Nat.mod_lt _ (by decide)) } }

/-- The count in which a coded line stands changed by f (R309). -/
def MapSlot.count (m : MapSlot) (gen : Nat) (f : Nat → Nat) : MapSlot :=
  if m.v ∧ gen = m.gen then { m with reg := putBits m.reg 8 0 (f m.cnt) }
  else if m.pv ∧ gen = m.pgen then { m with reg := putBits m.reg 17 9 (f m.pcnt) }
  else m

/-- A line leaves FIFO B (R309). -/
def Station.uncount (t : Station) (l : FifoLine) : Station :=
  if l.tag.mape = 1 then t.onMapSlot l.tag.mslot.toNat fun m => m.count l.tag.mgen.toNat (· - 1) else t

/-- A line appended to a FIFO with the check of its map tag (R131, R309); none is a decode fault. A line of FIFO A has no tag. -/
def Station.appendLine (t : Station) (b : Bool) (l : FifoLine) : Option Station :=
  if b = false then some (t.setFifo false (t.mat.fa.append { l with tag := ⟨0, 0, 0⟩ }))
  else if l.tag.mape = 0 then some (t.setFifo true (t.mat.fb.append l))
  else
    let m := t.mapSlot l.tag.mslot.toNat
    let g := l.tag.mgen.toNat
    if (m.v ∧ g = m.gen) ∨ (m.pv ∧ g = m.pgen) then
      some ((t.onMapSlot l.tag.mslot.toNat fun m => m.count g (· + 1)).setFifo b ((t.fifo b).append l))
    else none

/-- The n oldest lines of a FIFO consumed (R131, R304). -/
def Station.consume (t : Station) (b : Bool) (n : Nat) : Station :=
  let f := t.fifo b
  let t := if b then (f.lines.take n).foldl Station.uncount t else t
  t.setFifo b { f with lines := f.lines.drop n, con := f.con + BitVec.ofNat 32 n }

/-- What the tags of the B lines say: no table, a table to decode through, or the outcome of check 5 or 6 (R303, R313). -/
inductive Coding where
  | plain
  | coded (mw : Nat) (table : Line)
  | bad
  | early
  deriving DecidableEq, Repr

/-- Checks 5 and 6 of R303. -/
def Station.coding (t : Station) (o : MOp) (ls : List FifoLine) : Coding :=
  match ls with
  | [] => .plain
  | l :: r =>
    if r.any (fun x => x.tag != l.tag) then .bad
    else if l.tag.mape = 0 then .plain
    else if o.kind = 2 ∨ o.kind = 4 ∨ isBfp (fmtB t.mat.mxfmt) = false then .bad
    else
      let m := t.mapSlot l.tag.mslot.toNat
      let g := l.tag.mgen.toNat
      if m.v ∧ g = m.gen then .coded (bitsOf m.reg 60 58 + 1) m.table
      else if m.pv ∧ g = m.pgen then .early
      else .bad

/-! ### Array operations at issue -/

/-- The subcode of R316, or 0. -/
def Station.spill (t : Station) (q : DWord) : Nat :=
  let k := t.heapK
  if k = 0 ∨ 128 < k then 1
  else if 4 < t.heapNL then 2
  else if 65536 < (t.heapRM1 + 1) * rowBytes k ∨ (lanesIn q).any (fun r => decide (t.heapRM1 < r)) = true then 3
  else 0

/-- Check 3 of R303. -/
def Station.arrayOk (t : Station) (o : MOp) (now : Nat) : Bool :=
  let m := t.mat.mxfmt
  decide (t.mat.busyUntil ≤ now) && fmtA m != 0 && !(accInt m && decide (8 ≤ o.kind)) &&
    !(o.kind == 10 && (o.t == o.src || o.t == o.src + 1)) &&
    !(o.rowMajor && decide (o.ncol < (fmtUnit (fmtB m) (geomB m)).1)) &&
    decide (o.aCount m ≤ 128) && decide (o.bCount m ≤ 256)

/-- Cycles for which the array is busy (R302). -/
def MOp.busy (o : MOp) (m : DWord) (mw : Option Nat) : Nat :=
  let wide := fun f => f == 0xA || f == 0xB
  if o.kind = 10 ∨ wide (fmtA m) = true ∨ wide (fmtB m) = true then 32 * o.ncol
  else o.ncol * (mw.getD (fmtBits (fmtB m)))

/-- Rows of d values latched from a pair of tiles (R322). -/
def Station.dRows (t : Station) (i : BitVec 3) : List (List Word) :=
  (List.range 64).map fun r =>
    (List.range 128).map (fun c => ((t.tile i).elem r c).value) ++ (List.range 128).map fun c => ((t.tile (i + 1)).elem r c).value

/-- The cycle in which an operation completes that would complete in cycle e: operations on one tile take effect in issue order, so none
completes before an earlier one (R302, R304; log entry 138). -/
def Station.completion (t : Station) (i : BitVec 3) (e : Nat) : Nat :=
  ((t.mat.ops.filter fun o => !o.done && o.t == i.toNat).map (·.due)).foldl max e

/-- A passing operation: its lines are consumed, it latches its operands, and its result is due (R302, R304, R317). -/
def State.startOp (s : State) (o : MOp) (map : Option (Nat × Line)) : State :=
  let t := s.here
  let m := t.mat.mxfmt
  let q := s.rq o.u
  let c := o.busy m (map.map (·.1))
  let due := t.completion o.t (s.now + c + 6 + if o.last then o.ncol else 0)
  let a := o.aCount m
  let b := o.bCount m
  let op : ArrayOp := {
    kind := o.kind, stamp := s.cur.stamp, pc := s.cur.pc, issue := s.now, busyUntil := s.now + c, due := due, t := o.t.toNat
    fieldT := o.fieldT, q := q, first := o.first, last := o.last, ncol := o.ncol, c0 := o.cb.toNat * o.ncol, g := o.g, kc := o.kc, v0 := o.v0
    rowMajor := o.rowMajor, mxfmt := m, hcfg := t.mat.hcfg, hscl := t.mat.hscl
    aLines := (t.mat.fa.lines.take a).map (·.data), bLines := (t.mat.fb.lines.take b).map (·.data), map := map
    dvals := if o.kind = 10 then t.dRows o.src else [], done := false }
  let s := s.onHere fun t =>
    let t := (t.consume false a).consume true b
    { t with mat := { t.mat with
        ops := t.mat.ops ++ [op], busyUntil := s.now + c
        heapOwned := t.mat.heapOwned ++ (if o.kind = 8 ∧ o.last then (lanesIn q).map fun r => (r, due + 1) else []) } }
  s.evenRecord s.cur.k 3 0 3 s.cur.pc (arrayArg o.kind o.fieldT) s.cur.stamp

/-- An array operation: the checks of R303 in their order. -/
def State.arrayOp (s : State) (o : MOp) : Res :=
  let t := s.here
  let m := t.mat.mxfmt
  let q := s.rq o.u
  let ls := t.mat.fb.lines.take (o.bCount m)
  let shapes := t.partShapes o q
  .next (
    if o.kind = 8 ∧ t.spill q ≠ 0 then s.heapSpill (t.spill q)
    else s.need (t.arrayOk o s.now = true) (
      if t.mat.fa.lines.length < o.aCount m ∨ t.mat.fb.lines.length < o.bCount m then s.scheduleMiss 2
      else
        let go := fun map =>
          if shapes.all o.chunkOk = false ∨ o.chunkOk none = false then s.formatTrap 3
          else if shapes.all (o.elemOk (accInt m)) = false then s.formatTrap 4
          else s.startOp o map
        match t.coding o ls with
        | .bad => s.illOperand
        | .early => s.scheduleMiss 2
        | .plain => go none
        | .coded mw table => go (some (mw, table))))

/-- `mma`: R300 to R304. -/
def execMma (t u : BitVec 3) (f : BitVec 1) (w c : BitVec 2) (x : MExt) (s : State) : Res :=
  s.arrayOp ⟨2, t, 0, u, f == 1, false, false, w, c, x⟩
/-- `mmaw`: R300 to R304. -/
def execMmaw (t u : BitVec 3) (f r : BitVec 1) (w c : BitVec 2) (x : MExt) (s : State) : Res :=
  s.arrayOp ⟨3, t, 0, u, f == 1, false, r == 1, w, c, x⟩
/-- `mmat`: R300 to R304. -/
def execMmat (t u : BitVec 3) (f : BitVec 1) (w c : BitVec 2) (x : MExt) (s : State) : Res :=
  s.arrayOp ⟨4, t, 0, u, f == 1, false, true, w, c, x⟩
/-- `mvoc`: R300 to R304, R316, R317. -/
def execMvoc (t u : BitVec 3) (f l : BitVec 1) (w c : BitVec 2) (x : MExt) (s : State) : Res :=
  s.arrayOp ⟨8, t, 0, u, f == 1, l == 1, false, w, c, x⟩
/-- `mvocb.fwd`: R300 to R304, R321. -/
def execMvocbFwd (t u : BitVec 3) (f l : BitVec 1) (w c : BitVec 2) (x : MExt) (s : State) : Res :=
  s.arrayOp ⟨9, t, 0, u, f == 1, l == 1, false, w, c, x⟩
/-- `mvocb.bwd`: R300 to R304, R322; T names the d pair and P the target. -/
def execMvocbBwd (t u : BitVec 3) (f : BitVec 1) (p : BitVec 3) (w c : BitVec 2) (x : MExt) (s : State) : Res :=
  s.arrayOp ⟨10, p, t, u, f == 1, false, true, w, c, x⟩

/-! ### Completion -/

/-- The chunk sum merged into an element (R304). -/
def ArrayOp.mergeElem (o : ArrayOp) (e : Elem) (x : Partial) : Elem × Flags :=
  let e := if o.first then none else e
  let ch := match o.g, e with
    | some g, _ => g / 256
    | none, some t => t.hi
    | none, none => 0
  (mergeOpt e (some (oneChunk (accInt o.mxfmt) ch x))).getD (e, 0)

/-- The new elements of a row, with the flags of their sums (R304). -/
def ArrayOp.rowResult (o : ArrayOp) (old : TileRow) (r : Nat) (cols : List (List FVal)) : List (Elem × Flags) :=
  let a := o.row r
  cols.zipIdx.map fun (b, j) =>
    let (x, f) := chunkDot (accInt o.mxfmt) o.kc a b
    let (e, g) := o.mergeElem (old[(o.c0 + j) % 128]'(Nat.mod_lt _ (by decide))) x
    (e, f ||| g)

/-- d of one logit (R321). -/
def backward (ls nrm lidx : Word) (v nv : Nat) (x : Word) : Word × Flags :=
  if nv ≤ v then (0, 0)
  else
    let (y, f1) := f32Mul 0 x ls
    let (p, f2) := expDiff y nrm
    let (d, f3) := f32Add 0 p (f32Neg (if BitVec.ofNat 32 v = lidx then 0x3F80_0000 else 0))
    let (b, f4) := convertElem 0xD 0xA 0 d.toNat
    (BitVec.ofNat 32 (convertElem 0xA 0xD 0 b).1, f1 ||| f2 ||| f3 ||| f4)

/-- The finished logits of a row folded into its heap row, in ascending column (R317). -/
def foldRow (k nl nv v0 : Nat) (ls : Word) : Nat → List Word → HRow → HRow × Flags
  | _, [], h => (h, 0)
  | j, x :: r, h =>
    if v0 + j < nv then
      let (h, f) := h.fold k nl ls x (BitVec.ofNat 32 (v0 + j))
      let (h, g) := foldRow k nl nv v0 ls (j + 1) r h
      (h, f ||| g)
    else foldRow k nl nv v0 ls (j + 1) r h

/-- The last step of a row of `mvoc` or `mvocb.fwd` with LAST: the elements that remain, and the state with the heap row updated
(R317, R321), with the flags of reading them (R89). A row of `mvocb.fwd` that is not addressable reads free values. -/
def State.lastStep (s : State) (k : Stn) (o : ArrayOp) (r : Nat) (es : List Elem) : List Elem × Flags × State :=
  let t := s.stn k
  let (ws, s) := if t.rowOk r then s.rowWords k r else (let (v, s) := s.draw; (words32 16 (leBytes 64 v), s))
  let kk := bitsOf o.hcfg 39 32
  let ls := o.hscl.truncate 32
  let nv := bitsOf o.hcfg 63 40
  if o.kind = 8 then
    let (h, f) := foldRow kk (bitsOf o.hcfg 31 29) nv o.v0 ls 0 (es.map Elem.value) (HRow.ofWords ws)
    (es.map fun _ => closed false 0, f ||| orFlags ((es.take (nv - o.v0)).map fun e => (readElem e).2),
      s.onStn k fun t => { t with mat := t.mat.pokeHeap (r * rowBytes kk) (bytes32 (h.words kk)) })
  else
    let ds := es.zipIdx.map fun (e, j) => backward ls (lane ws 2) (lane ws 4) (o.v0 + j) nv e.value
    (ds.map fun d => closed false d.1, orFlags (ds.map (·.2)) ||| orFlags ((es.take (nv - o.v0)).map fun e => (readElem e).2), s)

/-- One row of a completing operation (R304, R317, R321). -/
def State.completeRow (s : State) (k : Stn) (o : ArrayOp) (cols : List (List FVal)) (r : Nat) : State :=
  let i := BitVec.ofNat 3 o.t
  let old := ((s.stn k).tile i)[r % 64]'(Nat.mod_lt _ (by decide))
  let rs := o.rowResult old r cols
  let es := rs.map (·.1)
  let f := orFlags (rs.map (·.2))
  let (es, g, s) := if o.last then s.lastStep k o r es else (es, 0, s)
  s.onStn k fun t =>
    let row := old.mapElems fun c e => if o.c0 ≤ c ∧ c < o.c0 + o.ncol then es.getD (c - o.c0) e else e
    (t.setTile i ((t.tile i).mapRows fun r' x => if r' = r then row else x)).setFlags (f ||| g)

/-- An operation completes (R304). -/
def State.completeOp (s : State) (k : Stn) (o : ArrayOp) : State :=
  let cols := o.columns
  let s := (lanesIn o.q).foldl (fun s r => s.completeRow k o cols r) s
  let s := s.count (s.partOf k) 0x10 ((lanesIn o.q).length * o.ncol * o.kc)
  s.evenRecord k 3 1 3 o.pc (arrayArg o.kind o.fieldT) o.stamp

/-- `ARRAY_OPERATION_COMPLETE`: R304; every operation due takes effect in issue order, and one stays in the list, so that its tile
stays owned, through the nominal cycle of its completion (R305). -/
def execArrayOperationComplete (k : Stn) (s : State) : Res :=
  let now := s.workNom k
  let due := (s.stn k).mat.ops.filter fun o => !o.done && decide (o.due ≤ now)
  let s := due.foldl (fun s o => s.completeOp k o) s
  .next (s.onStn k fun t => { t with mat := { t.mat with
    ops := (t.mat.ops.filter fun o => decide (now ≤ o.due)).map fun o => if o.due ≤ now then { o with done := true } else o
    heapOwned := t.mat.heapOwned.filter fun (_, u) => decide (now < u) } })

/-! ### Tile moves -/

/-- A tile is owned by an operation (R305). -/
def Station.owned (t : Station) (i : BitVec 3) : Bool := t.mat.ops.any fun o => o.t == i.toNat

/-- `mwait`: R306. -/
def execMwait (t : BitVec 3) (n : BitVec 6) (s : State) : Res :=
  .next (match (s.here.mat.ops.filter fun o => o.t == t.toNat).getLast? with
    | none => s.after 1 (.raise n.toNat)
    | some o => if o.done then s.onHere fun x => x.raise n.toNat else s.after (o.due - s.now) (.raise n.toNat))

/-- `mzero`: R307, R305. -/
def execMzero (t u : BitVec 3) (s : State) : Res :=
  .next (s.need (s.here.owned t = false) (s.after 1 (.zeroRows t (s.rq u))))

/-- The lower register of an even pair (R307). -/
def evenReg (v : BitVec 5) : BitVec 6 := v ++ 0#1

/-- `mrd`: R307, with the flags of its `tree_read`s, set as the result is written (R85, R89); from an owned tile it writes free values
(R305). -/
def execMrd (t : BitVec 3) (v : BitVec 5) (r : BitVec 6) (x : Option RowExt) (s : State) : Res :=
  let d := evenReg v
  let st := (x.map fun e => e.st == 1).getD false
  let y := s.here.tile t
  .next (
    if s.here.owned t then
      let (l, s) := s.drawLine
      let (h, s) := s.drawLine
      if st then s.putRegs d 4 [l] else s.putRegs d 4 [l, h]
    else if st then s.putRegs d 4 [lineOfLanes (stateLanes (y.elem r.toNat ((x.map (·.col.toNat)).getD 0)))]
    else
      let half := fun (s : State) (d : BitVec 6) (b : Nat) =>
        let xs := (List.range 64).map fun i => readElem (y.elem r.toNat (b + i))
        s.putV d (BitVec.allOnes 2048) (lineOfLanes (xs.map (·.1.v))) (orFlags (xs.map (·.2))) 4
      half (half s d 0) (d + 1) 64)

/-- `mwr`: R307, R305. -/
def execMwr (t : BitVec 3) (v : BitVec 5) (r : BitVec 6) (x : Option RowExt) (s : State) : Res :=
  let a := evenReg v
  .next (s.need (s.here.owned t = false) (
    match x with
    | some ⟨1, col⟩ => s.treeIn a fun e => s.after 1 (.setElem t r.toNat col.toNat e)
    | _ => s.after 1 (.setRow t r.toNat (accInt s.here.mat.mxfmt) (lanesOf (s.rv a) ++ lanesOf (s.rv (a + 1))))))

/-! ### Map tables -/

/-- `mapld`: R312. -/
def execMapld (sl : BitVec 2) (gen : BitVec 6) (mw : BitVec 3) (c : BitVec 4) (rse : BitVec 1) (sem : BitVec 6) (s : State) : Res :=
  let m := s.here.mapSlot sl.toNat
  let p := s.rc c
  .next (s.checked p 0 256 Right.read false false fun o => match s.pin s.cur.k p.obj o with
    | none => s.capViolation 8
    | some g =>
      s.need (o % 256 = 0 ∧ g.fmt = 0 ∧ g.bank = some s.cur.k ∧ m.pv = false ∧ ¬ (m.v = true ∧ gen.toNat = m.gen))
        (s.pinned p.obj o 256 fun segs =>
          s.send (.map sl.toNat gen.toNat (mw.toNat + 1) (if rse = 1 then some sem.toNat else none)) (readSegs segs)))

/-- The refusal of a pending table, or its hold until the slot's queued lines are consumed (R312). -/
def MapSlot.judge (m : MapSlot) (now : Nat) : MapSlot :=
  let lim := 2 ^ bitsOf m.reg 45 43
  if (bytesOf m.pending).all fun b => decide (-(lim : Int) ≤ b.toInt) && decide (b.toInt < lim) then
    { m with latched := true, ready := now }
  else { m with reg := putBit (putBit (putBits m.reg 17 9 0) 62 false) 61 true, latched := false, rse := none }

/-- `MAP_TABLE_LATCH`: R312, steps 3, 4 and 6. -/
def execMapTableLatch (k : Stn) (slot : Nat) (s : State) : Res :=
  let m := (s.stn k).mapSlot slot
  let m' := m.judge (s.workNom k)
  let s := s.onStn k fun t => t.onMapSlot slot fun _ => m'
  .next (match m'.latched, m.rse with
    | false, some n => s.onStn k fun t => t.raise n
    | _, _ => s)

/-- The pending table of a slot may be installed: it is latched and no queued line names the installed one (R312). -/
def MapSlot.installable (m : MapSlot) (now : Nat) : Bool := m.pv && m.latched && decide (m.ready ≤ now) && m.cnt == 0

/-- The installed slot (R312, step 5). -/
def MapSlot.install (m : MapSlot) : MapSlot :=
  let r := m.reg
  let r := putBits (putBits r 57 52 m.pgen) 60 58 (bitsOf r 45 43)
  let r := putBits (putBits r 8 0 m.pcnt) 17 9 0
  { m with reg := putBit (putBit r 62 false) 63 true, table := m.pending, latched := false, rse := none }

/-- `MAP_INSTALL`: R312, steps 5 and 6. -/
def execMapInstall (k : Stn) (slot : Nat) (s : State) : Res :=
  let m := (s.stn k).mapSlot slot
  .next (if m.installable (s.workNom k) then
    let s := s.onStn k fun t => t.onMapSlot slot MapSlot.install
    match m.rse with
    | some n => s.onStn k fun t => t.raise n
    | none => s
  else s)

end Sys2Proof.Machine
end

