-- ==== Sys2Proof/Machine/TimedPerform.lean ====
section
/-!
DEFINITION. Timed accesses in flight: requests and replies on the lanes, the hazard checker, performing a line access, and delivering
its outcome (R51, R55, R58 to R64, R101, R114, R174, R419).
-/

namespace Sys2Proof.Machine

/-! ### Lanes -/

/-- The slot that a beat occupies in cycle c (R51). -/
def LaneBeat.slotIn (b : LaneBeat) (c : Nat) : Nat :=
  let i := (c - b.start) % 104
  if b.lane < 16 then (b.slot + i) % 104 else (b.slot + 104 - i) % 104

/-- A beat stands in a stage in cycle c (R51). -/
def LaneBeat.stands (b : LaneBeat) (cl lane slot c : Nat) : Bool :=
  b.cl == cl && b.lane == lane && decide (b.start ≤ c) && decide (c - b.start ≤ b.span) && b.slotIn c == slot

/-- The beat in a stage in the current cycle. -/
def State.stage (s : State) (cl lane slot : Nat) : Option LaneBeat := s.beats.find? fun b => b.stands cl lane slot s.cyc

/-- A beat driven, or none where the stage holds one (R51). -/
def State.driveBeat (s : State) (b : LaneBeat) : Option State :=
  if (s.stage b.cl b.lane b.slot).isSome then none else some { s with beats := s.beats ++ [b] }

/-! ### Accesses in flight -/

/-- The line access with an identity number, and its instruction's access. -/
def State.findPart (s : State) (id : Nat) : Option (Txn × TPart) :=
  s.txns.findSome? fun x => (x.parts.find? (·.id == id)).map fun p => (x, p)

/-- A line access changed. -/
def State.onTPart (s : State) (id : Nat) (f : TPart → TPart) : State :=
  { s with txns := s.txns.map fun x => { x with parts := x.parts.map fun p => if p.id = id then f p else p } }

/-- What a trap of an access identifies (R64, R377). -/
def Txn.trapAt (x : Txn) : TrapAt := ⟨x.eng, x.stamp, x.pc, x.rpti⟩

/-- The instruction's trap is reported in one cycle; what its line accesses bring in that cycle joins, and the lowest subcode stands (R64,
R419). -/
def State.reportTxn (s : State) (x : Txn) (id cause sub : Nat) : State :=
  if x.reported.any (· != s.cyc) then s
  else
    let mark := fun (y : Txn) => if y.parts.any (·.id == id) then { y with reported := some s.cyc } else y
    ({ s with txns := s.txns.map mark }).lateTrap x.k cause sub x.trapAt

/-- The copy command that an access belongs to is abandoned with CAUSE 1 (R130). -/
def State.dropCopy (s : State) (x : Txn) : State :=
  match x.use with
  | .copyRead ch c _ => s.abandon x.k ch c 1 0
  | .copyWrite ch c _ => s.abandon x.k ch c 1 0
  | _ => s

/-- A line access refused; the refusal is known at once for the station's own bank and its own drives (R64). -/
def State.refuse (s : State) (x : Txn) (p : TPart) (sub : Nat) (known : Bool) : State :=
  let s := (s.onTPart p.id fun q => { q with st := .refused sub }).dropCopy x
  if known then s.reportTxn x p.id 0x07 sub else s

/-- The request of an access to another bank or to the stack is driven; a beat in the stage refuses it, and it arrives nowhere (R51,
R55, R63). -/
def State.driveRequest (s : State) (x : Txn) (p : TPart) : State :=
  let lag := (s.stn x.k).run.lag % 2 ^ 24
  match s.driveBeat ⟨clusterOf x.k, p.lane, slotOf (localOf x.k), s.cyc, p.hop, none, lag, false⟩ with
  | some s => s.onTPart p.id fun q => { q with lag := lag }
  | none => (s.refuse x p 2 true).onTPart p.id fun q => { q with arr := 0, reply := 0 }

/-- The reply of an access is driven; a beat in the stage loses it (R55, R419). -/
def State.driveReply (s : State) (x : Txn) (p : TPart) : State :=
  let slot := if p.stack then 103 else slotOf (localOf p.bank)
  match s.driveBeat ⟨clusterOf x.k, p.back, slot, s.cyc, p.hop, none, p.lag, false⟩ with
  | some s => s
  | none => s.onTPart p.id fun q => { q with lost := true }

/-! ### The hazard checker -/

/-- The lag of an access to another bank differs from the target station's (R174). -/
def State.skewed (s : State) (p : TPart) : Bool := !p.stack && !p.own && p.lag != (s.stn p.bank).run.lag % 2 ^ 24

/-- The line that an access reaches after the remap, as a memory key (R195). -/
def State.lineKey (s : State) (lv : Level) (p : TPart) : Nat :=
  if p.stack then stackKey p.line else bankKey p.bank.val (s.remap p.bank lv p.line)

/-- The line accesses of the current cycle that stand at a bank's timed port or at a channel. -/
def State.arriving (s : State) : List (Nat × TPart) :=
  s.txns.flatMap fun x => (x.parts.filter fun p => p.arr == s.cyc && p.op != .snap && !s.skewed p).map fun p => (s.lineKey x.level p, p)

/-- Another line access meets this one at its sub-bank (R63). -/
def State.meetsBank (s : State) (key : Nat) (p : TPart) : Bool :=
  !p.stack && s.arriving.any fun (k, q) => q.id != p.id && !q.stack && q.bank == p.bank && k / 256 % 32 == key / 256 % 32

/-- Another line access, or the transport, meets this one at its channel (R58, R63). -/
def State.meetsChannel (s : State) (key : Nat) (p : TPart) : Bool :=
  p.stack && (s.ringClaims s.cyc (channelOf key) ||
    s.arriving.any fun (k, q) => q.id != p.id && q.stack && channelOf k == channelOf key)

/-- A bank key as an access of a level reaches it (R195). -/
def State.remapKey (s : State) (lv : Level) (key : Nat) : Nat :=
  if key < 2 ^ 34 then key
  else
    let k := (key - 2 ^ 34) / 2 ^ 20
    bankKey k (s.remap (stnOf k) lv ((key - 2 ^ 34) % 2 ^ 20))

/-- The part of a run of keys whose stream positions lie at or beyond WP. -/
def beyond (wp pos : Nat) (r : Nat × Nat) : Nat × Nat := let c := min r.2 (wp - pos); (r.1 + c, r.2 - c)

/-- The runs of keys of a piece from a stream position on. -/
def beyondRuns (wp : Nat) : Nat → List (Nat × Nat) → List (Nat × Nat)
  | _, [] => []
  | pos, r :: l => beyond wp pos r :: beyondRuns wp (pos + r.2) l

/-- The bank key of an offset of an object, as the tables say. -/
def State.bankAt (s : State) (p obj o : Nat) : Option Nat :=
  match s.look p obj o 1 with
  | .at_ (.bank k off) _ _ => some (bankKey k off)
  | _ => none

/-- The runs of keys of a channel's pending destinations (R61). -/
def State.pendingCopies (s : State) (k : Stn) (i : Nat) : List (Nat × Nat) :=
  let c := s.chan k i
  let wp := c.wp.toNat
  c.cmds.flatMap fun m =>
    if m.dkind ≠ 0 then []
    else
      let rs := if m.timed then
          (c.pieces.filter (·.cmd == m.id)).flatMap fun p => beyondRuns wp (m.start + p.pos) p.dst
        else (s.uops.filter fun u => u.k == k && u.owner == .copy i m.id).flatMap fun u =>
          match u.dst with
          | none => []
          | some d => if d.node ≠ s.nodeId then [] else u.pieces.filterMap fun p =>
              (s.bankAt u.part d.obj p.dst).map fun a => beyond wp (m.start + p.pos) (a, p.dstLen)
      rs.map fun r => (s.remapKey m.level r.1, r.2)

/-- The runs of keys of a station's completion tiles whose chunks are not set (R61, R137). -/
def State.pendingTiles (s : State) (k : Stn) : List (Nat × Nat) :=
  (s.stn k).bitmaps.toList.flatMap fun b =>
    if b.v = false then []
    else (List.range b.chunks).filterMap fun c =>
      if b.read.getLsbD c then none
      else (s.bankAt (s.partOf k) b.objOf (b.tile + 512 * c)).map fun a => (s.remapKey .task a, 512)

/-- Some byte of a read lies in a pending destination (R62). -/
def State.pendingHit (s : State) (key : Nat) (offs : List Nat) : Bool :=
  allStns.any fun k =>
    (s.pendingCopies k 0 ++ s.pendingCopies k 1 ++ s.pendingTiles k).any fun (a, n) =>
      offs.any fun o => decide (a ≤ key + o) && decide (key + o < a + n)

/-- The subcode with which the hazard checker refuses a line access that reaches its place, or 0; the lowest of several (R63, R64). -/
def State.hazard (s : State) (key : Nat) (p : TPart) : Nat :=
  let reads := match p.op with
    | .read => true
    | .atomic _ => true
    | _ => false
  let writes := match p.op with
    | .write .. => true
    | .atomic _ => true
    | _ => false
  if p.op = .snap then 0
  else if s.meetsBank key p then 1
  else if s.meetsChannel key p then 3
  else if reads && !p.stack && s.pendingHit key p.offs then 4
  else if writes && !p.stack && decide (0xF_8000 ≤ p.line) then 5
  else 0

/-! ### Atomics -/

/-- What an atomic does at its place: the new value, the flags of `fadd`, and the success of a compare-and-swap (R249, R250). -/
def Atom.apply (a : Atom) (old : Nat) : Nat × Flags × Bool :=
  let m := 2 ^ (8 * a.size)
  let v := a.opnd.toNat % m
  let sg := fun (n : Nat) => sint (8 * a.size) n
  if a.cas then (if old = v then (a.newv.toNat % m, 0, true) else (old, 0, false))
  else match a.op with
    | 0 => ((old + v) % m, 0, false)
    | 1 => (if sg v < sg old then v else old, 0, false)
    | 2 => (if sg old < sg v then v else old, 0, false)
    | 3 => (old &&& v, 0, false)
    | 4 => (old ||| v, 0, false)
    | 5 => (old ^^^ v, 0, false)
    | 6 => (v, 0, false)
    | _ =>
      let x := BitVec.ofNat 32 old
      let y := BitVec.ofNat 32 v
      let (r, f) := combineF (leafOf x) (leafOf y)
      (r.v.toNat, f ||| leafFlags x ||| leafFlags y, false)

/-- The content of the bay of an atomic (R249). -/
def atomLine (old : Nat) (settled ok : Bool) (f : Flags) : Line :=
  BitVec.ofNat 2048 (old + (b2n settled + 2 * b2n ok) * 2 ^ 64 + f.toNat * 2 ^ 72)

/-! ### Performing -/

/-- Errors corrected in a read of some bytes are counted and reported (R386); `k` is the station whose ECCST counts them. -/
def State.correct (s : State) (k : Stn) (key : Nat) (offs : List Nat) : State :=
  let lo := offs.foldl min 255
  let n := offs.foldl max 0 + 1 - lo
  s.correctWords k (s.partOf k) (clusterOf k) (key + lo) n

/-- A task-level write in the standby half invalidates a preload (R196). -/
def State.noteStandby (s : State) (k : Stn) (lv : Level) (off : Nat) : State :=
  let t := s.stn k
  let stand := if bitOf t.sys.banksel 1 then decide (off < 0x7_8000) else decide (0x8_0000 ≤ off) && decide (off < 0xF_8000)
  let st := bitsOf t.sys.sbst 63 62
  if lv = .task ∧ stand = true ∧ (st = 1 ∨ st = 2) then
    s.onStn k fun t => { t with sys := { t.sys with sbst := putBits t.sys.sbst 63 62 3 } }
  else s

/-- The counters of a station read and cleared as one act (R269). -/
def State.snapCounters (s : State) (k : Stn) : Line × State :=
  (lineOfLanes (s.stn k).mat.counters.toList,
    s.onStn k fun t => { t with mat := { t.mat with counters := Vector.replicate 64 0 } })

/-- A line access performed at its place (R60, R101): what it brought back, and the state after it. An atomic reads first, with the
timed reads of the cycle, and what it stores remains to be written, with the timed writes (R49); a compare-and-swap that fails
stores nothing (R250). -/
def State.performLine (s : State) (x : Txn) (p : TPart) (key : Nat) : TPart × State :=
  let st := p.st
  let p := { p with st := .done }
  let owner := if p.stack then x.k else p.bank
  let pois := p.offs.any fun o => s.mem.poison.contains ((key + o) / 8)
  match p.op with
  | .snap =>
    let (l, s) := s.snapCounters p.bank
    ({ p with data := l }, s)
  | .read =>
    let s := s.correct owner key p.offs
    if !p.stack && decide (0xF_F000 ≤ p.line) then
      let (l, s) := s.drawLine
      ({ p with data := l }, s)
    else
      ({ p with data := lineOfBytes (s.mem.readN key 256), tag := s.mem.tagAt (key + p.lo), poison := pois }, s)
  | .write [] _ => (p, s)
  | .write bs tag =>
    let s := { s with mem := s.mem.writeAt key bs }
    let s := if p.poison then { s with mem := bs.foldl (fun m (o, _) => m.markPoison (key + o) 1) s.mem } else s
    let s := match tag with
      | some t => { s with mem := s.mem.putTag (key + p.lo) t }
      | none => s
    (p, if p.stack then s else s.noteStandby p.bank x.level (key % 2 ^ 20))
  | .atomic a =>
    let s := s.correct owner key p.offs
    let old := s.mem.readLe (key + p.lo) a.size
    let (v, f, ok) := a.apply old
    let bs := if a.cas && !ok then [] else (leBytes a.size v).zipIdx.map fun (b, i) => (p.lo + i, b)
    ({ p with st := st, op := .write bs none, data := atomLine old false ok f, poison := pois, lo := 0, len := 256 }, s)

/-- A piece of a timed copy with a line access of its write performed (R129). -/
def State.pieceLine (s : State) (k : Stn) (i c idx : Nat) : State :=
  match (s.chan k i).pieces.find? fun p => p.cmd == c && p.idx == idx with
  | none => s
  | some p =>
    let s := s.onChan k i fun ch => { ch with pieces := ch.pieces.map fun q =>
      (if q.cmd = c ∧ q.idx = idx then { q with left := q.left - 1 } else q) }
    if p.left ≤ 1 then (s.onStn k fun t => t.setFlags p.flags).performed k i c p.pos p.len else s

/-- What the performance of a line access means for its instruction: a copy's piece, or the slot of `mapld` (R129, R312). -/
def State.afterLine (s : State) (x : Txn) : State :=
  match x.use with
  | .copyWrite ch c idx => s.pieceLine x.k ch c idx
  | .map slot gen mw _ => s.onStn x.k fun t => t.onMapSlot slot fun m =>
      { m with reg := putBits (putBits (putBit m.reg 62 true) 51 46 gen) 45 43 (mw - 1), latched := false }
  | _ => s

/-- A line access reaches its place (R60, R63, R174). -/
def State.arrive (s : State) (x : Txn) (p : TPart) : State :=
  let key := s.lineKey x.level p
  if s.skewed p then (s.onTPart p.id fun q => { q with st := .skew }).dropCopy x
  else if s.hazard key p ≠ 0 then s.refuse x p (s.hazard key p) p.own
  else
    let (q, s) := s.performLine x p key
    (s.onTPart p.id fun _ => q).afterLine x

/-- `TIMED_ACCESS_PERFORM`: R55, R60, R63, R419. The request drive, the array or channel access and the reply drive of a line access are
each made in their own cycle. -/
def execTimedAccessPerform (id : Nat) (s : State) : Res :=
  .next (match s.findPart id with
    | none => s
    | some (x, p) =>
      if p.own = false ∧ s.cyc = p.drive ∧ p.st = .sent then s.driveRequest x p
      else if s.cyc = p.arr ∧ (p.st = .sent ∨ p.st = .atPort) then s.arrive x p
      else if p.own = false ∧ s.cyc = p.reply then s.driveReply x p
      else s)

/-- `TIMED_STACK_REQUEST`: R58. The request stands at the memory port, which knows its claim from now on (R59). -/
def execTimedStackRequest (id : Nat) (s : State) : Res :=
  .next (s.onTPart id fun p => if p.stack && p.st == .sent then { p with st := .atPort } else p)

/-! ### Delivery -/

/-- A line access brought nothing back: refused, mismatched, or its reply lost (R64, R174, R419). -/
def TPart.failed (p : TPart) : Bool :=
  p.lost || match p.st with
    | .refused _ => true
    | .skew => true
    | _ => false

/-- Lanes of a vector load from its bytes by position; the elements of a converting load are decoded and rounded (R290). -/
def vloadLane (t fmt geom rm : Nat) (bs : List Byte) (i : Nat) : Word × Flags :=
  if converts t fmt then
    let (e, b) := fmtUnit fmt geom
    wordRes (encElem t rm ((decodeRun fmt geom 1 ((bs.drop (i / e * b)).take b)).getD (i % e) (.fin false 0 0)))
  else (BitVec.ofNat 32 (leNat ((bs.drop (4 * i)).take 4)), 0)

/-- A result of an access due at a nominal cycle, in the issue order of its instruction (R233, R273). -/
def State.txnResult (s : State) (x : Txn) (due : Nat) (e : Eff) : State := s.onStn x.k fun t => t.later due x.nom x.eng e

/-- A vector result of an access with its flags. -/
def State.txnVector (s : State) (x : Txn) (due : Nat) (d : BitVec 6) (q : DWord) (ws : List (Word × Flags)) : State :=
  let s := s.txnResult x due (.vreg d (laneMask q) (lineOfLanes (ws.map (·.1))))
  if orFlags (ws.map (·.2)) = 0 then s else s.txnResult x due (.flags (orFlags (ws.map (·.2))))

/-- A drive of the station's own on a free lane, in the current cycle (R337, R338); an occupied stage refuses it at once. -/
def State.tapDrive (s : State) (k : Stn) (lane span : Nat) (data : Line) (a : TrapAt) : State :=
  match s.driveBeat ⟨clusterOf k, lane, slotOf (localOf k), s.cyc, span, some data, (s.stn k).run.lag % 2 ^ 24, false⟩ with
  | some s => s
  | none => s.lateTrap k 0x07 2 a

/-- The source bytes of a piece of a timed copy are converted, to be written now or four cycles later (R125, R127). -/
def State.pieceConvert (s : State) (k : Stn) (i : Nat) (x : Piece) (bs : List Byte) : State :=
  let c := x.cmd
  let idx := x.idx
  match (s.chan k i).cmds.find? (·.id == c), (s.chan k i).pieces.find? fun p => p.cmd == c && p.idx == idx with
  | some m, some p =>
    let now := s.workNom k
    let (es, b) := fmtUnit m.srcFmt p.geom.1
    let (ed, _) := fmtUnit m.dstFmt p.geom.2
    let o : RunOut :=
      if m.convert then
        let n := bs.length / b
        encodeRun m.dstFmt p.geom.2 0 (n * es / ed) (decodeRun m.srcFmt p.geom.1 n bs) (m.ssu.map (s.stn k).scaleUnit)
      else ⟨bs, 0, none⟩
    let s := match m.ssu, o.unit with
      | some u, some v => s.onStn k fun t => t.setScaleUnit u v
      | _, _ => s
    s.onChan k i fun ch => { ch with pieces := ch.pieces.map fun q =>
      (if q.cmd = c ∧ q.idx = idx then { p with raw := none, data := some o.bytes, flags := o.flags, wdue := now + if m.convert then 4 else 0 } else q) }
  | _, _ => s

/-- The source bytes of a piece of a timed copy have come back; blocks for a scale-selection unit are taken at the end of the cycle, after
those of engines with lower codes (R78). -/
def State.pieceRead (s : State) (k : Stn) (i c idx : Nat) (bs : List Byte) : State :=
  match (s.chan k i).cmds.find? (·.id == c), (s.chan k i).pieces.find? fun p => p.cmd == c && p.idx == idx with
  | some m, some p =>
    if m.ssu.isNone then s.pieceConvert k i p bs
    else s.onChan k i fun ch => { ch with pieces := ch.pieces.map fun q => if q.cmd = c ∧ q.idx = idx then { q with raw := some bs } else q }
  | _, _ => s

/-- What an access that succeeded does with its reply. A capability is in its register from the cycle after its data become usable (R21,
R60, R244; log entry 116). -/
def State.useReply (s : State) (x : Txn) : State :=
  let k := x.k
  let now := s.workNom k
  let bs := x.bytes
  match x.use with
  | .none => s
  | .load d n signed =>
    let v := leNat (bs.take n)
    s.txnResult x now (.sreg d (if signed then BitVec.ofInt 64 (sint (8 * n) v) else BitVec.ofNat 64 v))
  | .loadCap d => s.txnResult x (now + 1) (.creg d ⟨BitVec.ofNat 128 (leNat bs), x.parts.all (·.tag)⟩)
  | .bay b => s.onStn k fun t => t.fillBay b ⟨((x.parts.head?.map (·.data)).getD 0), false, false⟩
  | .vload d t fmt geom rm lanes off =>
    let bs := List.replicate off 0 ++ bs
    let ws := (List.range 64).map fun i => if lanes.getLsbD i then vloadLane t fmt geom rm bs i else (0, 0)
    s.txnVector x (now + if converts t fmt then 2 else 0) d lanes ws
  | .gather d t rm words due =>
    let at_ := fun i => words.find? (·.1 == i)
    let ws := (List.range 64).map fun i => match at_ i with
      | some (_, fmt, pos) => convert4 fmt t rm (BitVec.ofNat 32 (leNat ((bs.drop pos).take 4)))
      | none => (0, 0)
    s.txnVector x due d (predOf fun i => (at_ i).isSome) ws
  | .map slot _ _ rse => s.onStn k fun t => t.onMapSlot slot fun m => { m with pending := lineOfBytes bs, rse := rse }
  | .drive lane span _ => s.tapDrive k lane span (lineOfBytes bs) x.trapAt
  | .copyRead ch c idx => s.pieceRead k ch c idx bs
  | .copyWrite .. => s

/-- An access whose outcomes are all known: its reply is used, or it failed as a whole; poisoned data roll the team back (R44, R387). -/
def State.finishTxn (s : State) (x : Txn) : State :=
  let s := { s with txns := s.txns.filter fun y => y.parts.all fun p => x.parts.all fun q => p.id != q.id }
  if x.parts.any TPart.failed then
    match x.use with
    | .bay b => s.onStn x.k fun t => t.fillBay b ⟨0, true, false⟩
    | .copyRead .. => s.dropCopy x
    | _ => s
  else if x.parts.any (·.poison) then s.machineCheck x.k 1
  else s.useReply x

/-- `TIMED_REPLY_DELIVER`: R55, R64, R174, R419. The outcome of a line access reaches its station; after the last one the access is
finished. -/
def execTimedReplyDeliver (id : Nat) (s : State) : Res :=
  .next (match s.findPart id with
    | none => s
    | some (x, p) =>
      let s := s.onTPart id fun q => { q with delivered := true }
      let s := if p.lost then s.reportTxn x id 0x07 2 else match p.st with
        | .refused sub => s.reportTxn x id 0x07 sub
        | .skew => s.reportTxn x id 0x05 7
        | _ => s
      match s.findPart id with
      | some (y, _) => if y.parts.all (·.delivered) then s.finishTxn y else s
      | none => s)

end Sys2Proof.Machine
end

