-- ==== Sys2Proof/Machine/CopyRun.lean ====
section
/-!
DEFINITION. Timed copies and FIFO fills under way: the reads and writes of pieces, and the lines that copies and the lane tap append
(R127, R131, R309, R336).
-/

namespace Sys2Proof.Machine

/-- The segment of a run of memory keys. -/
def segOfKey (r : Nat × Nat) : Seg :=
  if r.1 < 2 ^ 34 then ⟨⟨none, r.1, 0, 0, 0, 0, false⟩, r.2⟩
  else ⟨⟨some (stnOf ((r.1 - 2 ^ 34) / 2 ^ 20)), (r.1 - 2 ^ 34) % 2 ^ 20, 0, 0, 0, 0, false⟩, r.2⟩

/-- A timed access that a unit of station k makes for an instruction issued earlier, with the level of that instruction; one to the
stack needs a lag of zero (R174). -/
def State.sendFor (s : State) (k : Stn) (e : Engine) (a : TrapAt) (lv : Level) (use : TUse) (segs : List (Seg × List Nat × TOp)) :
    Except State State :=
  let s := { s with cur := ⟨k, e, a.stamp, a.pc, 1, a.rpti⟩ }
  if s.here.run.lag ≠ 0 ∧ segs.any (·.1.page.bank.isNone) then .error (s.lateTrap k 0x05 7 a)
  else
    let c := s.cur
    let parts := s.paths segs
    .ok { s with
      nextId := s.nextId + parts.length
      txns := s.txns ++ [⟨k, c.e.code, c.stamp, c.pc, c.rpti, s.cyc, s.nom k, lv, use, none, parts⟩] }

/-- The stream of a channel. -/
def chanEngine (i : Nat) : Engine := if i = 1 then .copy1 else .copy0

/-- A piece's access sent; a stack access at a lag is not sent, and the command is abandoned (R130, R174). -/
def State.sendPiece (s : State) (k : Stn) (i : Nat) (m : CopyCmd) (use : TUse) (segs : List (Seg × List Nat × TOp)) : State :=
  match s.sendFor k (chanEngine i) ⟨4 + i, m.stamp, m.pc, none⟩ m.level use segs with
  | .ok s => s
  | .error s => s.abandon k i m.id 1 0

/-- The source read of the next piece, in its nominal cycle (R127). -/
def State.readPiece (s : State) (k : Stn) (i : Nat) : State :=
  let c := s.chan k i
  match c.cmds.find? fun m => m.timed && decide (m.nextPiece < m.nPieces) with
  | none => s
  | some m =>
    if s.nom k < m.firstNom + m.nextPiece then s
    else match c.pieces.find? fun p => p.cmd == m.id && p.idx == m.nextPiece with
      | none => s
      | some p =>
        (s.onChan k i fun c =>
          { c.onCmd m.id fun m => { m with nextPiece := m.nextPiece + 1 } with lastRead := s.nom k }).sendPiece k i m
          (.copyRead i m.id p.idx) (readSegs (p.src.map segOfKey))

/-- A station holds at a checkpoint or is halted by a pre-emption (R202, R390). -/
def Station.held (t : Station) : Bool := t.pre.st == .hold || t.pre.st == .halted || t.pre.rp == 1

/-- A held station whose nominal time stands still: it holds for a recovery point, or for a pre-emption at a clean checkpoint (R202,
R390). -/
def Station.stands (t : Station) : Bool := t.pre.rp == 1 || t.held && t.trap.taking.isNone

/-- The nominal cycle by which pieces already issued are performed; they run on while their station stands (R204, log entry 30). -/
def State.pieceNow (s : State) (k : Stn) : Nat := s.workNom k + if (s.stn k).stands && !((s.stn k).pre.rp == 1 && (s.stn k).pre.rpFull) then 8 else 0

/-- The writes whose data are usable (R127). -/
def State.writePieces (s : State) (k : Stn) (i : Nat) : State :=
  let c := s.chan k i
  (c.pieces.filter fun p => !p.written && decide (p.wdue ≤ s.pieceNow k)).foldl (fun s p =>
    match p.data, c.cmds.find? fun m => m.id == p.cmd && m.dkind == 0 with
    | some bs, some m =>
      let mark := fun (q : Piece) => if q.cmd = p.cmd ∧ q.idx = p.idx then { q with written := true } else q
      (s.onChan k i fun c => { c with pieces := c.pieces.map mark }).sendPiece k i m
        (.copyWrite i m.id p.idx) (writeSegs (p.dst.map segOfKey) bs none)
    | _, _ => s) s

/-- The commands of the task stand still while its handler runs (R377, R378). -/
def State.channelStill (s : State) (k : Stn) (i : Nat) : Bool :=
  (s.stn k).trap.inHandler && (match (s.chan k i).cmds.find? (·.timed) with
    | some m => !m.hand
    | none => false)

/-- No further piece is issued: the station is held or a trap is being taken (R204, R377). -/
def Station.noPieces (t : Station) : Bool := t.held || t.trap.taking.isSome || t.pre.st == .restore

/-- The blocks that have come back for a scale-selection unit are converted, piece by piece (R78). -/
def State.convertPieces (s : State) (k : Stn) (i : Nat) : State :=
  (s.chan k i).pieces.foldl (fun s p => match p.raw with
    | some bs => s.pieceConvert k i p bs
    | none => s) s

/-- `COPY_TIMED_PIECE`: R78, R127. -/
def execCopyTimedPiece (k : Stn) (ch : Nat) (s : State) : Res :=
  .next (let s := s.convertPieces k ch
    if s.channelStill k ch then s
    else if (s.stn k).noPieces then s.writePieces k ch
    else (s.writePieces k ch).readPiece k ch)

/-! ### Lines for operand FIFOs -/

/-- A line appended to a FIFO as a timed fill of an engine: a full FIFO is a schedule miss, a tag that names no table a decode fault
(R131, R309); the CAUSE of the abandonment that follows, or none. -/
def State.timedLine (s : State) (k : Stn) (b : Bool) (l : FifoLine) (a : TrapAt) : State × Option Nat :=
  if (s.stn k).fifoFull b then (s.lateTrap k 0x05 2 a, some 4)
  else match (s.stn k).appendLine b l with
    | none => (s.lateTrap k 0x02 0 a, some 5)
    | some t => (s.setStn k t, none)

/-- The command whose lines a channel appends next to FIFO A (1) or B (2): lines of earlier commands to that FIFO come first (R131). -/
def Channel.filler (c : Channel) (dkind : Nat) : Option CopyCmd := c.cmds.find? fun m => m.dkind == dkind && decide (m.prefixLen < m.len)

/-- The next line of a timed fill: pieces that cover it, once all are due (R131). -/
def State.timedFill (s : State) (k : Stn) (i : Nat) (m : CopyCmd) : State :=
  let pos := m.prefixLen
  let ps := (s.chan k i).pieces.filter fun p => p.cmd == m.id && decide (pos ≤ p.pos) && decide (p.pos < pos + 256)
  let bs := ps.flatMap fun p => p.data.getD []
  if bs.length = 256 ∧ ps.all (fun p => decide (p.wdue + 1 ≤ s.pieceNow k)) = true then
    match s.timedLine k (m.dkind == 2) ⟨lineOfBytes bs, m.tag, false⟩ ⟨4 + i, m.stamp, m.pc, none⟩ with
    | (s, some cause) => s.abandon k i m.id cause 0
    | (s, none) => s.performed k i m.id pos 256
  else s

/-- The next line of an untimed fill, once its bytes have arrived and the FIFO has room (R131). Poisoned bytes roll the team back
(R387). -/
def State.untimedFill (s : State) (k : Stn) (i : Nat) (m : CopyCmd) : State :=
  let pos := m.prefixLen
  match s.uops.find? fun u => u.k == k && u.owner == .copy i m.id with
  | none => s
  | some u =>
    let mine := fun (p : UPiece) => decide (pos ≤ p.pos) && decide (p.pos < pos + 256)
    let ps := u.pieces.filter mine
    let b := m.dkind == 2
    if ps ≠ [] ∧ ps.all (fun p => p.st == .held) = true ∧ (s.stn k).fifoFull b = false then
      let pois := ps.any (·.poison)
      match (s.stn k).appendLine b ⟨lineOfBytes (ps.flatMap (·.data)), m.tag, pois⟩ with
      | none => (s.lateTrap k 0x02 0 ⟨4 + i, m.stamp, m.pc, none⟩).abandon k i m.id 5 0
      | some t =>
        let close := fun (p : UPiece) => if mine p then { p with st := .done } else p
        let s := s.setStn k t
        let s := s.onUOp u.id fun v => { v with pieces := v.pieces.map close }
        let s := s.performed k i m.id pos 256
        if pois then s.machineCheck k 1 else s
    else s

/-- The lane tap's line that is due is appended (R336). -/
def State.tapLine (s : State) (k : Stn) : State :=
  let now := s.workNom k
  let due := fun (p : Pend) => decide (p.due ≤ now) && match p.eff with
    | .tapFifo .. => true
    | _ => false
  match (s.stn k).pend.find? due with
  | some p => match p.eff with
    | .tapFifo b d tag a =>
      ((s.onStn k fun t => { t with pend := t.pend.erase p }).timedLine k b ⟨d, tag, false⟩ a).1
    | _ => s
  | none => s

/-- The next line of the fill of FIFO A (1) or B (2) that a channel has under way (R131). -/
def State.fillLine (s : State) (k : Stn) (ch dkind : Nat) : State :=
  match (s.chan k ch).filler dkind with
  | none => s
  | some m => if m.timed then s.timedFill k ch m else s.untimedFill k ch m

/-- `FIFO_LINE_APPEND`: R131, R309, R336. Channels 0 and 1 are the copy channels; 2 is the lane tap. -/
def execFifoLineAppend (k : Stn) (ch : Nat) (s : State) : Res :=
  .next (if 2 ≤ ch then s.tapLine k else (s.fillLine k ch 1).fillLine k ch 2)

end Sys2Proof.Machine
end

