-- ==== Sys2Proof/Machine/Jobs.lean ====
section
/-!
DEFINITION. The service ports of the banks and the channels of the stack, which do one line access in each cycle, and the line accesses
that units of the package make one by one: saves and loads of images, entries of exposure logs, moves of pages (R48, R49, R56, R58,
R59, R119, R206, R208, R209, R386, R387, R391).
-/

namespace Sys2Proof.Machine

/-! ### Ports and channels -/

/-- The service port of a bank, or the channel of a stack line, as an entry of the list of served places (R48, R58). -/
def servedKey : Phys → Option Nat
  | .bank k _ => some k
  | .stack a => some (384 + channelOf a)
  | _ => none

/-- A place takes no further untimed access in this cycle: it has served one, or the transport or a timed access claims the channel
(R48, R58, R59). -/
def State.placeTaken (s : State) (ph : Phys) : Bool :=
  ((servedKey ph).map s.served.contains).getD false || match ph with
    | .stack a => s.ringClaims s.cyc (channelOf a) || s.arriving.any fun (key, p) => p.stack && channelOf key == channelOf a
    | _ => false

/-- A place has done its access of the cycle (R48, R58). -/
def State.serve (s : State) (ph : Phys) : State :=
  match servedKey ph with
  | some n => { s with served := s.served ++ [n] }
  | none => s

/-- The memory key of a place on the package, as an access of a level reaches it (R195). -/
def State.physKey (s : State) (lv : Level) : Phys → Nat
  | .bank k off => bankKey k (s.remap (stnOf k) lv off)
  | .stack a => stackKey (a % 2 ^ 34)
  | _ => 0

/-! ### Line accesses of units -/

/-- The parts of n bytes from an offset on, none of which crosses a 256-byte line (R46, R56). -/
def partsLine : Nat → Nat → Nat → List (Nat × Nat)
  | 0, _, _ => []
  | f + 1, o, n =>
    if n = 0 then []
    else
      let m := min n (256 - o % 256)
      (o, m) :: partsLine f (o + m) (n - m)

/-- The line accesses that an owner has still to make. -/
def State.jobsOf (s : State) (o : JobOwner) : List LineJob := s.pkg.jobs.filter (·.owner == o)

/-- An owner's line accesses have all been made. -/
def State.jobsDone (s : State) (o : JobOwner) : Bool := s.pkg.jobs.all (·.owner != o)

/-- Line accesses left to be made by a port: the place, the bytes, and what is done (R48, R59). -/
def State.addJobs (s : State) (o : JobOwner) (port part : Nat) (l : List (Phys × Nat × JobUse)) : State :=
  { s with
    nextId := s.nextId + l.length
    pkg := { s.pkg with jobs := s.pkg.jobs ++ l.zipIdx.map fun x => ⟨s.nextId + x.2, port, part, o, x.1.1, x.1.2.1, x.1.2.2⟩ } }

/-- An owner's line accesses that have not been made are dropped, with what it has gathered. -/
def State.dropJobs (s : State) (o : JobOwner) : State :=
  { s with pkg := { s.pkg with jobs := s.pkg.jobs.filter (·.owner != o), lines := s.pkg.lines.filter (·.owner != o) } }

/-- Stores of bytes at a stack address, line by line; the bytes may be poisoned (R387). -/
def storeJobs (a : Nat) (bs : List Byte) (poison : Bool) : List (Phys × Nat × JobUse) :=
  (partsLine (bs.length + 1) a bs.length).map fun (o, n) =>
    (.stack o, n, .store ((bs.drop (o - a)).take n) (if poison then List.range ((o + n + 7) / 8 - o / 8) else []))

/-- Reads of n bytes at a stack address, line by line, for the unit; `off` is where the first of them goes. -/
def readJobs (a n off : Nat) : List (Phys × Nat × JobUse) :=
  (partsLine (n + 1) a n).map fun (o, m) => (.stack o, m, .gather (off + (o - a)))

/-- n bytes of what an owner has gathered, from an offset on; bytes that it has not read are 0. -/
def State.gathered (s : State) (o : JobOwner) (off n : Nat) : List Byte :=
  let ls := s.pkg.lines.filter fun g => g.owner == o && decide (g.off < off + n) && decide (off < g.off + g.bytes.length)
  (List.range n).map fun i =>
    ((ls.find? fun g => decide (g.off ≤ off + i) && decide (off + i < g.off + g.bytes.length)).map fun g => g.bytes.getD (off + i - g.off) 0).getD 0

/-- Some 8-byte word of n gathered bytes is poisoned (R387). -/
def State.gatheredBad (s : State) (o : JobOwner) (off n : Nat) : Bool :=
  s.pkg.lines.any fun g => g.owner == o && g.bad.any fun w => decide (g.off / 8 * 8 + 8 * w < off + n) && decide (off < g.off / 8 * 8 + 8 * w + 8)

/-- The poisoned 8-byte words of n bytes at a key, counted from the word of the first byte (R387). -/
def Memory.badWords (m : Memory) (key n : Nat) : List Nat :=
  (List.range ((key + n + 7) / 8 - key / 8)).filter fun i => m.poison.contains (key / 8 + i)

/-- The words of n bytes at a key that a list names are poisoned (R387). -/
def Memory.markWords (m : Memory) (key : Nat) (bad : List Nat) : Memory :=
  bad.foldl (fun m i => m.markPoison (8 * (key / 8 + i)) 8) m

/-- Errors corrected in a unit's read: a station's save or load counts them at that station, another unit at the partition's fault station
(R386; log entry 133). -/
def State.correctJob (s : State) (j : LineJob) (key : Nat) : State :=
  match j.owner with
  | .station k => s.correct k key (List.range j.n)
  | .log k => s.correct k key (List.range j.n)
  | .page .. =>
    s.correctFor j.part j.port key j.n

/-- Bank bytes below 0xF_8000 that no range keeps take free values (R208; log entry 31). -/
def State.forgetBank (s : State) (k : Nat) (keep : List (Nat × Nat)) : State :=
  let (x, s) := s.draw
  { s with mem := s.mem.writeAt (bankKey k 0) (((List.range 0xF_8000).filter fun o => keep.all fun (a, n) => decide (o < a) || decide (a + n ≤ o)).map fun o =>
    (o, BitVec.ofNat 8 (x / 2 ^ (8 * o)))) }

/-- A line access of a unit is made, by physical address (R48, R49, R195). What it reads goes where it belongs. -/
def State.doJob (s : State) (j : LineJob) : State :=
  let key := s.physKey .resident j.ph
  let s := s.serve j.ph
  let drop := fun (s : State) => { s with pkg := { s.pkg with jobs := s.pkg.jobs.filter (·.id != j.id) } }
  match j.use with
  | .store bs bad => let s := s.poke key bs; drop { s with mem := s.mem.markWords key bad }
  | .copyTo ph =>
    let s := s.correctJob j key
    let next : LineJob := { j with ph := ph, use := .store (s.mem.readN key j.n) (s.mem.badWords key j.n) }
    { s with pkg := { s.pkg with jobs := s.pkg.jobs.map fun x => if x.id = j.id then next else x } }
  | .gather off =>
    let s := s.correctJob j key
    let s := { s with pkg := { s.pkg with lines := s.pkg.lines ++ [⟨j.owner, off, s.mem.readN key j.n, s.mem.badWords key j.n⟩] } }
    drop s
  | .forget keep => match j.ph with
    | .bank k _ => drop (s.forgetBank k keep)
    | _ => drop s

/-- A line of the stack that has an access still to be made. -/
def State.lineWaits (s : State) (a : Nat) : Bool := s.pkg.jobs.any fun j => match j.ph with
  | .stack b => b / 256 == a / 256
  | _ => false

/-- A line access of a unit may be made: its place has done none in this cycle (R48, R56, R58, R59), and those of the same line that were
left before it have been made; the bank is left to free values once the unit's other accesses have been made (R208). -/
def State.jobReady (s : State) (j : LineJob) : Bool :=
  !s.placeTaken j.ph && (s.pkg.jobs.all fun e => decide (j.id ≤ e.id) || match e.ph, j.ph with
    | .stack a, .stack b => a / 256 != b / 256
    | .bank k a, .bank l b => k != l || a / 256 != b / 256
    | _, _ => true) && match j.use with
    | .forget _ => (s.jobsOf j.owner).all (·.id == j.id)
    | _ => true

/-- A line access of a unit, where it still may be made in this cycle. -/
def State.runJob (s : State) (id : Nat) : State :=
  match s.pkg.jobs.find? (·.id == id) with
  | none => s
  | some j => if s.jobReady j then s.doJob j else s

end Sys2Proof.Machine
end

