-- ==== Sys2Proof/Machine/Link.lean ====
section
/-!
DEFINITION. What leaves the package for its peers and its host: the exposure log, request packets with their sequence numbers,
requests to the host; and the commands of the fabric engine as the untimed operations see them (R120, R349, R358 to R363, R370, R371,
R391, R393).
-/

namespace Sys2Proof.Machine

/-! ### CRC-32 -/

/-- One bit of CRC-32, reflected (R142). -/
def crcBit (c : Word) : Word := if c.getLsbD 0 then (c >>> 1) ^^^ 0xEDB8_8320 else c >>> 1

/-- One byte of CRC-32 (R142). -/
def crcByte (c : Word) (b : Byte) : Word := Nat.repeat crcBit 8 (c ^^^ b.zeroExtend 32)

/-- The CRC register after some bytes, from 0xFFFF_FFFF on (R142). -/
def crcRun (c : Word) (bs : List Byte) : Word := bs.foldl crcByte c

/-- CRC-32 of some bytes (R142). -/
def crc32 (bs : List Byte) : Word := ~~~(crcRun 0xFFFF_FFFF bs)

/-! ### The exposure log -/

/-- An exposed operation, before its sequence number is known (R391). -/
structure Exposed where
  node : Nat
  off : Nat
  obj : Nat
  len : Nat
  opk : Nat
  scope : Nat
  host : Bool
  crc : Word

/-- The first 24 bytes of its log entry, but for SEQ. -/
def Exposed.words (x : Exposed) : Nat × Nat × Nat :=
  (x.node * 2 ^ 54 + x.off % 2 ^ 48, x.obj % 2 ^ 22 * 2 ^ 42 + x.len % 2 ^ 10 * 2 ^ 32 + x.opk * 2 ^ 11 + x.scope * 2 ^ 8 + b2n x.host * 2 ^ 7,
    x.crc.toNat * 2 ^ 32)

/-- Capacity of a station's exposure log. -/
def State.logSize (s : State) (k : Stn) : Nat := 2 ^ bitsOf (s.stn k).trap.exlcfg 56 52

/-- Stack address of entry i of a station's exposure log, which is aligned to its size: the low bits of BASE do not count (log entry
129). -/
def State.logAt (s : State) (k : Stn) (i : Nat) : Nat :=
  let n := s.logSize k * 32
  bitsOf (s.stn k).trap.exlcfg 17 0 * 65536 / n * n + i * 32

/-- EXLST changed. -/
def State.onExlst (s : State) (k : Stn) (f : DWord → DWord) : State := s.onStn k fun t => { t with trap := { t.trap with exlst := f t.trap.exlst } }

/-- What becomes of an exposed operation: it goes out, with its entry in the log; it was logged before, with this sequence number; it
differs from the log (R391, R393). -/
inductive Exposure where
  | fresh (log : Option (Stn × Nat))
  | again (seq : Nat) (log : Stn × Nat)
  | diverged

/-- The stack address of the log entry that a station's next exposed operation reads or writes, if any (R391, R393). -/
def State.logLine (s : State) (k : Stn) : Option Nat :=
  let t := (s.stn k).trap
  if bitOf t.exlst 62 then some (s.logAt k (bitsOf t.exlst 41 21))
  else if bitOf t.exlcfg 63 = true ∧ bitsOf t.exlst 20 0 < s.logSize k then some (s.logAt k (bitsOf t.exlst 20 0))
  else none

/-- The channel of that entry takes no access in this cycle: the operation waits (R56, R59). -/
def State.logTaken (s : State) (k : Stn) : Bool := (s.logLine k).any fun a => s.placeTaken (.stack a)

/-- An exposed operation is logged with its sequence number, or compared with the log during replay (R391, R393). -/
def State.expose (s : State) (k : Stn) (x : Exposed) (seq : Nat) : Exposure × State :=
  let t := (s.stn k).trap
  let (w0, w1, w2) := x.words
  let s := ((s.logLine k).map fun a => s.serve (.stack a)).getD s
  if bitOf t.exlst 62 then
    let i := bitsOf t.exlst 41 21
    let a := s.logAt k i
    let v1 := s.stackNat (a + 8) 8
    if s.stackNat a 8 = w0 ∧ v1 - nbits v1 31 16 * 2 ^ 16 = w1 ∧ s.stackNat (a + 16) 8 = w2 then
      (.again (nbits v1 31 16) (k, i), s.onExlst k fun v =>
        putBit (putBits v 41 21 (i + 1)) 62 (decide (i + 1 < bitsOf v 20 0)))
    else
      (.diverged, (s.onExlst k fun v => putBit v 62 false).lateTrap k 0x13 2 (s.groupAt k))
  else if bitOf t.exlcfg 63 = false then (.fresh none, s)
  else
    let n := bitsOf t.exlst 20 0
    if s.logSize k ≤ n then (.fresh none, s.onExlst k fun v => putBit v 63 true)
    else
      (.fresh (some (k, n)),
        (s.poke (stackKey (s.logAt k n)) (leBytes 8 w0 ++ leBytes 8 (w1 + seq * 2 ^ 16) ++ leBytes 8 w2 ++ leBytes 8 0)).onExlst k fun v =>
          putBits v 20 0 (n + 1))

/-- The result of an atomic for its entry of the log, when the reply lands: the memory port writes it once the channel is free (R59,
R391). -/
def State.logResult (s : State) (log : Option (Stn × Nat)) (v : Nat) : State :=
  match log with
  | some (k, i) => s.addJobs (.log k) (clusterOf k) (s.partOf k) (storeJobs (s.logAt k i + 24) (leBytes 8 v) false)
  | none => s

/-- The result that an entry of the log holds. -/
def State.logged (s : State) (log : Stn × Nat) : Nat := s.stackNat (s.logAt log.1 log.2 + 24) 8

/-! ### Packets -/

/-- The device header of a packet (R359). -/
def packetHeader (x : Packet) : BitVec 128 :=
  BitVec.ofNat 128 (x.seq % 2 ^ 16 * 2 ^ 112 + x.cls % 4 * 2 ^ 110 + x.opk % 32 * 2 ^ 105 + x.orig % 1024 * 2 ^ 95 + x.opart % 16 * 2 ^ 91 +
    x.ctx % 2 ^ 16 * 2 ^ 75 + b2n (x.peers != []) * 2 ^ 74 + x.chx % 16 * 2 ^ 70 + b2n x.cmp * 2 ^ 69 + x.cfmt % 8 * 2 ^ 66 +
    x.rsv % 2 ^ 18 * 2 ^ 48 + x.rseq % 2 ^ 16 * 2 ^ 32 + x.arg % 2 ^ 32)

/-- A packet that a receiver discards: of CLASS 11, of a kind that the device does not use in that class, or with a reserved field that
is not zero (R357, R359). -/
def unusable (x : Packet) (cls : Nat) : Bool :=
  x.cls != cls || x.rsv % 2 ^ 18 != 0 ||
    (if cls = 0 then x.opk == 0 || decide (5 < x.opk) else x.opk != 0x10 && x.opk != 0x11 && x.opk != 0x12)

/-- The fabric engine changed. -/
def State.onFab (s : State) (f : Fabric → Fabric) : State := { s with pkg := { s.pkg with fab := f s.pkg.fab } }

/-- What is kept of a peer: both sequence numbers 0, and the plane before plane 0, until packets pass (R358, R362). -/
def State.peer (s : State) (n : Nat) : PeerLink := (s.pkg.fab.peers.find? (·.node == n)).getD ⟨n, 0, 0, 15, [], []⟩

/-- What is kept of a peer, changed. -/
def State.onPeer (s : State) (n : Nat) (f : PeerLink → PeerLink) : State :=
  let p := f (s.peer n)
  s.onFab fun x => { x with peers := x.peers.filter (·.node != n) ++ [p] }

/-- Plane i is up (R358). -/
def State.planeUp (s : State) (i : Nat) : Bool := bitOf s.pkg.fab.fplane (i % 16)

/-- The next plane that is up after one, in ascending order (R358). -/
def State.nextPlane (s : State) (last : Nat) : Option Nat :=
  ((List.range 16).map fun i => (last + 1 + i) % 16).find? s.planeUp

/-- FABTO.TO (R358). -/
def State.fabTO (s : State) : Nat := if bitsOf s.pkg.fab.fabto 31 0 = 0 then 2 ^ 32 else bitsOf s.pkg.fab.fabto 31 0

/-- A packet put on a plane; a package with no plane up sends nothing. -/
def State.emit (s : State) (x : Packet) : State :=
  match s.nextPlane (s.peer x.dst).plane with
  | none => s
  | some i =>
    let s := if x.cls = 0 ∧ x.orig = s.nodeId then s.count x.opart 0x12 1 else s
    { s.onPeer x.dst fun p => { p with plane := i } with out := s.out ++ [.packet { x with plane := i }] }

/-- Another request packet may go to a peer: at most 32,768 are unanswered, and 64 of them atomics (R120, R363). -/
def State.mayRequest (s : State) (n : Nat) (atomic : Bool) : Bool :=
  let l := s.pkg.fab.unacked.filter fun u => u.pkt.dst == n
  decide (l.length < 32768) && (!atomic || decide ((l.filter fun u => u.pkt.opk == 3).length < 64)) && (List.range 16).any s.planeUp

/-- A request packet sent for the first time, with its sequence number, which a multicast packet carries along its chain as RSEQ, and
awaited (R120, R345, R358, R361; log entry 131). -/
def State.request (s : State) (x : Packet) (op piece : Nat) (log : Option (Stn × Nat)) (fwd : Option Packet) : State :=
  let n := (s.peer x.dst).next
  let x := { x with seq := n.toNat, rseq := if x.peers ≠ [] ∧ fwd.isNone then n.toNat else x.rseq }
  (s.onPeer x.dst fun p => { p with next := n + 1 }).emit x |>.onFab fun f =>
    { f with unacked := f.unacked ++ [⟨x, s.cyc, s.cyc, 0, op, piece, log, none, fwd⟩] }

/-- The exposed operation of a request packet (R391). -/
def exposedOf (x : Packet) : Exposed := ⟨x.dst, x.off, x.obj, x.len, x.opk, 4, false, crc32 x.data⟩

/-- A request packet of a station's work: logged, or replayed with its logged sequence number (R391, R393). -/
def State.requestFor (s : State) (k : Stn) (x : Packet) (op piece : Nat) : State :=
  match s.expose k (exposedOf x) (s.peer x.dst).next.toNat with
  | (.diverged, s) => s
  | (.fresh log, s) => s.request x op piece log none
  | (.again n log, s) =>
    let x := { x with seq := n, rseq := if x.peers ≠ [] then n else x.rseq }
    (s.emit x).onFab fun f => { f with unacked := f.unacked ++ [⟨x, s.cyc, s.cyc, 0, op, piece, some log, some (s.logged log), none⟩] }

/-! ### Requests to the host -/

/-- The flow that carries a request to the host (R370, R371). -/
def hostKind (write : Bool) (a n : Nat) (atom : Option Atom) : HostKind :=
  match atom with
  | some x => if x.cas then .cas else if x.op = 6 then .swap else .fetchAdd
  | none => if write = false then .rdCurr else if a % 64 = 0 ∧ n = 64 then .itoMWr else .woWrInv

/-- The operands of an atomic as they are sent. -/
def Atom.bytes (a : Atom) : List Byte := leBytes a.size a.opnd.toNat ++ if a.cas then leBytes a.size a.newv.toNat else []

/-- A request to the host, which its completion will end (R370, R371). A replayed atomic is not sent again: its logged result is given
(R393). -/
def State.hostRequest (s : State) (k : Option Stn) (op piece : Nat) (write : Bool) (a n : Nat) (atom : Option Atom) (data : List Byte) :
    State × Option Nat :=
  let send := fun (s : State) (log : Option (Stn × Nat)) =>
    let r : HostReq := ⟨hostKind write a n atom, s.nextId, op, piece, write, a, n, atom, data, log⟩
    { s with nextId := s.nextId + 1, out := s.out ++ [.hostRequest r]
             pkg := { s.pkg with hostl := { s.pkg.hostl with waiting := s.pkg.hostl.waiting ++ [r] } } }
  let opk := if atom.isSome then 3 else if write then 1 else 2
  match k with
  | none => (send s none, none)
  | some k => match s.expose k ⟨s.nodeId, a, 0, n, opk, 4, true, crc32 ((atom.map Atom.bytes).getD data)⟩ 0 with
    | (.diverged, s) => (s, none)
    | (.fresh log, s) => (send s log, none)
    | (.again _ log, s) => if atom.isSome then (s, some (s.logged log)) else (send s (some log), none)

/-! ### Fabric commands and replays -/

/-- A fabric command changed. -/
def State.onFCmd (s : State) (id : Nat) (f : FCmd → FCmd) : State :=
  s.onFab fun x => { x with cmds := x.cmds.map fun c => if c.id = id then f c else c }

/-- A fabric command by its identity number. -/
def State.fcmd (s : State) (id : Nat) : Option FCmd := s.pkg.fab.cmds.find? (·.id == id)

/-- The outcome of a fabric command becomes known: the first one decides (R340). -/
def State.endFCmd (s : State) (id status ecode : Nat) : State :=
  s.onFCmd id fun c => if c.status = 0 then { c with status := status, ecode := ecode } else c

/-- The operations of some owners are killed: what has not been sent is discarded. -/
def State.killOps (s : State) (f : UOp → Bool) : State :=
  let (x, s) := s.draw
  { s with uops := s.uops.map fun (u : UOp) => if f u then u.kill x else u }.reap

/-- A graph slot. -/
def State.slot (s : State) (n : Nat) : GSlot := s.pkg.graphs[n % 64]'(Nat.mod_lt _ (by decide))

/-- A graph slot changed. -/
def State.onSlot (s : State) (n : Nat) (f : GSlot → GSlot) : State :=
  { s with pkg := { s.pkg with graphs := s.pkg.graphs.set (n % 64) (f (s.slot n)) (Nat.mod_lt _ (by decide)) } }

/-- GSLOT, PMASK and PE of a graph descriptor (R347). -/
def gdSlot (d : Nat) : Nat := nbits d 75 70
def gdMask (d : Nat) : Nat := nbits d 69 62
def gdPe (d : Nat) : Bool := nbits d 61 61 == 1

/-- The named bases of a patch replace those of another (R347). -/
def patched (old : List Cap) (new : List (Nat × Cap)) : List Cap :=
  old.zipIdx.map fun (c, i) => ((new.find? (·.1 == i)).map (·.2)).getD c

/-- The named bases of a command's patch. -/
def FCmd.patch (c : FCmd) : List (Nat × Cap) :=
  (c.caps.zipIdx.filter fun x => (gdMask c.bits).testBit x.2).map fun (x, i) => (i, x)

/-- The bases that the replay of a `grun` uses, or will use when it starts (R347). -/
def State.replayCaps (s : State) (f : FCmd) : List Cap :=
  let g := s.slot (gdSlot f.bits)
  let p := if g.shf then patched g.patch g.shadow else g.patch
  if g.runner = some f.id then (if g.startAt.isNone then g.active else p)
  else if gdPe f.bits then patched p f.patch else p

/-- A record of a replay: the command whose replay it is gives the station, the instruction and the descriptor (R400). -/
def State.replayRecord (s : State) (n sub status : Nat) : State :=
  match (s.slot n).runner.bind s.fcmd with
  | some c => s.evenRecord c.k 4 sub 7 c.pc (status + n * 256) c.desc
  | none => s

/-- A replay is aborted (R349): the `grun` whose replay it was ends with the status and the code given, a pending
one with STATUS 100. -/
def State.abortReplay (s : State) (n cause frank status code : Nat) : State :=
  let g := s.slot n
  if g.st ≠ .running then s
  else
    let s := s.replayRecord n 3 status
    let s := match g.runner with
      | some c => s.endFCmd c status code
      | none => s
    let s := match g.pend with
      | some c => s.endFCmd c 4 0
      | none => s
    let s := s.onSlot n fun g => { g with
      st := .aborted, cause := cause, frank := frank, pend := none, runner := none, runs := (g.runs + 1) % 2 ^ 32, own := none
      startAt := none, arrived := g.arrived.filter fun a => a.2 != g.bph.toNat }
    s.killOps fun u => match u.owner with
      | .graph m _ => m == n
      | _ => false

end Sys2Proof.Machine
end

