-- ==== Sys2Proof/Machine/UntimedRun.lean ====
section
/-!
DEFINITION. Untimed operations under way: when a part may be performed, and its performance at its place (R22, R35 to R41, R47 to R49,
R100, R102, R104 to R110, R113 to R118, R125, R129, R137, R139, R140, R342, R365, R370, R371, R385 to R387).
-/

namespace Sys2Proof.Machine

/-! ### Parts -/

/-- A piece of the operation is read from somewhere. -/
def UOp.reads (u : UOp) (p : UPiece) : Bool :=
  decide (0 < p.srcLen) && (u.src.isSome || u.seg.isSome || match u.owner with
    | .mail .. => true
    | .gstat .. => true
    | _ => false)

/-- A side of a piece is not finished: its read (false) or its write (true). -/
def UOp.open_ (u : UOp) (p : UPiece) (w : Bool) : Bool :=
  if w then u.dst.isSome && p.st != .done && p.st != .failed else u.reads p && (p.st == .idle || p.st == .reading)

/-- The queue of a side (R104). -/
def UOp.queue (u : UOp) (w : Bool) : Nat := if w then u.wq else u.rq

/-- A leaf entry that says of a page what the pin table says (R32). -/
def pinnedLeaf (aplace : Nat) (ord : Bool) : Nat := aplace * 2 ^ 106 + b2n ord * 2 ^ 105

/-- The next part of a side of a piece: what its translation finds without changing a table, its offset and its length. A part in an own
object is an aligned 16-byte part, and in a relaxed host frame lies in one 64-byte line (R99, R110, R370); one at a peer, where a
capability or a leaf entry places it, is at most a packet (R41, R100, R358); a message is read from its slot whole (R190, R374). -/
def State.partAt (s : State) (u : UOp) (p : UPiece) (w : Bool) : Walked × Nat × Nat :=
  let o := (if w then p.dst else p.src) + p.sent
  let left := (if w then p.dstLen else p.srcLen) - p.sent
  let near := min left (16 - o % 16)
  match u.pinned, u.seg, (if w then u.dst else u.src) with
  | some (ph, aplace, ord), _, _ => (.at_ ph (pinnedLeaf aplace ord) 0, o, left)
  | none, some (l, g), none => (.at_ (.stack (((s.rline l).slotAddr g 0 + o) % 2 ^ 34)) 0 0, o, near)
  | none, _, some loc =>
    if loc.node ≠ s.nodeId then (.at_ (.peer loc.node loc.obj o) 0 0, o, min left 256)
    else match s.look u.part loc.obj o near with
      | .at_ (.host a) e _ =>
        let n := if leafOrd e then near else min left (64 - a % 64)
        (s.look u.part loc.obj o n, o, n)
      | .at_ (.peer _ _ off) e _ =>
        let n := if leafOrd e then near else min left (256 - off % 256)
        (s.look u.part loc.obj o n, o, n)
      | x => (x, o, near)
  | none, none, none => (.at_ (.stack o) 0 0, o, match u.owner with
    | .mail .. => left
    | _ => near)

/-- The home of a page in transit, which may be any node (R119). -/
def anyHome : Nat := 1025

/-- The node that is home to a place; 1,024 stands for the host (R96). -/
def State.homeOf (s : State) : Walked → Nat
  | .at_ (.peer n _ _) _ _ => n
  | .at_ (.host _) _ _ => 1024
  | .transit => anyHome
  | _ => s.nodeId

/-- Two homes are the same, or may prove to be. -/
def sameHome (a b : Nat) : Bool := a == b || a == anyHome || b == anyHome

/-- A place lies in the home region of a scope of station k (R98). The place of a page that is absent or in transit may lie in any home
region. -/
def inRegion (k : Stn) (scope : Nat) : Walked → Bool
  | .at_ (.bank j _) _ _ => match scope with
    | 0 => false
    | 1 => j == k.val
    | 2 => j / 96 == clusterOf k
    | _ => true
  | .at_ (.stack _) _ _ => decide (2 ≤ scope)
  | .at_ _ _ _ => decide (4 ≤ scope)
  | _ => decide (1 ≤ scope)

/-- The place of a byte that a capability names, without its walk's effects. -/
def State.placeOf (s : State) (p node obj o : Nat) : Walked :=
  if node ≠ s.nodeId then .at_ (.peer node obj o) 0 0 else s.look p obj o 1

/-- The places that the operations of a `grun` which have not started will access on a side, page by page (R104, R367). -/
def State.replayPlaces (s : State) (f : FCmd) (w : Bool) : List Walked :=
  let g := s.slot (gdSlot f.bits)
  let caps := s.replayCaps f
  let live := g.runner == some f.id && g.startAt.isNone
  (g.ops.zipIdx.filter fun (o, i) => o.rank == g.rank && o.kind != 3 && !(live && g.started.getD i false)).flatMap fun (o, _) =>
    let c := caps.getD (if w then o.db else o.sb) Cap.null
    let a := c.cursor + if w then o.doff else o.soff
    (List.range (o.len / 65536 + 2)).map fun j => s.placeOf (g.part.getD 0) c.node c.obj (a + min (65536 * j) (o.len - 1))

/-- `gstat` reads the fabric engine and no location, so no home orders it (R96, R105, R348). -/
def UOp.homeless (u : UOp) : Bool :=
  match u.owner with
  | .gstat .. => true
  | _ => false

/-- The peers that a multicast descriptor names (R345). -/
def mcastPeers (d : Nat) : List Nat := (List.range (nbits d 259 256)).map fun i => nbits d (273 + 10 * i) (264 + 10 * i)

/-- Places beyond those of its own pieces that an operation is still to access on a side: a `grun` stands in the queues for its whole
replay (R104), and the writes of a multicast to each later peer of its chain have that peer as their home (R345). -/
def State.widePlaces (s : State) (u : UOp) (w : Bool) : List Walked :=
  match u.owner with
  | .fabric c => match s.fcmd c with
    | some f =>
      if f.op = 7 ∧ f.status = 0 then s.replayPlaces f w
      else if f.op = 4 ∧ w = true ∧ u.pieces.any (u.open_ · true) = true then
        ((mcastPeers f.bits).drop 1).map fun n => .at_ (.peer n ((u.dst.map (·.obj)).getD 0) 0) 0 0
      else []
    | none => []
  | _ => []

/-- The places of what is left of a side of a piece: that of its next part, and of the first byte of each further page (R105). -/
def State.restPlaces (s : State) (u : UOp) (p : UPiece) (w : Bool) : List Walked :=
  let o := (if w then p.dst else p.src) + p.sent
  let left := (if w then p.dstLen else p.srcLen) - p.sent
  (s.partAt u p w).1 :: match u.pinned, (if w then u.dst else u.src) with
    | none, some loc =>
      let t := o + if loc.node = s.nodeId then descBase (s.descriptor u.part loc.obj) else 0
      (List.range ((t + left - 1) / 65536 - t / 65536)).map fun j => s.placeOf u.part loc.node loc.obj (o + (65536 - t % 65536) + 65536 * j)
    | _, _ => []

/-- The places of a side of an operation that are still to be accessed, with their homes. -/
def State.pendingPlaces (s : State) (u : UOp) (w : Bool) : List (Walked × Nat) :=
  if u.homeless then []
  else (s.widePlaces u w ++ (u.pieces.filter fun p => u.open_ p w).flatMap fun p => s.restPlaces u p w).map fun x => (x, s.homeOf x)

/-- The request packet that an operation performs for a peer. -/
def State.serving (s : State) (id : Nat) : Option Packet := (s.pkg.fab.serving.find? (·.1 == id)).map (·.2)

/-- The atomic that an operation makes at its destination, if any: a conductor's, or that of `famo` or `facas` (R249, R344). -/
def State.atomOf (s : State) (u : UOp) : Option Atom :=
  match u.owner with
  | .atom a _ => some a
  | .fabric c => match s.fcmd c with
    | some f => if f.op = 2 ∨ f.op = 3 then
        some ⟨nbits f.bits 75 73, if nbits f.bits 72 72 = 1 then 8 else 4, f.op == 3, BitVec.ofNat 64 (nbits f.bits 191 128), BitVec.ofNat 64 (nbits f.bits 255 192)⟩
      else none
    | none => none
  | .serve => match s.serving u.id with
    | some x => if x.opk = 3 then some ⟨x.aop % 8, x.asz, x.aop == 8, x.opnd, x.newv⟩ else none
    | none => none
  | .window a _ => a
  | _ => none

/-! ### Order -/

/-- The last part of a side of a piece has left for a peer, which performs it in the order of its sequence number (R120). -/
def State.underWay (s : State) (u : UOp) (p : UPiece) (w : Bool) : Bool :=
  (p.st == if w then .writing else .reading) && match s.partAt u p w with
    | (.at_ (.peer ..) _ _, _, n) => decide ((if w then p.dstLen else p.srcLen) ≤ p.sent + n)
    | _ => false

/-- The homes at which a side of an operation still has parts to perform or to send (R105). -/
def State.homesHeld (s : State) (u : UOp) (w : Bool) : List Nat :=
  if u.homeless then []
  else (s.widePlaces u w ++ (u.pieces.filter fun p => u.open_ p w && !s.underWay u p w).flatMap fun p => s.restPlaces u p w).map s.homeOf

/-- An earlier operation of the queue with the same home holds a part (R105). -/
def State.queueHolds (s : State) (u : UOp) (w : Bool) (home : Nat) : Bool :=
  let q := u.queue w
  decide (q < 8) && !u.homeless && s.uops.any fun e => e.qset == u.qset && decide (e.seq < u.seq) && [false, true].any fun v =>
    e.queue v == q && (s.homesHeld e v).any (sameHome home)

/-- A timed access of station k issued before a cycle has not been performed (R108). -/
def State.timedBefore (s : State) (k : Stn) (c : Nat) : Bool :=
  s.txns.any fun x => x.k == k && decide (x.issue < c) && x.parts.any fun p => p.st == .sent || p.st == .atPort

/-- A marker holds a part behind it (R106, R108); what is held when its context is saved stays held until the context is restored
(R109). -/
def State.markerHolds (s : State) (u : UOp) (w : Bool) (home : Nat) : Bool :=
  let q := u.queue w
  decide (q < 8) && s.markers.any fun m => m.qset == u.qset && decide (m.seq < u.seq) && m.mask.testBit q &&
    (decide (384 ≤ m.qset) || (m.tm && s.timedBefore m.k m.issue) ||
      s.uops.any fun e => e.qset == u.qset && decide (e.seq < m.seq) && [false, true].any fun v =>
        decide (e.queue v < 8) && m.mask.testBit (e.queue v) && (s.pendingPlaces e v).any fun x => sameHome x.2 home || inRegion u.k m.scope x.1)

/-- A translation that found a strongly ordered page, or is held (R110). -/
def strong : Walked → Bool
  | .at_ _ e _ => leafOrd e
  | .transit => true
  | .fault _ => false

/-- An earlier access of the engine to a strongly ordered page, or one of unknown order, holds a part on such a page (R110). -/
def State.orderHolds (s : State) (u : UOp) (i : Nat) (w : Bool) (x : Walked) : Bool :=
  strong x && s.uops.any fun e => e.qset == u.qset && e.eng == u.eng && e.pieces.zipIdx.any fun (p, j) => [false, true].any fun v =>
    e.open_ p v && (s.restPlaces e p v).any strong &&
      (decide (e.seq < u.seq) || (e.id == u.id && v == w && decide (j < i)) ||
        ((e.id != u.id || j != i) && (p.st == .reading || p.st == .writing)))

/-- A parked command holds the parts that still stand in its channel's queues (R140). -/
def State.parkHolds (s : State) (u : UOp) (p : UPiece) : Bool :=
  match u.owner with
  | .copy ch _ => !p.gone && s.uops.any fun e => e.k == u.k && e.parked && decide (e.seq ≤ u.seq) && (match e.owner with
    | .copy c _ => c == ch
    | _ => false)
  | _ => false

/-- A fabric command's operation may be worked on: it has been accepted, and nothing has ended it (R340). -/
def State.fabricHolds (s : State) (u : UOp) : Bool :=
  match u.owner with
  | .fabric c => match s.fcmd c with
    | some x => !x.accepted
    | none => true
  | _ => false

/-- Blocks reach a scale-selection unit in stream order, and one of the fabric engine in the order of acceptance (R77, R364). -/
def State.scaleHolds (s : State) (u : UOp) (i : Nat) (p : UPiece) : Bool :=
  u.ssu.isSome && decide (p.srcLen ≤ p.sent + (s.partAt u p false).2.2) &&
    ((u.pieces.take i).any (fun q => u.open_ q false) ||
      match u.owner with
      | .fabric c => s.uops.any fun e => e.part == u.part && e.ssu == u.ssu && e.pieces.any (fun q => e.open_ q false) &&
          match e.owner with
          | .fabric d => decide (((s.fcmd d).map (·.unit)).getD 0 < ((s.fcmd c).map (·.unit)).getD 0) && ((s.fcmd d).map (·.accepted)).getD false
          | _ => false
      | _ => false)

/-- A read for a landing bay: it needs RES = 10, and a page that lacks it gives a void reply at once (R39). -/
def State.bayRead (s : State) (u : UOp) : Bool :=
  match u.owner with
  | .rld .. => true
  | _ => ((s.serving u.id).map (·.pinned)).getD false

/-- A side of a piece has a part to be performed next. -/
def UOp.next_ (u : UOp) (p : UPiece) (w : Bool) : Bool :=
  if w then u.dst.isSome && (p.st == .held || (p.st == .idle && !u.reads p)) else p.st == .idle && u.reads p

/-- The cluster whose memory port translates for an operation: the station's, and that of cluster 0 for a block transfer, for a peer and
for the host (log entry 16). -/
def UOp.port (u : UOp) : Nat :=
  match u.owner with
  | .bt .. => 0
  | .serve => 0
  | .window .. => 0
  | _ => clusterOf u.k

/-- A piece holds a chunk of its port's parking store: it is parked there, or room is reserved for the replies that its chunk awaits or for
the bytes that they brought (R139, R360). -/
def State.holdsChunk (s : State) (u : UOp) (p : UPiece) : Bool :=
  p.stop.isSome || p.st == .reading || (p.far && p.st != .done && p.st != .failed) || (p.st == .writing && (s.atomOf u).isSome)

/-- The 512-byte chunks of an operation that take room in the parking store (R139). -/
def State.chunksHeld (s : State) (u : UOp) : List Nat := ((u.pieces.filter (s.holdsChunk u)).map fun p => p.pos / 512).eraseDups

/-- The parking store of a port has room for another chunk: it holds 1,024 (R139). -/
def State.parkRoom (s : State) (port : Nat) : Bool :=
  decide (((s.uops.filter fun u => u.port == port).map fun u => (s.chunksHeld u).length).sum < 1024)

/-- Room is reserved for the whole chunk that a piece belongs to, before its first request packet is sent (R139, R360; log entry 139). -/
def State.chunkRoom (s : State) (u : UOp) (p : UPiece) : Bool := (s.chunksHeld u).contains (p.pos / 512) || s.parkRoom u.port

/-- Of the parts of a partition that are tried again, those that arrived earlier are performed, or fail, first (R139). -/
def State.retryHolds (s : State) (u : UOp) (p : UPiece) : Bool :=
  p.rep.any fun n => s.uops.any fun e => e.part == u.part && e.pieces.any fun q =>
    q.stop.isNone && q.st != .done && q.st != .failed && q.rep.any fun m => decide (m < n)

/-- An earlier atomic of the host is still to be performed (R373). -/
def State.windowHolds (s : State) (u : UOp) : Bool :=
  match u.owner with
  | .window (some _) _ => s.uops.any fun e => decide (e.id < u.id) && match e.owner with
    | .window (some _) _ => true
    | _ => false
  | _ => false

/-- Bytes of a 512-byte chunk that a piece belongs to are still to be read: nothing of a chunk is sent before it is known whether it
holds poison (R387). -/
def UOp.chunkOpen (u : UOp) (p : UPiece) : Bool := u.pieces.any fun q => q.pos / 512 == p.pos / 512 && u.open_ q false

/-- Some piece of a chunk carries poison (R387). -/
def UOp.chunkPoison (u : UOp) (p : UPiece) : Bool := p.poison || u.pieces.any fun q => q.pos / 512 == p.pos / 512 && q.poison

/-- The homes that order a part: its own, and of a multicast's write those of the later peers (R105, R345). -/
def State.partHomes (s : State) (u : UOp) (w : Bool) (x : Walked) : List Nat :=
  s.homeOf x :: match u.owner with
    | .fabric _ => (s.widePlaces u w).map s.homeOf
    | _ => []

/-- The station on whose behalf an operation is performed, if any. -/
def UOp.station (u : UOp) : Option Stn :=
  match u.owner with
  | .bt .. => none
  | .serve => none
  | .window .. => none
  | _ => some u.k

/-- A request waits for the channel of its entry in the exposure log (R59, R391). -/
def State.logHolds (s : State) (u : UOp) : Bool := u.station.any s.logTaken

/-- A part may be performed in the current cycle. -/
def State.partReady (s : State) (u : UOp) (i : Nat) (w : Bool) : Bool :=
  match u.pieces[i]? with
  | none => false
  | some p =>
    let x := (s.partAt u p w).1
    let atomic := (s.atomOf u).isSome || u.owner == .flag
    let room := (w && !atomic) || s.chunkRoom u p
    u.next_ p w && decide (u.issue < s.cyc) && p.stop.isNone && !s.retryHolds u p && !s.parkHolds u p && !s.fabricHolds u && !s.windowHolds u &&
      (s.partHomes u w x).all (fun h => !s.queueHolds u w h && !s.markerHolds u w h) && !s.orderHolds u i w x &&
      (w || !s.scaleHolds u i p) &&
      match x with
      | .transit => s.bayRead u
      | .fault _ => true
      | .at_ (.peer n _ _) _ _ => s.mayRequest n atomic && room && !(w && u.chunkOpen p) && !s.logHolds u
      | .at_ (.host _) _ _ => room && !(w && u.chunkOpen p) && !s.logHolds u
      | .at_ ph _ _ => !s.placeTaken ph

/-! ### Faults -/

/-- The host attachment changed. -/
def State.onHost (s : State) (f : HostLink → HostLink) : State := { s with pkg := { s.pkg with hostl := f s.pkg.hostl } }

/-- A refused window access sets HWERR; the first since the last clear leaves its cause and offset (R372). -/
def State.hostRefused (s : State) (cause off : Nat) : State :=
  s.onHost fun h =>
    if bitOf h.hwerr 63 then h else { h with hwerr := BitVec.ofNat 64 (2 ^ 63 + cause * 2 ^ 60 + off % 2 ^ 40) }

/-- Place of an operation for a fault record: its object and node. -/
def UOp.target (u : UOp) (w : Bool) : Nat × Nat := ((if w then u.dst else u.src).map fun l => (l.obj, l.node)).getD (0, 0)

/-- A record of a fault of an operation (R384). -/
def State.faultOf (s : State) (u : UOp) (w : Bool) (kind code : Nat) (rep : Bool) (unit off arg : Nat) : State :=
  let (obj, node) := u.target w
  s.faultRecord u.part ⟨kind, code, rep, u.k.val, unit, (s.teamOf u.k).getD 0, obj, node, off, arg⟩

/-- A piece changed, of an operation of the state. -/
def State.onUPiece (s : State) (id i : Nat) (f : UPiece → UPiece) : State := s.onUOp id fun u => u.onPiece i f

/-- A copy command parks on a memory fault (R140). -/
def State.parkCopy (s : State) (u : UOp) (i ch cmd code : Nat) (w : Bool) (off : Nat) : State :=
  let c := s.chan u.k ch
  let s := s.onUPiece u.id i fun p => { p with gone := false }
  if bitOf c.cfst 63 then s
  else
    let (x, s) := s.draw
    let pos := ((c.cmds.find? (·.id == cmd)).map CopyCmd.prefixLen).getD 0
    let mark := fun (v : UOp) => if v.k = u.k ∧ v.queue false = u.queue false then
      { v with pieces := (leaveAll x v.pieces).zipIdx.map fun (p, j) => if v.id = u.id ∧ j = i then { p with gone := false } else p } else v
    let s := { s with uops := s.uops.map mark }
    let s := s.onUOp u.id fun v => { v with parked := true, code := code }
    (s.onChan u.k ch fun c => { c with cfst := BitVec.ofNat 64 (2 ^ 63 + code * 2 ^ 59 + pos % 2 ^ 40) }).faultOf u w 1 code false ch off pos

/-- A part waits among the parked arrivals for a retry (R139). It takes the chunk of the store that was reserved for it; a peer's put needs
a free one, and its caller sees to that. -/
def State.park (s : State) (u : UOp) (i : Nat) : State :=
  { s.onUPiece u.id i fun p => { p with stop := some s.nextId } with nextId := s.nextId + 1 }

/-- A part meets a memory fault (R39, R139, R140, R342, R349, R385); a part of an abandoned operation ends there. -/
def State.partFault (s : State) (u : UOp) (i : Nat) (w : Bool) (code off : Nat) : State :=
  let rep := ((u.pieces[i]?).bind (·.rep)).isSome
  let dead := fun (s : State) => s.onUPiece u.id i fun p => { p with st := .done }
  if u.dead then (dead s).reap
  else match u.owner with
  | .copy ch cmd => s.parkCopy u i ch cmd code w off
  | .fabric c =>
    if w && code == 4 && ((u.pieces[i]?).map (·.far)).getD false then (s.park u i).faultOf u w 4 code rep 0 off 0
    else (((dead s).endFCmd c (if ((s.fcmd c).map (·.op)) = some 6 then 6 else 2) code).killOps fun v => v.id == u.id).faultOf u w 3 code false 0 off 0
  | .graph n _ =>
    if w && code == 4 && ((u.pieces[i]?).map (·.far)).getD false then (s.park u i).faultOf u w 4 code rep n off 0
    else ((dead s).abortReplay n 4 0 4 0).faultOf u w 3 code false n off 0
  | .bt ch r =>
    let arg := (((s.btc ch).recs.find? (·.id == r)).map (·.cap.cursor)).getD 0
    if r != 0 && (s.btc ch).recs.all (·.id != r) then ((dead s).faultOf u w 2 code rep ch off arg).reap
    else ((s.park u i).onBt ch fun b => { b with ctl := putBits (putBits b.ctl 63 60 3) 55 52 code }).faultOf u w 2 code rep ch off arg
  | .flag => ((s.onUPiece u.id i fun p => { p with st := .done }).faultOf u w 3 code false 0 off 0).reap
  | .serve =>
    if code == 4 && !((s.serving u.id).map (·.pinned)).getD false then
      (if s.parkRoom u.port then (s.park u i).faultOf u w 4 code rep 0 off 0 else s)
    else s.onUPiece u.id i fun p => { p with st := .failed, code := code }
  | .window .. => s.onUOp u.id fun v => { v with pieces := v.pieces.map fun p => { p with st := .failed, code := code } }
  | _ => s.onUPiece u.id i fun p => { p with st := .failed, code := code }

/-- A peer's error ends a part (R130, R343, R347); of an abandoned operation it ends nothing else. -/
def State.peerError (s : State) (u : UOp) (i code node : Nat) : State :=
  if u.dead then (s.onUPiece u.id i fun p => { p with st := .done }).reap
  else match u.owner with
  | .copy ch cmd => ((s.onUPiece u.id i fun p => { p with st := .done }).abandon u.k ch cmd 7 code).reap
  | .graph n _ => (s.onUPiece u.id i fun p => { p with st := .done }).abortReplay n (if code = 6 then 2 else 3) (((s.slot n).members.idxOf? node).getD 0) (if code = 6 then 4 else 3) (if code = 6 then 0 else code)
  | .flag => (s.onUPiece u.id i fun p => { p with st := .done }).reap
  | _ => s.onUPiece u.id i fun p => { p with st := .failed, code := code }

/-! ### Migration counts -/

/-- The epoch of the node, as leaf entries keep it (R118). -/
def State.epoch (s : State) : Nat := s.cyc / 2 ^ 22 % 16

/-- SETTLED as it reads in the current epoch (R118). -/
def State.settledNow (s : State) (e : Nat) : Bool := leafSettled e && leafEpoch e == s.epoch

/-- A leaf entry in the current epoch: one of another epoch takes the current one, with no move counted (R118). -/
def State.renewed (s : State) (e : Nat) : Nat :=
  if leafEpoch e = s.epoch then e else nput (nput (nput e 119 117 0) 116 113 s.epoch) 112 112 0

/-- The port that holds a page: of the bank's cluster, or of the cluster that the line's address names (R113). -/
def homePort : Phys → Nat
  | .bank k _ => k / 96
  | .stack a => a / 256 % 4
  | _ => 0

/-- The node for which an operation is performed (R118). -/
def State.requester (s : State) (u : UOp) : Nat :=
  match u.owner with
  | .serve => ((s.serving u.id).map (·.orig)).getD s.nodeId
  | _ => s.nodeId

/-- Atomics of a node counted for a page that this package holds, and a move triggered (R117, R118). `leafAt` is the address of its leaf
entry, the origin's where the origin is here; that of a page of MOBJ mirrors the origin's (log entry 67). -/
def State.countAtomics (s : State) (ph : Phys) (p obj page leafAt node n : Nat) : State :=
  let port := homePort ph
  let e := s.stackNat leafAt 16
  let mine := fun (c : MigCount) => c.port == port && c.part == p && c.obj == obj && c.page == page
  let cs := s.pkg.counts
  let room := decide ((cs.filter fun c => c.port == port).length < 1024)
  let cs := if cs.any mine then cs else if room then cs ++ [⟨port, p, obj, page, []⟩] else cs
  let bump := fun (l : List (Nat × Nat)) =>
    if l.any (·.1 == node) then l.map fun (m, x) => if m = node then (m, x + n) else (m, x)
    else if l.length < 4 then l ++ [(node, n)] else l
  let cs := cs.map fun c => if mine c then { c with counts := bump c.counts } else c
  let s := { s with pkg := { s.pkg with counts := cs } }
  let l := ((cs.find? mine).map (·.counts)).getD []
  let at_ := fun m => ((l.find? (·.1 == m)).map (·.2)).getD 0
  let thresh := bitsOf (s.part p).migcfg 15 0
  match l.find? fun (m, x) => m != s.nodeId && decide (at_ s.nodeId + thresh ≤ x) with
  | some (m, _) =>
    if leafAt ≠ 0 ∧ leafPlace e = 2 ∧ leafRes e = 1 ∧ leafMoves e < 4 ∧ leafSettled e = false ∧ leafEpoch e = s.epoch ∧
        bitOf (s.part p).migcfg 63 = true ∧ s.pkg.moves.all (fun v => !v.isFor p obj page) = true then
      { s with pkg := { s.pkg with moves := s.pkg.moves ++ [⟨p, obj, page, m, .due, 0, 0⟩] } }
    else s
  | none => s

/-! ### At the place -/

/-- n bytes read at a place on the package, with their poison; the staging area of the fetch unit gives unpredictable bytes (R47,
R386, R387). -/
def State.readPlace (s : State) (k : Stn) (lv : Level) (ph : Phys) (n : Nat) : List Byte × Bool × State :=
  let key := s.physKey lv ph
  let s := s.serve ph
  match ph with
  | .bank j off => if 0xF_F000 ≤ off then let (x, s) := s.draw; (leBytes n x, false, s)
    else let s := s.correct (stnOf j) key (List.range n); (s.mem.readN key n, s.mem.poisonIn key n, s)
  | _ => let s := s.correct k key (List.range n); (s.mem.readN key n, s.mem.poisonIn key n, s)

/-- Elements added to those at a key, with the flags: 2 INT32, otherwise FP32; the place's element is the lower operand (R87, R114,
R134, R342). Bytes beyond the last whole element of a part stay as they are (log entry 125). -/
def State.sums (s : State) (int : Bool) (key : Nat) : List Word → List Byte × Flags
  | [] => ([], 0)
  | w :: r =>
    let old := BitVec.ofNat 32 (s.mem.readLe key 4)
    let (x, f) := if int then clip32 (old.toInt + w.toInt) else combineF (leafOf old) (leafOf w)
    let f := if int then f else f ||| leafFlags old ||| leafFlags w
    let (bs, g) := s.sums int (key + 4) r
    (leBytes 4 x.v.toNat ++ bs, f ||| g)

/-- Bytes written at a place on the package, or added to it, with the flags; an untimed write never reaches the command region
(R47). Poisoned data store bad check bits (R387). -/
def State.writePlace (s : State) (lv : Level) (ph : Phys) (add : Nat) (bs : List Byte) (poison : Bool) : Except Nat (Flags × State) :=
  let key := s.physKey lv ph
  let region : Bool := match ph with
    | .bank _ off => decide (0xF_8000 ≤ off)
    | _ => false
  if region then .error 3
  else
    let s := s.serve ph
    let poison := poison || (add != 0 && s.mem.poisonIn key bs.length)
    let (bs, f) := if add = 0 then (bs, 0) else s.sums (add == 2) key (words32 (bs.length / 4) bs)
    let s := s.poke key bs
    let s := if poison then { s with mem := s.mem.markPoison key bs.length } else s
    .ok (f, match ph with
      | .bank k _ => s.noteStandby (stnOf k) lv (key % 2 ^ 20)
      | _ => s)

/-- An atomic performed at a place on the package (R114, R249): the content of its bay. A compare-and-swap that fails changes nothing
(R250). -/
def State.atomicPlace (s : State) (k : Stn) (lv : Level) (ph : Phys) (a : Atom) (settled : Bool) : Except Nat (Line × Bool × State) :=
  let key := s.physKey lv ph
  let region : Bool := match ph with
    | .bank _ off => decide (0xF_8000 ≤ off)
    | _ => false
  if region then .error 3
  else
    let at_ : Stn := match ph with
      | .bank j _ => stnOf j
      | _ => k
    let s := (s.serve ph).correct at_ key (List.range a.size)
    let poison := s.mem.poisonIn key a.size
    let old := s.mem.readLe key a.size
    let (v, f, ok) := a.apply old
    if a.cas && !ok then .ok (atomLine old settled ok f, poison, s)
    else
      let s := s.poke key (leBytes a.size v)
      let s := if poison then { s with mem := s.mem.markPoison key a.size } else s
      .ok (atomLine old settled ok f, poison, match ph with
        | .bank j _ => s.noteStandby (stnOf j) lv (key % 2 ^ 20)
        | _ => s)

/-! ### Pieces -/

/-- The descriptor bits of a fabric command's operation, or 0. -/
def State.fbits (s : State) (u : UOp) : Nat :=
  match u.owner with
  | .fabric c => ((s.fcmd c).map (·.bits)).getD 0
  | _ => 0

/-- CFMT of a fabric command's operation, or 0 (R341, R365). -/
def State.cfmtOf (s : State) (u : UOp) : Nat := nbits (s.fbits u) 82 79

/-- Values encoded by a scale-selection unit of the station's channels or of the partition's fabric engine (R77, R364). -/
def State.encodeBy (s : State) (u : UOp) (fmt geom n : Nat) (vs : List FVal) : RunOut × State :=
  let fabric := s.cfmtOf u != 0
  let x := u.ssu.map fun i => if fabric then (s.part u.part).fscale[i % 8]'(Nat.mod_lt _ (by decide)) else (s.stn u.k).scaleUnit i
  let o := encodeRun fmt geom 0 n vs x
  match u.ssu, o.unit with
  | some i, some v =>
    (o, if fabric then s.onPart u.part fun q => { q with fscale := q.fscale.set (i % 8) v (Nat.mod_lt _ (by decide)) }
        else s.onStn u.k fun t => t.setScaleUnit i v)
  | _, _ => (o, s)

/-- The bytes of a piece have been read: they are converted (R125), or compressed; compressed data for an own object are decoded
again (R365). -/
def State.pieceHeld (s : State) (u : UOp) (i : Nat) (p : UPiece) : State :=
  let (e, b) := fmtUnit u.srcFmt p.geom.1
  let n := p.data.length / b
  let c := s.cfmtOf u
  let (data, f, s) :=
    if c ≠ 0 then
      let (o, s) := s.encodeBy u c 0 (p.data.length / 128) (decodeRun 0xD 0 n p.data)
      if u.dst.all (·.node != s.nodeId) then (o.bytes, o.flags, s)
      else
        let vs := decodeRun c 0 (p.data.length / 128) o.bytes
        let (ed, _) := fmtUnit u.dstFmt u.dstGeom
        let d := if u.convert then u.dstFmt else 0xD
        let r := encodeRun d u.dstGeom 0 (vs.length / (if u.convert then ed else 1)) vs none
        (r.bytes, o.flags ||| r.flags, s)
    else if u.convert then
      let (ed, _) := fmtUnit u.dstFmt p.geom.2
      let (o, s) := s.encodeBy u u.dstFmt p.geom.2 (n * e / ed) (decodeRun u.srcFmt p.geom.1 n p.data)
      (o.bytes, o.flags, s)
    else (p.data, 0, s)
  s.onUPiece u.id i fun q => { q with st := .held, sent := 0, data := data, flags := f }

/-- The blocks of an operation are encoded by a scale-selection unit of the station, which takes those of engines with lower codes first
(R78): they wait for the end of the cycle. -/
def UOp.unitOrder (u : UOp) : Bool := u.ssu.isSome && match u.owner with
  | .copy .. => true
  | _ => false

/-- All bytes of a piece have come, and its blocks wait for their scale-selection unit. -/
def UPiece.waitsUnit (p : UPiece) : Bool := p.st == .reading && decide (p.srcLen ≤ p.sent)

/-- Bytes of a piece have come from its source (R100); those of an abandoned fill are discarded (R130). -/
def State.pieceGot (s : State) (u : UOp) (i : Nat) (bs : List Byte) (poison : Bool) : State :=
  match u.pieces[i]? with
  | none => s
  | some p =>
    let q := { p with st := .idle, sent := p.sent + bs.length, data := p.data ++ bs, poison := p.poison || poison }
    if u.dead && u.dst.isNone then (s.onUPiece u.id i fun _ => { q with st := .done }).reap
    else
    let s := s.onUPiece u.id i fun _ => q
    if q.srcLen ≤ q.sent then (if u.unitOrder then s.onUPiece u.id i fun q => { q with st := .reading } else s.pieceHeld u i q) else s

/-- The chunk of a block-transfer record that has been performed sets its bit in the next cycle (R137). -/
def State.chunkDone (s : State) (u : UOp) (pos : Nat) : State :=
  match u.owner with
  | .bt ch r => match (s.btc ch).recs.find? (·.id == r), s.uops.find? (·.id == u.id) with
    | some b, some v =>
      if b.bme && !b.backing && (v.pieces.filter fun p => p.pos / 512 == pos / 512).all (fun p => p.st == .done) then
        s.fabricLater (s.cyc + 1) (.bit (stnOf b.stn) b.slot b.gen (b.chunk0 + pos / 512))
      else s
    | _, _ => s
  | _ => s

/-- The results of this cycle are still to be written. -/
def State.beforeResults (s : State) : Bool := s.todo.any fun a => a == .phase 1 || a == .phase 2

/-- The flags of an untimed copy of a channel set in FFLAGS. What comes back before the results of the cycle are written joins them, so that
a bit that a `csr` write of the cycle clears stays set (R85). -/
def State.copyFlags (s : State) (k : Stn) (ch : Nat) (f : Flags) : State :=
  if f = 0 then s
  else s.onStn k fun t => if s.beforeResults then t.later (s.workNom k) (s.workNom k) (4 + ch) (.flags f) else t.setFlags f

/-- n bytes of a piece's destination have been performed, with their flags (R85, R129, R342). -/
def State.pieceDone (s : State) (u : UOp) (i n : Nat) (f : Flags) (settled : Bool) : State :=
  match u.pieces[i]? with
  | none => s
  | some p =>
    let last := decide (p.dstLen ≤ p.sent + n)
    let s := s.onUPiece u.id i fun q => { q with st := if last then .done else .held, sent := p.sent + n }
    let g := if last then f ||| p.flags else f
    match u.owner with
    | .copy ch cmd =>
      let s := if last then s.copyFlags u.k ch p.flags else s
      if u.dead then s.reap else s.performed u.k ch cmd (p.pos + p.sent) n
    | .flag => s.reap
    | .bt ch r =>
      let s := s.onBt ch fun b => { b with recs := b.recs.map fun x => if x.id = r then { x with flags := x.flags ||| g } else x }
      if last then s.chunkDone u p.pos else s
    | _ => (s.onUOp u.id fun v => { v with flags := v.flags ||| g, settled := v.settled || settled }).reap

/-- A walk whose swap of a leaf entry took an access of the entry's channel: it is made where the channel has none in this cycle, and the
walk's own access follows in a later one (R35, R56). -/
def State.afterSwap (s t : State) (a : Nat) : State := if s.placeTaken (.stack a) then s else t.serve (.stack a)

/-- A translation, for parts that the walker translates; or the state after the swap that sets the accessed and dirty bits of the leaf
entry, which comes first (R35). -/
def State.translate (s : State) (u : UOp) (x : Walked) (w : Bool) (o n : Nat) : Except State (Walked × State) :=
  match u.pinned, (if w then u.dst else u.src) with
  | none, some l =>
    if l.node ≠ s.nodeId then .ok (x, s)
    else match s.walk u.port u.part l.obj o n w with
      | (y, none, t) => .ok (y, t)
      | (_, some a, t) => .error (s.afterSwap t a)
  | _, _ => .ok (x, s)

/-- A request packet of an operation, without its sequence number (R359). -/
def State.packetOf (s : State) (u : UOp) (node opk obj off len : Nat) (data : List Byte) : Packet :=
  { src := s.nodeId, dst := node, plane := 0, seq := 0, cls := 0, opk := opk, orig := s.nodeId, opart := u.part, ctx := u.ctx
    cmp := false, cfmt := 0, fmt := 0, rseq := 0, arg := len, obj := obj, off := off, limit := u.limit, len := len, aop := 0, asz := 0
    opnd := 0, newv := 0, peers := [], chx := 0, poison := false, pinned := false, data := data }

/-- A packet of an operation sent: a station's are exposed (R391). -/
def State.sendOp (s : State) (u : UOp) (x : Packet) (piece : Nat) : State :=
  match u.station with
  | none => s.request x u.id piece none none
  | some k => s.requestFor k x u.id piece

/-- Poison that reaches the work of a station rolls its team back (R387). -/
def State.poisonFor (s : State) (u : UOp) : State :=
  match u.station with
  | some k => s.machineCheck k 1
  | none => s

/-- Nothing is sent of a poisoned chunk: the command ends with STATUS 010 and ECODE 0x3, and the team rolls back (R387). -/
def State.poisoned (s : State) (u : UOp) (i : Nat) : State :=
  match u.owner with
  | .fabric c => ((s.endFCmd c 2 3).poisonFor u).killOps fun v => v.id == u.id
  | .graph m _ => (s.abortReplay m 4 0 4 0).poisonFor u
  | _ => (s.onUPiece u.id i fun q => { q with st := .done }).poisonFor u

/-! ### Reading -/

/-- A part of a source read that has been translated (R39, R102, R348). -/
def State.readAt (s : State) (u : UOp) (i : Nat) (x : Walked) (o n : Nat) : State :=
  let bayOnly : Bool := match u.owner with
    | .rld .. => true
    | _ => false
  let short := s.bayRead u && match x with
    | .at_ _ e _ => leafRes e == 1
    | .transit => true
    | .fault _ => false
  if short then s.partFault u i false 1 o
  else match x with
  | .transit => s
  | .fault c => s.partFault u i false c o
  | .at_ (.peer node obj off) e _ =>
    if bayOnly ∧ node = s.nodeId ∨ bayOnly ∧ e ≠ 0 then s.partFault u i false 1 o
    else
      let s := s.onUPiece u.id i fun q => { q with st := .reading }
      s.sendOp u { s.packetOf u node 2 obj off n [] with pinned := bayOnly } i
  | .at_ (.host a) _ _ =>
    if bayOnly then s.partFault u i false 1 o
    else ((s.onUPiece u.id i fun q => { q with st := .reading }).hostRequest u.station u.id i false a n none []).1
  | .at_ ph e _ =>
    let (bs, poison, s) := s.readPlace u.k u.level ph n
    (s.pieceGot u i bs poison).onUOp u.id fun v => { v with settled := v.settled || (leafPlace e == 2 && s.settledNow e) }

/-- A part of a source read: its translation's swap, or the read itself (R35, R39, R102, R327, R348). -/
def State.readPart (s : State) (u : UOp) (i : Nat) (p : UPiece) : State :=
  let (x, o, n) := s.partAt u p false
  let late := match u.owner, u.seg with
    | .copy ch c, some (_, g) => if s.inWindow g || u.dead then none else some (ch, c)
    | _, _ => none
  match late with
  | some (ch, c) =>
    let at_ : TrapAt := (((s.chan u.k ch).cmds.find? (·.id == c)).map fun m => ⟨4 + ch, m.stamp, m.pc, none⟩).getD ⟨4 + ch, 0, 0, none⟩
    (s.lateTrap u.k 0x06 3 at_).abandon u.k ch c 6 0
  | none => match s.translate u x false o n with
    | .error t => t
    | .ok (x, s) => s.readAt u i x o n

/-! ### Writing -/

/-- The operation code of a host AtomicOp exists for an atomic (R371). -/
def hostAtom (a : Atom) : Bool := a.cas || a.op == 0 || a.op == 6

/-- An atomic at its place (R113 to R115, R371). -/
def State.atomPart (s : State) (u : UOp) (i : Nat) (a : Atom) (x : Walked) (o : Nat) : State :=
  match x with
  | .transit => s
  | .fault c => s.partFault u i true c o
  | .at_ (.peer node obj off) _ _ =>
    let s := s.onUPiece u.id i fun q => { q with st := .writing }
    s.sendOp u { s.packetOf u node 3 obj off a.size [] with
      aop := if a.cas then 8 else a.op, asz := a.size, opnd := a.opnd, newv := a.newv, data := leBytes 8 a.opnd.toNat ++ leBytes 8 a.newv.toNat } i
  | .at_ (.host adr) e _ =>
    if leafPlace e ≠ 3 ∨ hostAtom a = false then s.partFault u i true 3 o
    else
      match (s.onUPiece u.id i fun q => { q with st := .writing }).hostRequest u.station u.id i true adr a.size (some a) [] with
      | (s, none) => s
      | (s, some v) => s.onUPiece u.id i fun q => { q with st := .done, data := bytesOf (atomLine v false false 0) }
  | .at_ ph e at_ =>
    let obj := (u.target true).1
    let live := match s.look u.part obj o a.size with
      | .at_ _ e a => (e, a)
      | _ => (e, 0)
    match s.atomicPlace u.k u.level ph a (leafPlace e == 2 && s.settledNow live.1) with
    | .error c => s.partFault u i true c o
    | .ok (l, poison, s) =>
      let s := s.countAtomics ph u.part obj ((o + descBase (s.descriptor u.part obj)) / 65536) (if at_ = 0 then live.2 else at_) (s.requester u) 1
      let s := (s.onUPiece u.id i fun q => { q with st := .done, data := bytesOf l, poison := poison }).reap
      if poison then s.poisonFor u else s

/-- The staging object takes a chunk of a fabric transfer, or parks it with the code given (R139, R352): whether a chunk needs staging,
and where it would lie, are free choices. -/
def State.staging (s : State) (p : Nat) : Option Nat × State :=
  let (x, s) := s.draw
  let r := (s.part p).stgobj
  if x % 2 = 0 then (none, s)
  else if bitOf r 63 = false then (some 1, s)
  else
    let obj := bitsOf r 21 0
    let len := descLen (s.descriptor p obj)
    match s.walk 0 p obj (if len < 512 then 0 else x / 2 % (len - 511)) 1 true with
    | (.fault c, _, s) => (some c, s)
    | (_, none, s) => (none, s)
    | (_, some a, t) => (none, s.afterSwap t a)

/-- The leaf entry of a page that an atomic or a reduction counts for, where it is of an earlier epoch: it takes the current one first, which
is an access of its channel (R56, R118). -/
def State.freshLeaf (s : State) (x : Walked) (counts : Bool) : Option State :=
  match x with
  | .at_ (.peer ..) _ _ => none
  | .at_ (.host _) _ _ => none
  | .at_ _ _ a =>
    let e := s.stackNat a 16
    if counts = false ∨ a = 0 ∨ leafPlace e ≠ 2 ∨ leafEpoch e = s.epoch then none
    else some (s.afterSwap (s.poke (stackKey (a % 2 ^ 34)) (leBytes 16 (s.renewed e))) a)
  | _ => none

/-- A part of a destination write or reduction that has been translated (R102, R113, R115, R342, R345, R387). -/
def State.writeAt (s : State) (u : UOp) (i : Nat) (p : UPiece) (x : Walked) (o n : Nat) : State :=
  match s.atomOf u with
  | some a => s.atomPart u i a x o
  | none =>
    let bs := (p.data.drop p.sent).take n
    match x with
    | .transit => s
    | .fault c => s.partFault u i true c o
    | .at_ (.peer node obj off) _ _ =>
      if u.chunkPoison p then s.poisoned u i
      else
        let d := s.fbits u
        let c := s.cfmtOf u
        let fabric : Nat := match u.owner with
          | .fabric f => ((s.fcmd f).map (·.op)).getD 0
          | _ => 0
        let peers := if fabric = 4 then mcastPeers d else []
        let opk := match u.owner with
          | .flag => 3
          | _ => if u.add = 0 then 1 else if u.add = 2 then 5 else 4
        let x : Packet := { s.packetOf u (peers.headD node) opk obj off (if c = 0 then bs.length else p.srcLen) (if c = 0 then bs else p.data) with
          aop := if opk = 3 then 6 else u.add, asz := if opk = 3 then 8 else 0, peers := peers, cmp := c != 0, cfmt := c
          opnd := if opk = 3 then BitVec.ofNat 64 (leNat bs) else BitVec.ofNat 64 (p.pos + if c = 0 then p.sent else 0)
          newv := match u.owner with
            | .fabric _ => BitVec.ofNat 64 (nbits d 159 128)
            | _ => 0
          fmt := match u.owner with
            | .fabric _ => u.srcFmt + 16 * u.srcGeom
            | _ => 0 }
        (s.onUPiece u.id i fun q => { q with st := .writing }).sendOp u x i
    | .at_ (.host a) _ _ =>
      if u.add ≠ 0 then s.partFault u i true 3 o
      else if u.chunkPoison p then s.poisoned u i
      else ((s.onUPiece u.id i fun q => { q with st := .writing }).hostRequest u.station u.id i true a n none bs).1
    | .at_ ph e at_ =>
      let far : Bool := match u.owner with
        | .fabric _ => p.far
        | .graph .. => p.far
        | .bt .. => p.far
        | .serve => true
        | _ => false
      let (park, s) := if far && (p.far || s.parkRoom u.port) then s.staging u.part else (none, s)
      match park with
      | some c => match u.owner with
        | .bt .. => s.partFault u i true c o
        | _ => (s.park u i).faultOf u true 4 c p.rep.isSome 0 o 0
      | none =>
        let add := if u.add = 3 then (if leafFmt e = 0xE then 2 else 1) else u.add
        match s.writePlace u.level ph add bs p.poison with
        | .error c => s.partFault u i true c o
        | .ok (f, s) =>
          let (obj, _) := u.target true
          let s := if add = 0 then s
            else s.countAtomics ph u.part obj ((o + descBase (s.descriptor u.part obj)) / 65536) at_ (s.requester u) (n / 4)
          s.pieceDone u i n f (leafPlace e == 2 && s.settledNow e)

/-- A part of a destination write, reduction or atomic: the swap of its translation, or the renewal of the leaf entry's epoch, or the
access itself (R35, R102, R118). -/
def State.writePart (s : State) (u : UOp) (i : Nat) (p : UPiece) : State :=
  let (x, o, n) := s.partAt u p true
  match s.translate u x true o n with
  | .error t => t
  | .ok (x, s) => match s.freshLeaf x ((s.atomOf u).isSome || u.add != 0) with
    | some t => t
    | none => s.writeAt u i p x o n

/-- The bytes that `gstat` reads (R348). -/
def GSlot.status (g : GSlot) : List Byte :=
  let mine := (g.ops.filter fun o => o.rank == g.rank).length
  let st := match g.st with
    | .empty => 0
    | .idle => 1
    | .running => 2
    | .aborted => 3
  leBytes 8 (st * 2 ^ 60 + b2n g.shf * 2 ^ 59 + b2n g.pend.isSome * 2 ^ 58 + g.cause * 2 ^ 48 + g.frank * 2 ^ 38 + g.runs) ++
    leBytes 8 (mine + (g.done.filter id).length * 2 ^ 16 + g.bph.toNat * 2 ^ 32) ++
    leBytes 128 (leNat ((List.range 128).map fun i => BitVec.ofNat 8 (((List.range 8).map fun j => b2n (g.done.getD (8 * i + j) false) * 2 ^ j).sum)))

/-- A part of an operation performed. -/
def State.performPart (s : State) (u : UOp) (i : Nat) (w : Bool) : State :=
  match u.pieces[i]? with
  | none => s
  | some p =>
    if u.next_ p w then
      match u.owner, w with
      | .gstat _ n, false => s.onUPiece u.id i fun q => { q with st := .held, data := (s.slot n).status }
      | _, false => s.readPart u i p
      | _, true => s.writePart u i p
    else s

/-! ### Replies to bays -/

/-- The bay that an operation's reply fills. -/
def State.bayOf (s : State) (u : UOp) : Option Nat :=
  match u.owner with
  | .rld b _ => some b
  | .atom _ b => b
  | .mail b _ _ => some b
  | .gstat b _ => some b
  | .fabric c => (s.fcmd c).bind (·.bay)
  | _ => none

/-- Every piece of an operation has brought what it will bring. -/
def UOp.answered (u : UOp) : Bool :=
  u.pieces.all fun p => p.st == .failed || p.st == .done || (u.dst.isNone && (p.st == .held || !u.reads p))

/-- The reply that an answered operation sends to its bay: void where a part failed (R39, R44, R249, R265, R342, R348). -/
def UOp.reply (u : UOp) : BayReply :=
  let bs := u.pieces.flatMap (·.data)
  if u.pieces.any (·.st == .failed) then ⟨0, true, false⟩
  else match u.owner with
    | .mail _ m n => ⟨lineOfBytes (if n = 0 then [] else bs ++ leBytes 8 m ++ leBytes 8 1), false, u.pieces.any (·.poison)⟩
    | _ => ⟨lineOfBytes bs, false, u.pieces.any (·.poison)⟩

/-- A void reply is recorded in VOIDST (R40). -/
def Station.voidReply (t : Station) (node : Nat) : Station :=
  let v := t.sys.voidst
  let v := if bitOf v 63 then v else putBits (putBit v 63 true) 41 32 node
  { t with sys := { t.sys with voidst := putBits v 31 0 (min (bitsOf v 31 0 + 1) 0xFFFF_FFFF) } }

/-- A redirect entry of a context's bay (R208). -/
def State.redirect (s : State) (ctx : Nat) (k : Stn) (b : Nat) : Option Redirect :=
  s.pkg.redirects.find? fun r => r.ctx == ctx && r.stn == k && r.bay == b

/-- The operation that a reply to a bay answers leaves the queues; a fabric command keeps its operation until its write-back, and
forgets its bay. A void reply to `rld` is recorded (R40, R340). -/
def State.answer (s : State) (u : UOp) (k : Stn) (r : BayReply) : State :=
  let s := match u.owner with
    | .rld .. => if r.void then s.onStn k fun t => t.voidReply ((u.src.map fun (l : Loc) => l.node).getD 0) else s
    | _ => s
  match u.owner with
  | .fabric c => s.onFCmd c fun f => { f with bay := none }
  | _ => { s with uops := s.uops.filter (·.id != u.id) }

/-- The line of an image's header and that of a bay's section may take the accesses of a reply that lands there: neither channel has done
one in this cycle, and no access of a save to the header is still to be made (R56, R208). -/
def State.imageFree (s : State) (area b : Nat) : Bool :=
  let a := area * 2 ^ 21
  !s.placeTaken (.stack a) && !s.placeTaken (.stack (a + 0x1000 + 256 * b)) && !s.lineWaits a && !s.lineWaits (a + 0x1000 + 256 * b)

/-- A reply to a bay of a context may land in this cycle (R208). -/
def State.mayLand (s : State) (ctx : Nat) (k : Stn) (b : Nat) : Bool :=
  match s.redirect ctx k b with
  | some e => e.live.isSome || s.imageFree e.image b
  | none => true

/-- A reply written into the bay section of a save image, with its header updated then (R207, R208). -/
def State.landInImage (s : State) (area b : Nat) (r : BayReply) : State :=
  let s := (s.serve (.stack (area * 2 ^ 21))).serve (.stack (area * 2 ^ 21 + 0x1000 + 256 * b))
  let a := stackKey (area * 2 ^ 21)
  let s := s.poke (a + 0x1000 + 256 * b) (bytesOf (if r.void then 0 else r.data))
  let s := if r.poison && !r.void then { s with mem := s.mem.markPoison (a + 0x1000 + 256 * b) 256 } else s
  let h := s.mem.readLe (a + 24) 8
  s.poke (a + 24) (leBytes 8 (nput (nput h (32 + b) (32 + b) 0) (2 * b + 1) (2 * b) (if r.void then 3 else 2)))

/-- A reply fills a bay that awaits it; poisoned bytes roll the team back (R44, R387). -/
def State.fill (s : State) (k : Stn) (b : Nat) (r : BayReply) : State :=
  if (((s.stn k).bay b).st == .pending) = false then s
  else
    let s := s.onStn k fun t => t.fillBay b r
    if r.poison && !r.void then s.machineCheck k 1 else s

/-- A reply to a bay of a context: it meets a redirect entry, which it frees, or the bay itself (R208). -/
def State.landReply (s : State) (ctx : Nat) (k : Stn) (b : Nat) (r : BayReply) : State :=
  match s.redirect ctx k b with
  | none => s.fill k b r
  | some e =>
    let s := { s with pkg := { s.pkg with redirects := s.pkg.redirects.erase e } }
    match e.live with
    | some j => s.fill j b r
    | none => s.landInImage e.image b r

/-- A request for a bay is older than FABTO.TO: it ends at once (R246; log entry 137). -/
def State.overdue (s : State) (u : UOp) : Bool := decide (u.issue + s.fabTO ≤ s.cyc) && match u.owner with
  | .rld .. => true
  | _ => false

/-- The operation that a reply to a bay of station k answers: one that has its answer, or is overdue. -/
def State.awaiting (s : State) (k : Stn) (bay : Nat) (ctx : Option Nat) : Option UOp :=
  s.uops.find? fun u => u.k == k && s.bayOf u == some bay && (u.answered || s.overdue u) &&
    match ctx with
    | some c => c == u.ctx
    | none => (s.redirect u.ctx k bay).isNone

/-- `BAY_REPLY_LAND`: R44. -/
def execBayReplyLand (k : Stn) (bay : Nat) (r : BayReply) (s : State) : Res :=
  .next (if (((s.stn k).bay bay).st == .pending) = false then s
    else
      let s := match s.awaiting k bay none with
        | some u => s.answer u k r
        | none => s
      s.fill k bay r)

/-- `REDIRECTED_REPLY`: R208. A reply that meets no entry does nothing. -/
def execRedirectedReply (ctx : Nat) (k : Stn) (bay : Nat) (r : BayReply) (s : State) : Res :=
  .next (match s.redirect ctx k bay with
    | none => s
    | some e => if s.mayLand ctx k bay = false then s else
      let s := match s.awaiting k bay (some ctx) with
        | some u => s.answer u (e.live.getD k) r
        | none => s
      s.landReply ctx k bay r)

/-! ### Resuming parked commands -/

/-- `CFST_RESUME`: R140. Writing 1 to CFST.PK resumes the parked command, whose walk is repeated. -/
def State.resumeCopy (s : State) (k : Stn) (ch : Nat) : State :=
  let s := { s with uops := s.uops.map fun (u : UOp) => match u.owner with
    | .copy c _ => if u.k = k ∧ c = ch then { u with parked := false } else u
    | _ => u }
  s.onChan k ch fun c => { c with cfst := putBit c.cfst 63 false }

/-- `CFST_RESUME`: R140. -/
def execCfstResume (k : Stn) (ch : Nat) (s : State) : Res := .next (s.resumeCopy k ch)

/-! ### Invalidation -/

/-- A side of a piece has used the translation of its page: bytes of it have been performed or sent (R38). -/
def UOp.used (u : UOp) (p : UPiece) (w : Bool) : Bool :=
  if w then p.st == .writing || p.st == .done || (decide (0 < p.sent) && (p.st == .held || !u.reads p))
  else u.reads p && (p.st == .held || p.st == .writing || p.st == .done || p.st == .reading || decide (0 < p.sent))

/-- An operation has used a translation of an object, or of any, and has accesses to the page concerned to finish (R38). -/
def State.usesEntry (s : State) (u : UOp) (obj : Option Nat) : Bool :=
  [false, true].any fun w => (if w then u.dst else u.src).any fun (l : Loc) =>
    let page := fun (o : Nat) => (o + descBase (s.descriptor u.part l.obj)) / 65536
    let lo := fun (p : UPiece) => if w then p.dst else p.src
    let len := fun (p : UPiece) => if w then p.dstLen else p.srcLen
    l.node == s.nodeId && obj.all (· == l.obj) && u.pieces.any fun p => u.open_ p w && u.pieces.any fun q => u.used q w &&
      decide (page (lo q) ≤ page (lo p + len p - 1)) && decide (page (lo p) ≤ page (lo q + len q - 1))

/-- What an invalidation, of the operations issued before an identity number was given out, still waits for (R38). -/
def State.invalidating (s : State) (p : Nat) (x : Nat × Option Nat) : Bool :=
  s.uops.any fun u => u.part == p && decide (u.id < x.1) && s.usesEntry u x.2

/-- `OTINV_COMPLETE`: R38; BUSY clears when no invalidation is left. -/
def execOtinvComplete (p : Nat) (s : State) : Res :=
  .next (s.onPart p fun q => { q with otbusy := q.otbusy.filter (s.invalidating p) })

end Sys2Proof.Machine
end

