-- ==== Sys2Proof/Machine/BlockTransfer.lean ====
section
/-!
DEFINITION. The block-transfer engine: heads, chains of records, hand-back and aborts (R132 to R137, R140, R333).
-/

namespace Sys2Proof.Machine

/-! ### States and heads -/

/-- STATE of a channel (R132): 0 IDLE, 1 RUNNING, 2 WAITOWN, 3 PARKED, 4 HALTED. -/
def BtChan.state (b : BtChan) : Nat := bitsOf b.ctl 63 60

/-- STATE and CAUSE replaced. -/
def BtChan.to (b : BtChan) (st cause : Nat) : BtChan := { b with ctl := putBits (putBits b.ctl 63 60 st) 55 52 cause }

/-- The channel starts at a capability (R132). -/
def BtChan.run (b : BtChan) (c : Cap) : BtChan :=
  { b.to 1 0 with ctl := putBit (b.to 1 0).ctl 51 false, cur := c, ends := false, haltWith := none, rep := false }

/-- BTHEAD is written (R132). -/
def BtChan.writeHead (b : BtChan) (c : Cap) : BtChan :=
  let b := { b with head := c }
  if b.state = 1 ∨ b.state = 3 then { b with ctl := putBit b.ctl 51 true } else b.run c

/-- The chain has reached its end, or a record that software owns: a latched head restarts it (R132). -/
def BtChan.stopAt (b : BtChan) (st : Nat) : BtChan := if bitOf b.ctl 51 then b.run b.head else { b.to st 0 with ends := false }

/-- `BTHEAD_WRITE`: R132. -/
def execBtheadWrite (ch : Nat) (bits : BitVec 128) (tag : Bool) (s : State) : Res := .next (s.onBt ch fun b => b.writeHead ⟨bits, tag⟩)

/-! ### Records -/

/-- The channel is to halt with a cause, after the records ahead (R134). -/
def BtChan.haltSoon (b : BtChan) (code : Nat) : BtChan := if b.recs = [] then b.to 4 code else { b with haltWith := some code }

/-- `tile_ok` for a record's first bytes and its destination (R136). -/
def State.tileOk (s : State) (h : Nat) (dst : Cap) : Bool :=
  let st := nbits h 116 110
  let b := (s.stn (stnOf (nbits h 118 117 * 96 + st))).bitmap (nbits h 109 107)
  let len := nbits h 95 64
  let o := dst.cursor - b.tile
  decide (st < 96) && b.v && dst.node == s.nodeId && dst.obj == b.objOf && decide (b.tile ≤ dst.cursor) && o % 512 == 0 &&
    decide (o + len ≤ 512 * b.chunks) && (len % 512 == 0 || o + len == 512 * b.chunks)

/-- A transfer capability of a record over its length (R18, R134). -/
def recordCheck (c : Cap) (node len need : Nat) : Option Nat :=
  match capCheck c node 0 len need true false with
  | .error x => some x
  | .ok _ => none

/-- A record taken into the channel, finished already where it is malformed. -/
def BtChan.take (b : BtChan) (r : BtRec) : BtChan := { b with recs := b.recs ++ [r] }

/-- A record of telemetry of a chain's record taken (0) or handed back (1): its channel, and its number among those of the channel (R400,
log entry 132). -/
def State.btRecord (s : State) (ch sub status n : Nat) : State :=
  let p := (s.btc ch).part
  if bitOf (s.part p).smpcfg 61 then s.telemetry p 0 s.cyc (telWord 4 sub 0 127 7 0) (status + ch % 64 * 256) n else s

/-- Records that a channel has handed back (R132). -/
def BtChan.count_ (b : BtChan) : Nat := bitsOf b.ctl 31 0

/-- The transfer of a record: its pieces are mutually unordered (R134). -/
def State.startRecord (s : State) (ch : Nat) (r : BtRec) (src dst : Cap) : State :=
  let s := s.btRecord ch 0 0 ((s.btc ch).count_ + (s.btc ch).recs.length)
  let b := s.btc ch
  let rop := nbits r.head 63 62
  let u : UOp :=
    { s.newUOp (.bt ch r.id) with
      k := 0, part := b.part, ctx := 0, eng := 7, seq := 0, issue := s.cyc, level := .task, limit := dst.limit
      src := some ⟨src.node, src.obj, 0⟩, dst := some ⟨dst.node, dst.obj, 0⟩, add := rop
      pieces := untimedRun (s.cutOf b.part (.mem src.node src.obj) (.mem dst.node dst.obj)) (1, 1) (0, 0) (r.len + 1) src.cursor dst.cursor r.len 0 }
  (s.onBt ch fun b => b.take r).enqueue u

/-- The 64 bytes of a record with the tags of its three capabilities, judged and started (R133, R134). -/
def State.judgeRecord (s : State) (ch : Nat) (bs : List Byte) (tags : Bool × Bool × Bool) : State :=
  let b := s.btc ch
  let h := leNat (bs.take 16)
  let cap := fun (i : Nat) (t : Bool) => (⟨BitVec.ofNat 128 (leNat ((bs.drop (16 * i)).take 16)), t⟩ : Cap)
  let (src, dst, next) := (cap 1 tags.1, cap 2 tags.2.1, cap 3 tags.2.2)
  let len := nbits h 95 64
  let k := stnOf (nbits h 118 117 * 96 + nbits h 116 110)
  let m := (s.stn k).bitmap (nbits h 109 107)
  let bme := nbits h 119 119 == 1
  let r : BtRec :=
    ⟨s.nextId, b.cur, h, bme, k.val, nbits h 109 107, m.gen, if bme then (dst.cursor - m.tile) / 512 else 0, len, 0, none, false⟩
  let bad := fun (s : State) (code : Nat) => s.onBt ch fun b => { b.take { r with finished := some 5 } with haltWith := some code }
  if nbits h 127 127 = 0 then s.onBt ch fun b => b.stopAt 2
  else
    let s := { s with nextId := s.nextId + 1 }
    if nbits h 123 120 ≠ 0 ∨ nbits h 99 96 ≠ 0 ∨ nbits h 61 0 ≠ 0 ∨ nbits h 63 62 = 3 ∨ len = 0 ∨ src.tag = false ∨ dst.tag = false ∨
        (bme = true ∧ s.tileOk h dst = false) then bad s 8
    else match recordCheck src s.nodeId len Right.copySrc, recordCheck dst s.nodeId len Right.copyDst with
      | some x, _ => bad s x
      | none, some x => bad s x
      | none, none =>
        (s.startRecord ch r src dst).onBt ch fun b => if next.tag then { b with cur := next } else { b with ends := true }

/-- A channel that met a memory fault at its chain parks (R140). -/
def State.parkChain (s : State) (ch code : Nat) (rep : Bool) : State :=
  let b := s.btc ch
  (s.onBt ch fun b => { b.to 3 code with rep := true }).faultRecord b.part ⟨2, code, rep, 0, ch, 0, b.cur.obj, b.cur.node, b.cur.cursor, b.cur.cursor⟩

/-- The operation that reads a record which does not lie in a bank or in the stack. -/
def State.chainRead (s : State) (ch : Nat) : Option UOp := s.uops.find? fun u => u.owner == .bt ch 0 && u.dst.isNone

/-- A granule of an own object in a bank or in the stack: its key, or its fault, or neither. -/
def State.granule (s : State) (p obj o : Nat) : Except Nat (Option Nat) :=
  match s.look p obj o 16 with
  | .fault c => .error c
  | .at_ (.host _) _ _ => .ok none
  | .at_ (.peer ..) _ _ => .ok none
  | .at_ ph _ _ => .ok (some (s.physKey .task ph))
  | .transit => .ok none

/-- The place of a memory key, at its line (R46). -/
def placeOfKey (a : Nat) : Phys :=
  if a < 2 ^ 34 then .stack (a / 256 * 256) else .bank ((a - 2 ^ 34) / 2 ^ 20) ((a - 2 ^ 34) % 2 ^ 20 / 256 * 256)

/-- The next record of a chain read in one access of its place where it lies on the package, with its words corrected, or through an untimed
read where it does not; copies carry no tags (R22, R134, R386). -/
def State.readRecord (s : State) (ch : Nat) : State :=
  let b := s.btc ch
  let rep := b.rep
  let c := b.cur
  let own := c.node == s.nodeId
  let gs := (List.range 4).map fun i => s.granule b.part c.obj (c.cursor + 16 * i)
  match (if own then gs.findSome? fun g => match g with
      | .error x => some x
      | .ok _ => none else none) with
  | some x => s.parkChain ch x rep
  | none =>
    let keys := gs.filterMap fun g => match g with
      | .ok k => k
      | .error _ => none
    if own && decide (keys.length = 4) then
      let walks := (List.range 4).map fun i => s.walk 0 b.part c.obj (c.cursor + 16 * i) 16 false
      match walks.findSome? fun (_, a, t) => a.map fun a => s.afterSwap t a with
      | some t => t
      | none =>
      if keys.any fun a => s.placeTaken (placeOfKey a) then s else
      let s := (keys.map placeOfKey).eraseDups.foldl State.serve (s.onBt ch fun b => { b with rep := false })
      let s := keys.foldl (fun s a => s.correctWords (if a < 2 ^ 34 then 0 else stnOf ((a - 2 ^ 34) / 2 ^ 20)) b.part 0 a 16) s
      let tag := fun (i : Nat) => s.mem.tagAt (keys.getD i 0)
      s.judgeRecord ch (keys.flatMap fun k => s.mem.readN k 16) (tag 1, tag 2, tag 3)
    else match s.chainRead ch with
      | some u =>
        if u.answered then
          let s := { s with uops := s.uops.filter (·.id != u.id) }
          if u.pieces.any (·.st == .failed) then s.onBt ch fun b => b.haltSoon 8
          else s.judgeRecord ch (u.pieces.flatMap (·.data)) (false, false, false)
        else s
      | none => s.enqueue { s.newUOp (.bt ch 0) with
          k := 0, part := b.part, ctx := 0, eng := 7, seq := 0, issue := s.cyc, level := .task
          src := some ⟨c.node, c.obj, 0⟩
          pieces := (List.range 4).map fun i => UPiece.plain (c.cursor + 16 * i) 0 16 (16 * i) [] }

/-- A channel may take its next record: it runs, and holds fewer than 8 (R134). -/
def BtChan.follows (b : BtChan) : Bool := b.state == 1 && decide (b.recs.length < 8) && !b.ends && b.haltWith.isNone

/-- `BT_CHAIN_RECORD`: R134. -/
def execBtChainRecord (ch : Nat) (s : State) : Res :=
  .next (let b := s.btc ch
    if b.follows = false then s
    else match capCheck b.cur s.nodeId 0 64 (Right.read ||| Right.write) true true with
      | .error x => s.onBt ch fun b => b.haltSoon x
      | .ok o => if o % 64 ≠ 0 then s.onBt ch fun b => b.haltSoon 8 else s.readRecord ch)

/-! ### Hand-back -/

/-- The STATUS of a record whose transfer, or whose hand-back, has ended (R133): done, or a peer's error. -/
def State.recordStatus (s : State) (ch : Nat) (r : BtRec) : Option Nat :=
  match s.uops.find? fun u => u.owner == Owner.bt ch r.id with
  | some u => if u.pieces.all (fun p => p.st == .done || p.st == .failed) then
      some (r.finished.getD (if u.pieces.any (·.st == .failed) then 3 else 1)) else none
  | none => some (r.finished.getD 1)

/-- Bytes 0 to 15 of a record as `hand_back` writes them (R134). -/
def BtRec.back (r : BtRec) (status : Nat) : List Byte :=
  leBytes 16 (nput (nput (nput r.head 127 127 0) 126 124 status) 106 100 r.flags.toNat)

/-- The write of `hand_back` of a record, which is an untimed write like any other (R134, R135). -/
def State.backWrite (s : State) (ch : Nat) (r : BtRec) (status : Nat) : State :=
  let b := s.btc ch
  s.enqueue { s.newUOp (.bt ch r.id) with
    k := 0, part := b.part, ctx := 0, eng := 7, seq := 0, issue := s.cyc, level := .task, limit := r.cap.limit
    dst := some ⟨r.cap.node, r.cap.obj, 0⟩
    pieces := [{ UPiece.plain 0 r.cap.cursor 16 0 (r.back status) with st := .held }] }

/-- `hand_back` begins: the record's transfer has left the queues (R134). -/
def State.handBack (s : State) (ch : Nat) (r : BtRec) (status : Nat) : State :=
  let s := { s with uops := s.uops.filter fun (u : UOp) => u.owner != Owner.bt ch r.id }
  (s.backWrite ch r status).onBt ch fun b => { b with
    recs := b.recs.map fun x => if x.id = r.id then { x with finished := some status, backing := true } else x }

/-- A record has been handed back: RECS counts it (R134). -/
def State.handedBack (s : State) (ch : Nat) (r : BtRec) : State :=
  let s := s.btRecord ch 1 (r.finished.getD 0) (s.btc ch).count_
  let s := { s with uops := s.uops.filter fun (u : UOp) => u.owner != Owner.bt ch r.id }
  s.onBt ch fun b => { b with recs := b.recs.filter (·.id != r.id), ctl := putBits b.ctl 31 0 (b.count_ + 1) }

/-- What follows when the last record in progress has been handed back: a halt that waited, or the end of the chain (R132, R134). The
pseudocode sets IDLE as it starts a record that has no next; the model does so when every record has been handed back (log entry 148). -/
def BtChan.settle (b : BtChan) : BtChan :=
  if b.recs ≠ [] then b
  else match b.haltWith with
    | some c => { b.to 4 c with haltWith := none, ends := false }
    | none => if b.ends then b.stopAt 0 else b

/-- `BT_HAND_BACK`: R135. The oldest record is handed back once every write of it has been performed; it leaves the channel once the
write of its hand-back has been. -/
def execBtHandBack (ch : Nat) (s : State) : Res :=
  .next (match (s.btc ch).recs with
    | [] => s
    | r :: _ => match s.recordStatus ch r with
      | none => s
      | some x => if r.backing then (s.handedBack ch r).onBt ch BtChan.settle else s.handBack ch r x)

/-- `cabort.bt` at the fabric engine (R140, R333): every record in progress is handed back with STATUS 100. -/
def State.abortBt (s : State) (ch : Nat) : State :=
  let b := s.btc ch
  if b.state = 0 then s
  else
    let back := fun (id : Nat) => b.recs.any fun r => r.id == id && r.backing
    let s := { s with uops := s.uops.filter fun u => match u.owner with
      | .bt c id => c != ch || back id
      | _ => true }
    let s := if b.state = 1 ∨ b.state = 3 then b.recs.foldl (fun s r =>
        let s := if r.backing then s else s.backWrite ch r 4
        (s.btRecord ch 1 (if r.backing then r.finished.getD 0 else 4) (s.btc ch).count_).onBt ch fun b =>
          { b with ctl := putBits b.ctl 31 0 (b.count_ + 1) }) s
      else s
    s.onBt ch fun b => { b.to 0 0 with ctl := putBit (b.to 0 0).ctl 51 false, recs := [], ends := false, haltWith := none, rep := false }

/-- A channel has parts that parked and have not been performed since (R140). -/
def State.btStuck (s : State) (ch : Nat) : Bool :=
  s.uops.any fun u => (match u.owner with
    | .bt c _ => c == ch
    | _ => false) && u.pieces.any fun p => p.stop.isSome || (p.rep.isSome && p.st != .done && p.st != .failed)

/-- Parked parts of a channel have all been performed: it runs again (R140). -/
def State.btResume (s : State) (ch : Nat) : State :=
  if (s.btc ch).state = 3 ∧ s.btStuck ch = false then s.onBt ch fun b => b.to 1 0 else s

/-- What follows a part of a block transfer: where it was the last of those that had parked, the channel runs again (R140). -/
def State.afterBt (t s : State) (id : Nat) : State :=
  match (s.uops.find? (·.id == id)).map fun (u : UOp) => u.owner with
  | some (Owner.bt ch _) => if s.btStuck ch && !t.btStuck ch then t.btResume ch else t
  | _ => t

end Sys2Proof.Machine
end

