-- ==== Sys2Proof/Machine/Fabric.lean ====
section
/-!
DEFINITION. The fabric queue's transfers and atomics at issue, and their write-back (R340 to R345, R365).
-/

namespace Sys2Proof.Machine

/-! ### Descriptors -/

/-- Fields of bytes 0 to 15 of a fabric descriptor (R341). -/
def fdAwe (d : Nat) : Bool := nbits d 89 89 == 1
def fdAsem (d : Nat) : Nat := nbits d 88 83
def fdSrcc (d : Nat) : BitVec 4 := BitVec.ofNat 4 (nbits d 111 108)
def fdDstc (d : Nat) : BitVec 4 := BitVec.ofNat 4 (nbits d 107 104)
def fdRop (d : Nat) : Nat := nbits d 103 102
def fdBaye (d : Nat) : Bool := nbits d 101 101 == 1
def fdBay (d : Nat) : Nat := nbits d 100 97
def fdCfmt (d : Nat) : Nat := nbits d 82 79
def fdLen (d : Nat) : Nat := nbits d 159 128

/-- The commands of a station whose completion has not been written (R340). -/
def State.outstanding (s : State) (k : Stn) : Nat := (s.pkg.fab.cmds.filter fun c => c.k == k).length

/-- A fabric command that its checks let pass: it takes its place behind the commands issued before it (R340). -/
def State.issueCmd (s : State) (op off bits : Nat) (caps : List Cap) (bay : Option Nat) : State :=
  let s := s.onHere fun t => if fdAwe bits then t.lower (fdAsem bits) else t
  let s := match bay with
    | some b => s.onHere fun t => t.pendBay b
    | none => s
  let c : FCmd :=
    { id := s.nextId, k := s.cur.k, ctx := bitsOf s.here.sys.ctxid 15 0, op := op, desc := off, bits := bits, caps := caps, issue := s.cyc, issueNom := s.now
      stamp := s.cur.stamp, pc := s.cur.pc, accepted := false, status := 0, ecode := 0, set_ := false, flags := 0, bay := bay
      rsem := if nbits bits 96 96 = 1 then some (nbits bits 95 90) else none, unit := 0, finished := false, level := s.here.run.level }
  { s.onFab fun f => { f with cmds := f.cmds ++ [c] } with nextId := s.nextId + 1 }

/-- Checks 1 and 2 of R343 on a descriptor of n bytes; the rest goes on with its offset and its bits. -/
def State.fabricDesc (s : State) (desc : BitVec 16) (n : Nat) (f : Nat → Nat → State) : State :=
  let off := desc.toNat * 16
  s.need (off + n ≤ 0xF_8000) <|
    let d := s.descNat s.cur.k off n
    if fdAwe d && !s.here.raised (fdAsem d) then s.scheduleMiss 1 else f off d

/-- Check 6 of R343. -/
def State.roomFor (s : State) (t : State) : State := if 16 ≤ s.outstanding s.cur.k then s.scheduleMiss 3 else t

/-! ### Transfers -/

/-- Pieces of a transfer between places on the package are those of an untimed copy; one to or from a peer is cut into packets, each of
whole blocks of 32 where it is compressed (R358, R365). -/
def packetRun (n : Nat) : Nat → Nat → Nat → Nat → Nat → List UPiece
  | 0, _, _, _, _ => []
  | f + 1, sa, da, left, pos =>
    if left = 0 then []
    else
      let m := min left n
      ⟨sa, m, da, m, pos, .idle, 0, false, false, [], 0, 0, none, none, (0, 0), false⟩ :: packetRun n f (sa + m) (da + m) (left - m) (pos + m)

/-- Source bytes of a packet: 256, or as many as whole compressed blocks of at most 256 bytes take (R358, R365). -/
def packetBytes (cfmt : Nat) : Nat := if cfmt ≠ 0 then 256 / (1 + 4 * (cfmt + 1)) * 128 else 256

/-- Pieces of a compressed transfer to an own object: whole blocks of 32 FP32 elements that make whole units there, and what they take
there. -/
def blockRun (sb db : Nat) : Nat → Nat → Nat → Nat → List UPiece
  | 0, _, _, _ => []
  | f + 1, sa, da, pos => ⟨sa, sb, da, db, pos, .idle, 0, false, false, [], 0, 0, none, none, (0, 0), false⟩ :: blockRun sb db f (sa + sb) (da + db) (pos + db)

/-- A transfer as its pages at issue describe it (R342). -/
def State.transferPlan (s : State) (src dst : Cap) (d : Nat) (bay : Bool) : CopyPlan :=
  let k := s.cur.k
  let sa : Int := src.cursor + sint 48 (nbits d 207 160)
  let da : Int := dst.cursor + sint 48 (nbits d 255 208)
  let ss : Side := .mem src.node src.obj
  let ds : Side := if bay then .fifo else .mem dst.node dst.obj
  let sv := s.view k false ss sa
  let (e, b) := unitOf (pairConverts bay sv (s.view k false ds da)) sv
  s.planOf k false ss ds (fdLen d / b * e) [(sa, if bay then 0 else da)]

/-- Bytes of the destination footprint: the converted size on the issuing node, LEN otherwise (R342, R343). -/
def CopyPlan.extentBytes (p : CopyPlan) (len : Nat) : Nat := if p.convert then p.dn else len

/-- The format-alignment subcode of a transfer of len source bytes: whole blocks and groups on both sides, and whole elements where it
converts (R74, R80, R342). -/
def State.transferSpan (s : State) (p : CopyPlan) (len : Nat) : Nat :=
  let k := s.cur.k
  max (max (if p.convert ∧ len % (unitOf p.convert p.sv).2 ≠ 0 then 1 else 0) (s.sideSpan k false p.src (pageFuel len) p.run0.sa len))
    (s.copySpan k false p)

/-- The pieces of a transfer. -/
def State.transferPieces (s : State) (p : CopyPlan) (d : Nat) : List UPiece :=
  let sa := p.run0.sa
  let da := p.run0.da
  let far := fun (x : Side) => match x with
    | .mem n _ => n != s.nodeId
    | _ => false
  let len := fdLen d
  let c := fdCfmt d
  if far p.dst then packetRun (packetBytes c) (len + 1) sa.toNat da.toNat len 0
  else if c ≠ 0 then
    let (e, b) := if p.convert then fmtUnit p.dv.fmt p.dv.geom else (1, 4)
    let m := max 32 e
    blockRun (4 * m) (m / e * b) (len / (4 * m)) sa.toNat da.toNat 0
  else p.runParts s (s.partOf s.cur.k) p.run0 da.toNat 0

/-- Check 3 of R343 for the three transfers. -/
def transferFields (op d : Nat) : Bool :=
  let c := fdCfmt d
  nbits d 75 0 == 0 && fdLen d != 0 && decide (c ≤ 7) && (c == 0 || fdLen d % 128 == 0) &&
    (if op = 5 then fdRop d == 1 || fdRop d == 2 else fdRop d == 0) &&
    (if op = 1 then c == 0 && (!fdBaye d || decide (fdLen d ≤ 256) && fdDstc d == 0) else !fdBaye d)

/-- A reduction's destination page of the issuing node has the format of its ROP (R343). -/
def State.reducible (s : State) (p : CopyPlan) (rop : Nat) : Bool :=
  match p.dst with
  | .mem n obj => n != s.nodeId || (List.range (pageFuel p.dn)).all fun j =>
      let o := p.run0.da + (min (j * 65536) (p.dn - 1) : Nat)
      match s.look (s.partOf s.cur.k) obj o.toNat 1 with
      | .at_ (.peer ..) _ _ => true
      | .at_ _ e _ => leafFmt e == (if rop = 2 then 0xE else 0xD)
      | _ => true
  | _ => true

/-- `fput`, `fget` and `fred` at issue (R342, R343). -/
def State.transfer (s : State) (op : Nat) (desc : BitVec 16) : State :=
  s.fabricDesc desc 32 fun off d => s.need (transferFields op d = true) <|
    let src := s.rc (fdSrcc d)
    let dst := s.rc (fdDstc d)
    let bay := fdBaye d
    let len := fdLen d
    let k := s.cur.k
    match capCheck src s.nodeId (sint 48 (nbits d 207 160)) len Right.copySrc (op == 1) false with
    | .error x => s.capViolation x
    | .ok _ =>
      let p := s.transferPlan src dst d bay
      s.need (fdCfmt d = 0 ∨ p.sv.fmt = 0xD) <|
      match (if bay then Except.ok 0 else capCheck dst s.nodeId (sint 48 (nbits d 255 208)) (p.extentBytes len) Right.copyDst (op != 1) false) with
      | .error x => s.capViolation x
      | .ok _ =>
        if s.transferSpan p len ≠ 0 then s.formatTrap (s.transferSpan p len)
        else
          s.need ((bay = false ∨ (s.here.bay (fdBay d)).st ≠ .pending) ∧ (bay = true ∨ pairsAgree (s.copyPairs k false p) = true) ∧
            (op ≠ 5 ∨ s.reducible p (fdRop d) = true)) <|
          s.roomFor <|
            let u := s.newUOp (.fabric s.nextId)
            (s.issueCmd op off d [] (if bay then some (fdBay d) else none)).enqueue { u with
              id := s.nextId + 1, rq := 6, wq := if bay then noQueue else 7
              src := p.src.loc, dst := p.dst.loc, add := if op = 5 then fdRop d else 0
              srcFmt := p.sv.fmt, srcGeom := p.sv.geom, dstFmt := p.dv.fmt, dstGeom := p.dv.geom, convert := p.convert
              ssu := if fdCfmt d = 0 then none else some (nbits d 78 76)
              limit := dst.limit, pieces := s.transferPieces p d }

/-- `fput`: R342, R343, R365. -/
def execFput (d : BitVec 16) (s : State) : Res := .next (s.transfer 0 d)
/-- `fget`: R342, R343. -/
def execFget (d : BitVec 16) (s : State) : Res := .next (s.transfer 1 d)
/-- `fred`: R342, R343, R365. -/
def execFred (d : BitVec 16) (s : State) : Res := .next (s.transfer 5 d)

/-! ### Atomics and multicast -/

/-- Check 3 of R343 for the two atomics (R344). -/
def atomicFields (cas : Bool) (d : Nat) : Bool :=
  nbits d 111 108 == 0 && fdRop d == 0 && fdCfmt d == 0 && nbits d 78 76 == 0 && nbits d 71 0 == 0 && nbits d 383 304 == 0 &&
    (if cas then fdBaye d && nbits d 75 73 == 0 else nbits d 255 192 == 0 && (nbits d 75 73 != 7 || nbits d 72 72 == 0))

/-- `famo` and `facas` at issue (R344). -/
def State.fabricAtomic (s : State) (op : Nat) (desc : BitVec 16) : State :=
  s.fabricDesc desc 48 fun off d => s.need (atomicFields (op == 3) d = true) <|
    let dst := s.rc (fdDstc d)
    let n := if nbits d 72 72 = 1 then 8 else 4
    s.checked dst (sint 48 (nbits d 303 256)) n Right.atomic true false fun o =>
      s.need (o % n = 0) <| s.need (fdBaye d = false ∨ (s.here.bay (fdBay d)).st ≠ .pending) <| s.roomFor <|
        let u := s.newUOp (.fabric s.nextId)
        (s.issueCmd op off d [] (if fdBaye d then some (fdBay d) else none)).enqueue { u with
          id := s.nextId + 1, wq := 7, dst := some ⟨dst.node, dst.obj, 0⟩, limit := dst.limit, pieces := [UPiece.plain 0 o n 0 []] }

/-- `famo`: R344. -/
def execFamo (d : BitVec 16) (s : State) : Res := .next (s.fabricAtomic 2 d)
/-- `facas`: R344. -/
def execFacas (d : BitVec 16) (s : State) : Res := .next (s.fabricAtomic 3 d)

/-- No number stands twice in a list. -/
def distinct : List Nat → Bool
  | [] => true
  | a :: r => !r.contains a && distinct r

/-- `fmcast`: R345. -/
def execFmcast (desc : BitVec 16) (s : State) : Res :=
  .next (s.fabricDesc desc 64 fun off d =>
    let peers := mcastPeers d
    s.need (nbits d 75 0 = 0 ∧ fdLen d ≠ 0 ∧ fdRop d = 0 ∧ fdBaye d = false ∧ fdCfmt d = 0 ∧ nbits d 511 414 = 0 ∧ nbits d 263 260 = 0 ∧
        peers ≠ [] ∧ peers.contains s.nodeId = false ∧ distinct peers = true) <|
      let src := s.rc (fdSrcc d)
      let dst := s.rc (fdDstc d)
      let len := fdLen d
      s.checked src (sint 48 (nbits d 207 160)) len Right.copySrc false false fun _ =>
        s.checked dst (sint 48 (nbits d 255 208)) len Right.copyDst true false fun _ =>
          let dcap : Cap := Cap.make (peers.headD 0) dst.obj dst.rights dst.limit dst.cursor true
          let p := s.transferPlan src dcap d false
          if s.transferSpan p len ≠ 0 then s.formatTrap (s.transferSpan p len)
          else s.roomFor <|
            let u := s.newUOp (.fabric s.nextId)
            (s.issueCmd 4 off d [] none).enqueue { u with
              id := s.nextId + 1, rq := 6, wq := 7, src := p.src.loc, dst := p.dst.loc, srcFmt := p.sv.fmt, srcGeom := p.sv.geom
              limit := dst.limit, pieces := s.transferPieces p d })

/-- `fsync`: R108, R109, R351. -/
def execFsync (k : BitVec 3) (m : BitVec 9) (s : State) : Res := .next (s.fence k m)

/-! ### Write-back -/

/-- The operation of a fabric command. -/
def State.opOf (s : State) (c : FCmd) : Option UOp := s.uops.find? fun u => u.owner == .fabric c.id

/-- The code that ends a command: that of the first failing part in stream order (R343), and of a multicast that of the lowest-numbered
failing peer (R345). -/
def firstError (l : List UPiece) : Option Nat :=
  ((l.filter (·.st == .failed)).foldl (fun m p => match m with
    | none => some p.code
    | some c => if p.code / 16 < c / 16 then some p.code else some c) none).map (· % 16)

/-- STATUS and ECODE with which a command ends, once everything that it sent has ended (R340, R343, R345). A bay that awaits data must have received it; one that gets none becomes VOID with the write-back (R342). A segment for the injection buffer is staged first (R356). -/
def State.cmdEnd (s : State) (c : FCmd) : Option (Nat × Nat) :=
  if c.op = 7 ∨ c.op = 8 then (if c.status ≠ 0 then some (c.status, c.ecode) else none)
  else match s.opOf c with
  | some u =>
    if u.answered || u.pieces.all (fun p => p.st == .done || p.st == .failed) then
      match firstError u.pieces with
      | some e => some (if c.status ≠ 0 then (c.status, c.ecode) else if c.op = 6 then (6, e) else (3, e))
      | none => if c.status ≠ 0 then some (c.status, c.ecode) else if c.bay.isSome ∨ c.op = 14 then none else some (1, 0)
    else none
  | none => if c.status ≠ 0 then some (c.status, c.ecode) else none

/-- Bytes 0 to 15 of a descriptor as the write-back leaves them (R341). -/
def writtenBack (bits status set_ flags ecode : Nat) : List Byte :=
  leBytes 16 (nput (nput (nput (nput (nput bits 127 127 1) 126 124 status) 123 123 set_) 122 116 flags) 115 112 ecode)

/-- The key of a command's descriptor (R195, R340). -/
def State.descKey (s : State) (c : FCmd) : Nat := bankKey c.k.val (s.remap c.k .task c.desc)

end Sys2Proof.Machine
end

