-- ==== Sys2Proof/Machine/FabricLink.lean ====
section
/-!
DEFINITION. Packets and completions that come back, and request packets of peers: replies, resends, time-outs, the order of requests,
exactly-once atomics, multicast chains, parked arrivals and the host's completions (R39, R120, R139, R343, R345, R357 to R363, R365,
R370, R371, R393).
-/

namespace Sys2Proof.Machine

/-! ### Outcomes of parts -/

/-- What has come back for a part of an operation. -/
inductive Back where
  | data (bs : List Byte) (poison settled far : Bool)
  | ack (flags : Flags) (settled : Bool) (n : Nat)
  | result (bs : List Byte)
  | error (code node : Nat)

/-- The outcome of a part that was sent reaches its operation. -/
def State.comeBack (s : State) (op i : Nat) (b : Back) : State :=
  match s.uops.find? (·.id == op) with
  | none => s
  | some u => match u.pieces[i]? with
    | none => s
    | some p =>
      match b with
      | .error c node => if p.st = .reading ∨ p.st = .writing then s.peerError u i c node else s
      | .data bs poison settled far =>
        if p.st = .reading then
          let v := { u.onPiece i fun q => { q with far := far } with settled := u.settled || settled }
          (s.onUOp op fun _ => v).pieceGot v i bs poison
        else s
      | .ack f settled n => if p.st = .writing then s.pieceDone u i n f settled else s
      | .result bs =>
        if p.st = .writing then (s.onUPiece op i fun q => { q with st := .done, data := bs }).reap else s

/-! ### Answers -/

/-- A packet that answers a request, on the plane by which it came (R358, R361). -/
def State.reply (s : State) (x : Packet) (opk arg : Nat) (data : List Byte) : State :=
  if s.planeUp x.plane = false then s
  else { s with out := s.out ++ [.packet { x with
    src := s.nodeId, dst := x.src, seq := 0, cls := 1, opk := opk, rseq := x.seq, arg := arg, len := data.length, data := data
    opnd := 0, newv := 0, peers := [], chx := 0 }] }

/-- ARG of an acknowledgement: the code, the flags of a reduction or a conversion, the page's SETTLED bit (R118, R342, R343). -/
def ackArg (code : Nat) (flags : Flags) (settled : Bool) : Nat := code + flags.toNat * 2 ^ 8 + b2n settled * 2 ^ 16

/-- ARG of an error: the peer code, and in bits [7:4] the index of the failing peer of a multicast (R343, R345; log entry 130). -/
def errorArg (code chx : Nat) : Nat := code + chx % 16 * 16

/-- What a peer of a multicast reports to the node that issued it: the last peer that it has done its part, a failing one its error, of the
peer with an index. RSEQ is the sequence number that the issuing node gave the packet (R345, R359; log entry 131). -/
def State.chainReport (s : State) (x : Packet) (code i : Nat) : State :=
  if s.planeUp x.plane = false then s
  else { s with out := s.out ++ [.packet { x with
    src := s.nodeId, dst := x.orig, seq := 0, cls := 1, opk := if code = 0 then 0x11 else 0x12, arg := if code = 0 then 0 else errorArg code i
    len := 0, data := [], opnd := 0, newv := 0 }] }

/-! ### Requests of peers -/

/-- The partition bound to a requester (R39). -/
def State.boundPart (s : State) (node part : Nat) : Option Nat :=
  (List.range 16).find? fun p => (s.part p).on && (s.part p).bindings.contains (node, part)

/-- What a write or a reduction of a peer stores: where, its bytes, the flags of their conversion, and the bytes as sent of a unit of which
a later packet brings the rest, with their position in the stream. -/
structure Stored where
  off : Nat
  bytes : List Byte
  flags : Flags
  rest : Option (Nat × List Byte)

/-- The offset at which the stream of a packet begins in its object (R342). -/
def streamBase (x : Packet) : Nat := x.off - x.opnd.toNat

/-- What is kept of a unit belongs to the stream of a packet (R365). -/
def Half.isOf (h : Half) (x : Packet) : Bool :=
  h.src == x.src && h.orig == x.orig && h.opart == x.opart && h.ctx == x.ctx && h.obj == x.obj && h.base == streamBase x

/-- The bytes of a unit that earlier packets of a stream have brought, where the packet goes on with them (R365). -/
def State.begun (s : State) (x : Packet) : Option Half := s.pkg.fab.halves.find? (·.isOf x)

/-- A stream as it is sent: elements and bytes of a unit, and the bytes of the source that a unit stands for (R359, R365). -/
def streamUnit (x : Packet) : Nat × Nat × Nat :=
  if x.cmp then let (e, b) := fmtUnit x.cfmt 0; (e, b, 4 * e) else let (e, b) := fmtUnit (x.fmt % 16) (x.fmt / 16 % 4); (e, b, b)

/-- Bytes of the source that n bytes of a stream as it is sent stand for. -/
def sourceBytes (x : Packet) (n : Nat) : Nat := let (_, b, c) := streamUnit x; if x.cmp then n / b * c else n

/-- The values of whole units of a stream as it is sent (R73, R84). -/
def streamValues (x : Packet) (bs : List Byte) : List FVal :=
  let (_, b, _) := streamUnit x
  if x.cmp then decodeRun x.cfmt 0 (bs.length / b) bs else decodeRun (x.fmt % 16) (x.fmt / 16 % 4) (bs.length / b) bs

/-- Bytes that keep their format cover whole blocks or groups of the page, as a whole stream, and no padding (R74, R342). -/
def spanKept (df dg po0 total po n : Nat) : Bool :=
  let (e, b) := fmtUnit df dg
  po0 % b == 0 && (e == 1 || total % b == 0 && decide (po + n ≤ 65536 / b * b))

/-- What a write or a reduction of a peer stores, or the peer code (R342, R343, R365). A stream is converted as a whole: the bytes of a
unit that a packet leaves unfinished are kept until the next packet brings the rest. Positions count bytes of the source. -/
def State.serveBytes (s : State) (p : Nat) (x : Packet) : Except Nat Stored :=
  let pos := x.opnd.toNat
  let sf := if x.cmp then 0xD else x.fmt % 16
  let (df, dg) := match s.look p x.obj (streamBase x) 1 with
    | .at_ _ e _ => (leafFmt e, leafGeom e)
    | _ => (0, 0)
  let wrong := x.opk ≠ 1 ∧ !((df == 0xD && x.aop != 2) || (df == 0xE && x.aop != 1))
  let (se, sb, sc) := streamUnit x
  let next := pos + sourceBytes x x.data.length
  let total := if x.newv = 0 then next else x.newv.toNat
  let po := fun (o : Nat) => (o + descBase (s.descriptor p x.obj)) % 65536
  if x.cmp ∧ x.data.length % sb ≠ 0 then .error 3
  else if wrong then .error 5
  else if df = 0 ∨ sf = 0 ∨ df = sf then
    let data := if x.cmp then (encodeRun 0xD 0 0 (x.data.length / sb * se) (streamValues x x.data) none).bytes else x.data
    if sf ≠ 0 ∧ df ≠ 0 ∧ spanKept df dg (po (streamBase x)) total (po x.off) data.length = false then .error 3 else .ok ⟨x.off, data, 0, none⟩
  else
    let (de, db) := fmtUnit df dg
    let h := if pos = 0 then none else s.begun x
    let all := (h.map (·.bytes)).getD [] ++ x.data
    let first := pos - sourceBytes x (all.length - x.data.length)
    let n := all.length / sb * se / de
    let used := n * de / se * sb
    let o := streamBase x + first / sc * se / de * db
    if (h.any fun h => h.pos != pos) ∨ first % sc ≠ 0 ∨ first / sc * se % de ≠ 0 ∨ (total ≤ next ∧ used ≠ all.length) ∨
        spanCheck df dg (po o) (max 1 n * db) ≠ 0 then .error 3
    else
      let r := encodeRun df dg 0 n (streamValues x (all.take used)) none
      .ok ⟨o, r.bytes, r.flags, if used = all.length then none else some (next, all.drop used)⟩

/-- The operation that performs a request packet, which fails at once where no partition is bound, the object is not for peers, its
descriptor is malformed, or a byte lies beyond LENGTH or beyond the bound, in the order of R35; with the bytes left for a later
packet (R39, R342, R343). The packet is one access: its range is checked whole (log entry 34). -/
def State.serveOp (s : State) (x : Packet) : UOp × Option (Nat × List Byte) :=
  let p := (s.boundPart x.orig x.opart).getD 0
  let d := s.descriptor p x.obj
  let u : UOp := { s.newUOp .serve with
    k := 0, part := p, ctx := x.ctx, eng := 0, seq := 0, issue := s.cyc - 1, level := .task, limit := x.limit
    add := if x.opk = 4 ∨ x.opk = 5 then x.aop else 0 }
  let fail := fun (c : Nat) => ({ u with pieces := [{ UPiece.plain x.off x.off x.len 0 [] with st := .failed, code := c }] }, none)
  if (s.boundPart x.orig x.opart).isNone ∨ bitsOf (s.part p).otcfg 55 34 ≤ x.obj ∨ descV d = false ∨ descPeer d = false then fail 1
  else if descBad d p then fail 3
  else if x.opk = 2 then
    (if descLen d < x.off + x.len then fail 2
     else ({ u with src := some ⟨s.nodeId, x.obj, 0⟩, pieces := [UPiece.plain x.off 0 x.len 0 []] }, none))
  else if x.opk = 3 then
    (if min x.limit (descLen d) < x.off + x.asz then fail 2
     else ({ u with dst := some ⟨s.nodeId, x.obj, 0⟩, pieces := [UPiece.plain 0 x.off x.asz 0 []] }, none))
  else match s.serveBytes p x with
    | .error c => fail c
    | .ok r =>
      if min x.limit (descLen d) < r.off + r.bytes.length then fail 2
      else ({ u with
        dst := some ⟨s.nodeId, x.obj, 0⟩
        pieces := [{ UPiece.plain 0 r.off r.bytes.length 0 r.bytes with st := if r.bytes = [] then .done else .held, flags := r.flags }] }, r.rest)

/-- A request packet that a peer's operation performs from now on. -/
def State.startServe (s : State) (x : Packet) : State :=
  let (u, rest) := s.serveOp x
  (s.enqueue u).onFab fun f => { f with
    serving := f.serving ++ [(u.id, x)]
    halves := f.halves.filter (fun h => x.opk == 2 || x.opk == 3 || !h.isOf x) ++ match rest with
      | some (n, bs) => [⟨x.src, x.orig, x.opart, x.ctx, x.obj, streamBase x, n, bs⟩]
      | none => [] }

/-- A peer's request has ended: its code, and its result. -/
def UOp.served (u : UOp) : Option (Nat × List Byte) :=
  match u.pieces with
  | p :: _ => if p.st = .failed then some (p.code, []) else if u.answered then some (0, p.data) else none
  | [] => none

/-- The reply cache of a peer with an atomic's result: 64 entries, the oldest replaced first (R363). -/
def PeerLink.remember (l : PeerLink) (seq : Nat) (bs : List Byte) : PeerLink :=
  let c := l.cache ++ [(BitVec.ofNat 16 seq, BitVec.ofNat 64 (leNat (bs.take 8)), BitVec.ofNat 16 (leNat ((bs.drop 8).take 2)))]
  { l with cache := c.drop (c.length - 64) }

/-- A multicast packet may go on to the next peer of its list, if it has one (R120, R345, R362). -/
def State.mayForward (s : State) (x : Packet) : Bool :=
  match x.peers[x.chx + 1]? with
  | some n => s.mayRequest n false
  | none => true

/-- A peer's request that has ended is answered, and the next sequence number is expected; a multicast packet goes on to the next peer of
its list. The packet of the node that issued it is answered by the last peer, those between peers by their receivers; a peer that fails
reports that at once (R118, R345, R360 to R363; log entry 131). -/
def State.finishServe (s : State) (id : Nat) (x : Packet) (code : Nat) (data : List Byte) (u : UOp) : State :=
  let s := { s with uops := s.uops.filter (·.id != id) }
  let s := s.onFab fun f => { f with serving := f.serving.filter (·.1 != id) }
  let s := s.onPeer x.src fun l =>
    let l := if l.expect.toNat = x.seq then { l with expect := l.expect + 1 } else l
    if x.opk = 3 ∧ code = 0 then l.remember x.seq data else l
  match x.peers[x.chx + 1]? with
  | some n =>
    let s := s.request { x with src := s.nodeId, dst := n, chx := x.chx + 1 } 0 0 none (some x)
    let s := if x.chx = 0 then s else s.reply x 0x11 0 []
    if code = 0 then s else s.chainReport x code x.chx
  | none =>
    if 1 < x.peers.length then (s.reply x 0x11 0 []).chainReport x code x.chx
    else if code ≠ 0 then s.reply x 0x12 (errorArg code x.chx) []
    else if x.opk = 2 then s.reply { x with poison := u.pieces.any (·.poison) } 0x10 (ackArg 0 0 u.settled) data
    else s.reply x 0x11 (ackArg 0 u.flags u.settled) (if x.opk = 3 then data.take 16 else [])

/-- An operation of a peer's request with its packet, where it has ended and may be answered: its code and its result. -/
def State.servedBy (s : State) (id : Nat) (x : Packet) : Option (UOp × Nat × List Byte) :=
  (s.uops.find? (·.id == id)).bind fun u => if s.mayForward x then u.served.map fun (c, bs) => (u, c, bs) else none

/-- The requests of a peer are begun and answered in the order of their sequence numbers, as far as they go (R120, R362). -/
def State.pump (s : State) (src : Nat) : Nat → State
  | 0 => s
  | f + 1 =>
    let n := (s.peer src).expect.toNat
    match s.pkg.fab.serving.find? fun y => y.2.src == src && y.2.seq == n with
    | some (id, x) => match s.servedBy id x with
      | some (u, c, bs) => (s.finishServe id x c bs u).pump src f
      | none => s
    | none => match (s.peer src).held.find? (·.seq == n) with
      | some x => ((s.onPeer src fun l => { l with held := l.held.filter (·.seq != n) }).startServe x).pump src f
      | none => s

/-- What follows when something has been done for a peer's request: it is answered once it has ended, and its successors follow; a read
that is performed again is answered out of that order (R362). -/
def State.afterServe (s : State) (id : Nat) : State :=
  match s.serving id with
  | none => s
  | some x =>
    if x.seq = (s.peer x.src).expect.toNat then s.pump x.src (2 * (s.peer x.src).held.length + 2)
    else match s.servedBy id x with
      | some (u, c, bs) => s.finishServe id x c bs u
      | none => s

/-- The SETTLED bit of the page that a request packet accesses (R118). -/
def State.settledFor (s : State) (x : Packet) : Bool :=
  match s.look ((s.boundPart x.orig x.opart).getD 0) x.obj x.off 1 with
  | .at_ _ e _ => leafPlace e == 2 && s.settledNow e
  | _ => false

/-- A duplicate request (R362, R363); of one at the end of a multicast chain the issuing node hears again (R345). -/
def State.duplicate (s : State) (x : Packet) : State :=
  if x.opk = 2 then (s.startServe x).afterServe s.nextId
  else if x.opk = 3 then
    match (s.peer x.src).cache.find? (·.1.toNat == x.seq) with
    | some (_, v, w) => s.reply x 0x11 (ackArg 0 0 (s.settledFor x)) (leBytes 8 v.toNat ++ leBytes 2 w.toNat ++ List.replicate 6 0)
    | none => s.reply x 0x12 1 []
  else
    let s := s.reply x 0x11 (ackArg 0 0 (s.settledFor x)) []
    if 1 < x.peers.length ∧ x.chx + 1 = x.peers.length then s.chainReport x 0 x.chx else s

/-- A packet of a kind that the device does not use is discarded and counted (R357, R359). -/
def State.discard (s : State) : State :=
  s.onFab fun f => { f with fplane := putBits f.fplane 47 16 (min (bitsOf f.fplane 47 16 + 1) 0xFFFF_FFFF) }

/-- `FABRIC_REQUEST_ARRIVAL`: R39, R120, R357, R359, R362, R363. -/
def execFabricRequestArrival (x : Packet) (s : State) : Res :=
  .next (if unusable x 0 then s.discard
    else
      let l := s.peer x.src
      let d := (x.seq + 65536 - l.expect.toNat) % 65536
      let known := l.held.any (·.seq == x.seq) || s.pkg.fab.serving.any fun y => y.2.src == x.src && y.2.seq == x.seq
      if 32768 ≤ d then (if known then s else s.duplicate x)
      else if known then s
      else (s.onPeer x.src fun l => { l with held := l.held ++ [x] }).pump x.src (2 * l.held.length + 4))

/-! ### Replies, resends and time-outs -/

/-- A reply to a request packet reaches the operation whose part it was; a forwarded packet is done with it; a replayed atomic that its
home has forgotten takes the logged result (R343, R345, R393). -/
def State.replied (s : State) (u : Unacked) (x : Packet) : State :=
  let code := nbits x.arg 3 0
  match u.fwd with
  | some _ => s
  | none =>
    if x.opk = 0x10 then s.comeBack u.op u.piece (.data x.data x.poison (nbits x.arg 16 16 == 1) true)
    else if x.opk = 0x12 then
      match u.replay with
      | some v =>
        if u.pkt.opk = 3 ∧ code = 1 then s.comeBack u.op u.piece (.result (leBytes 16 v))
        else s.comeBack u.op u.piece (.error (nbits x.arg 7 0) x.src)
      | none => s.comeBack u.op u.piece (.error (nbits x.arg 7 0) x.src)
    else if u.pkt.opk = 3 then (s.logResult u.log (leNat (x.data.take 8))).comeBack u.op u.piece (.result x.data)
    else s.comeBack u.op u.piece (.ack (BitVec.ofNat 7 (nbits x.arg 14 8)) (nbits x.arg 16 16 == 1) u.pkt.len)

/-- A packet that this node sent into a multicast chain, of more than one peer: its end is reported by the last peer (R345). -/
def Unacked.chained (u : Unacked) : Bool := u.fwd.isNone && decide (1 < u.pkt.peers.length)

/-- A multicast packet has ended: with the error of the lowest-numbered failing peer, where one failed (R345). -/
def State.chainEnd (s : State) (u : Unacked) : State :=
  let code := (((s.uops.find? (·.id == u.op)).bind fun v => v.pieces[u.piece]?).map (·.code)).getD 0
  let s := s.onFab fun f => { f with unacked := f.unacked.erase u }
  s.comeBack u.op u.piece (if code = 0 then .ack 0 false u.pkt.len else .error code u.pkt.dst)

/-- A report of a peer of a multicast: a failure is kept, of several that of the lowest-numbered peer; the last peer's, and a time-out,
which no later peer follows, end the packet (R345, R361). -/
def State.chainReported (s : State) (u : Unacked) (x : Packet) : State :=
  let code := nbits x.arg 7 0
  let s := if x.opk = 0x12 then s.onUPiece u.op u.piece fun q => { q with code := if q.code = 0 ∨ code / 16 < q.code / 16 then code else q.code } else s
  if x.chx + 1 = u.pkt.peers.length ∨ (x.opk = 0x12 ∧ code % 16 = 6) then s.chainEnd u else s

/-- `FABRIC_REPLY_ARRIVAL`: R343, R345, R357, R359, R361, R393. The next peer's acknowledgement of a packet of a multicast chain ends its
resends, and no more. -/
def execFabricReplyArrival (x : Packet) (s : State) : Res :=
  .next (if unusable x 1 then s.discard
    else if x.peers ≠ [] then
      match s.pkg.fab.unacked.find? fun u => u.chained && u.pkt.peers == x.peers && u.pkt.seq == x.rseq with
      | none => s
      | some u => (s.chainReported u x).afterBt s u.op
    else match s.pkg.fab.unacked.find? fun u => u.pkt.dst == x.src && u.pkt.seq == x.rseq with
    | none => s
    | some u =>
      if u.chained then s.onFab fun f => { f with unacked := f.unacked.map fun v => if v = u then { v with resent := 3 } else v }
      else (((s.onFab fun f => { f with unacked := f.unacked.erase u }).replied u x).afterServe u.op).afterBt s u.op)

/-- `FABRIC_RESEND`: R361; the same sequence number on the next plane that is up. -/
def execFabricResend (idx : Nat) (s : State) : Res :=
  .next (match s.pkg.fab.unacked[idx]? with
    | none => s
    | some u => (s.emit u.pkt).onFab fun f =>
        { f with unacked := f.unacked.zipIdx.map fun (v, i) => if i = idx then { v with last := s.cyc, resent := v.resent + 1 } else v })

/-- What awaits the answer to a request packet that gets none (R246, R343, R345, R349, R361). -/
def State.packetLost (s : State) (u : Unacked) : State :=
  match u.fwd with
  | some y => s.chainReport y 6 u.pkt.chx
  | none => ((s.comeBack u.op u.piece (.error 6 u.pkt.dst)).afterServe u.op).afterBt s u.op

/-- `FABRIC_TIMEOUT`: R246, R343, R349, R361. -/
def execFabricTimeout (idx : Nat) (s : State) : Res :=
  .next (match s.pkg.fab.unacked[idx]? with
    | none => s
    | some u => (s.onFab fun f => { f with unacked := f.unacked.eraseIdx idx }).packetLost u)

/-! ### Parts -/

/-- An access of the host that has ended is answered: a read with its bytes, an atomic with the old value; a refused one sets HWERR, and
its read completes with data poison and bytes that no rule gives (R372, R373). -/
def State.afterWindow (s : State) (id : Nat) : State :=
  match s.uops.find? (·.id == id) with
  | none => s
  | some u => match u.owner with
    | .window a read =>
      let done := { s with uops := s.uops.filter (·.id != id) }
      let off := (u.pieces.head?.map fun p => if read then p.src else p.dst).getD 0
      match u.pieces.find? (·.st == .failed) with
      | some p =>
        let t := done.hostRefused (if p.code = 2 then 1 else 2) off
        if a.isSome then { t with out := t.out ++ [.hostAtomic 0 true] }
        else if read then { (t.draw).2 with out := t.out ++ [.hostRead (leBytes (u.pieces.map (·.srcLen)).sum (t.draw).1) true] }
        else t
      | none =>
        if u.answered = false then s
        else if a.isSome then { done with out := done.out ++ [.hostAtomic (BitVec.ofNat 64 (leNat ((u.pieces.flatMap (·.data)).take 8))) false] }
        else if read then { done with out := done.out ++ [.hostRead (u.pieces.flatMap (·.data)) (u.pieces.any (·.poison))] }
        else done
    | _ => s

/-- `UNTIMED_PART_PERFORM`: R102. Part 2i is the next part of the read of piece i, part 2i + 1 that of its write. A request of a peer or
of the host that ends is answered. Blocks that wait for a scale-selection unit are encoded (R78). -/
def execUntimedPartPerform (id part : Nat) (s : State) : Res :=
  .next (match s.uops.find? (·.id == id) with
    | none => s
    | some u => if (u.pieces[part / 2]?).any UPiece.waitsUnit then ((u.pieces[part / 2]?).map (s.pieceHeld u (part / 2))).getD s
      else if s.partReady u (part / 2) (part % 2 == 1) = false then s
      else (((s.performPart u (part / 2) (part % 2 == 1)).afterServe id).afterWindow id).afterBt s id)

/-! ### The host's completions -/

/-- `HOST_COMPLETION`: R370, R371. -/
def execHostCompletion (c : HostCompletion) (s : State) : Res :=
  .next (match s.pkg.hostl.waiting.find? (·.id == c.id) with
    | none => s
    | some r =>
      let s := { s with pkg := { s.pkg with hostl := { s.pkg.hostl with waiting := s.pkg.hostl.waiting.filter (·.id != c.id) } } }
      let s := match r.atom with
        | some _ =>
          if c.aborted then s.comeBack r.op r.piece (.error 3 s.nodeId)
          else (s.logResult r.log (leNat (c.data.take 8))).comeBack r.op r.piece
            (.result (bytesOf (atomLine (leNat (c.data.take 8)) false (match r.atom with
              | some a => a.cas && leNat (c.data.take 8) == a.opnd.toNat % 2 ^ (8 * a.size)
              | none => false) 0)))
        | none =>
          if r.write then s.comeBack r.op r.piece (.ack 0 false r.data.length)
          else s.comeBack r.op r.piece (.data c.data c.poison false false)
      (s.afterServe r.op).afterBt s r.op)

/-! ### Parked arrivals -/

/-- A parked part with its place in the order of arrival. -/
def insertStop (x : Nat × Nat × Nat) : List (Nat × Nat × Nat) → List (Nat × Nat × Nat)
  | [] => [x]
  | y :: r => if x.1 < y.1 then x :: y :: r else y :: insertStop x r

/-- The parked parts of a partition in the order of their arrival: order, operation, piece (R139). -/
def State.stops (s : State) (p : Nat) : List (Nat × Nat × Nat) :=
  (s.uops.filter (·.part == p)).foldl (fun l u => u.pieces.zipIdx.foldl (fun l (q, i) => match q.stop with
    | some n => insertStop (n, u.id, i) l
    | none => l) l) []

/-- A parked part is to be tried again: it is performed when its place is free, after those that arrived before it (R139). -/
def State.retry (s : State) (id i : Nat) : State := s.onUPiece id i fun p => { p with stop := none, rep := p.stop }

/-- Every parked arrival of a partition is tried again, and the chains that waited for their next record (R139, R140). -/
def State.retryParked (s : State) (p : Nat) : State :=
  let chains := (List.range 64).filter fun ch => (s.btc ch).state == 3 && (s.btc ch).part == p && !s.btStuck ch
  let s := (s.stops p).foldl (fun s x => s.retry x.2.1 x.2.2) s
  chains.foldl State.btResume s

/-- `PKRETRY`: R139. -/
def execPkretry (p : Nat) (s : State) : Res := .next (s.retryParked p)

/-! ### Planes and bring-up -/

/-- `PLANE_DOWN`: R358, R396. -/
def execPlaneDown (plane : Nat) (s : State) : Res := .next (s.onFab fun f => { f with fplane := putBit f.fplane (plane % 16) false })

/-- `FABRIC_BRING_UP`: R362. Both numbers of the pair go back to 0; packets held or under way for the peer under the old numbers, and
their cached results, go with them, and what awaits an answer of the peer ends as on a time-out (R343, R361; log entry 87). -/
def execFabricBringUp (node : Nat) (s : State) : Res :=
  let old := (s.pkg.fab.serving.filter (·.2.src == node)).map (·.1)
  let s := { s with uops := s.uops.filter fun u => !old.contains u.id }
  let lost := s.pkg.fab.unacked.filter fun u => u.pkt.dst == node
  let s := (s.onFab fun f => { f with
    serving := f.serving.filter (·.2.src != node), unacked := f.unacked.filter fun u => u.pkt.dst != node }).onPeer node fun l =>
    { l with next := 0, expect := 0, held := [], cache := [] }
  .next (lost.foldl State.packetLost s)

end Sys2Proof.Machine
end

