-- ==== Sys2Proof/Machine/Graph.lean ====
section
/-!
DEFINITION. Collective graphs: images, slots, replays, their operations and signals, and barriers (R346 to R350, R366 to R369).
-/

namespace Sys2Proof.Machine

/-! ### Images -/

/-- A record of a graph image (R367). -/
def gopOf (r : Nat) : GOp where
  succ := (List.range (nbits r 215 213)).map fun i => nbits r (255 - 10 * i) (246 - 10 * i)
  rank := nbits r 212 203
  peer := nbits r 202 193
  kind := nbits r 192 189
  deps := nbits r 188 185
  sb := nbits r 184 182
  db := nbits r 181 179
  rop := nbits r 178 177
  len := nbits r 159 128
  soff := nbits r 111 64
  doff := nbits r 47 0

/-- A record's own fields are as R368 asks. -/
def gopOk (nrank nops r : Nat) : Bool :=
  let o := gopOf r
  nbits r 176 160 == 0 && nbits r 127 112 == 0 && nbits r 63 48 == 0 && decide (o.kind ≤ 3) && decide (nbits r 215 213 ≤ 4) &&
    o.succ.all (fun i => decide (i < nops)) && decide (o.rank < nrank) && decide (o.peer < nrank) &&
    (if o.kind = 2 then o.rop == 1 || o.rop == 2 else o.rop == 0) && (o.kind == 3) == (o.len == 0)

/-- A record's successors belong to the ranks that R368 asks for. -/
def gopLinks (ops : List GOp) (o : GOp) : Bool :=
  o.succ.all fun i => ((ops[i]?).map (·.rank)).getD 0 == (if o.kind = 3 then o.peer else o.rank)

/-- A graph image read and validated: group, members and records, or none (R366, R368). -/
def graphImage (node : Nat) (bs : List Byte) : Option (Nat × List Nat × List GOp) :=
  let h := leNat (bs.take 64)
  let nrank := nbits h 18 8
  let nops := nbits h 29 19
  let mlen := 64 * ((nrank + 31) / 32)
  let words := (List.range (mlen / 2)).map fun i => leNat ((bs.drop (64 + 2 * i)).take 2)
  let members := words.take nrank
  let recs := (List.range nops).map fun i => leNat ((bs.drop (64 + mlen + 32 * i)).take 32)
  let ops := recs.map gopOf
  if nbits h 7 0 = 1 ∧ nbits h 31 30 = 0 ∧ nbits h 511 64 = 0 ∧ 1 ≤ nrank ∧ nrank ≤ 1024 ∧ 1 ≤ nops ∧ nops ≤ 1024 ∧
      bs.length = 64 + mlen + 32 * nops ∧ members.all (fun m => decide (m < 1024)) = true ∧ (words.drop nrank).all (· == 0) = true ∧
      (members.filter (· == node)).length = 1 ∧ recs.all (gopOk nrank nops) = true ∧ ops.all (gopLinks ops) = true then
    some (nbits h 63 32, members, ops)
  else none

/-! ### Commands at issue -/

/-- A slot of the issuing station's partition (R346). -/
def State.ownSlot (s : State) (n : Nat) : Bool := (s.slot n).part == some (s.partOf s.cur.k)

/-- Fields that are reserved in all three graph descriptors (R347). -/
def graphFields (d : Nat) : Bool := nbits d 255 208 == 0 && nbits d 107 97 == 0 && nbits d 82 76 == 0 && nbits d 60 0 == 0

/-- `gload`: R347. -/
def execGload (desc : BitVec 16) (s : State) : Res :=
  .next (s.fabricDesc desc 32 fun off d =>
    s.need (graphFields d = true ∧ gdMask d = 0 ∧ gdPe d = false ∧ fdLen d ≠ 0 ∧ s.ownSlot (gdSlot d) = true) <|
      let c := s.rc (fdSrcc d)
      s.checked c (sint 48 (nbits d 207 160)) (fdLen d) Right.copySrc false false fun o => s.roomFor <|
        let u := s.newUOp (.fabric s.nextId)
        (s.issueCmd 6 off d [] none).enqueue { u with
          id := s.nextId + 1, rq := 6, src := some ⟨c.node, c.obj, 0⟩
          pieces := (parts16 (fdLen d + 1) o (fdLen d)).map fun (a, m) => UPiece.plain a 0 m (a - o) [] })

/-- The capability values of a patch, latched at issue (R347). -/
def State.patchCaps (s : State) (d : Nat) : List Cap :=
  (List.range 8).map fun j => s.rc (BitVec.ofNat 4 (nbits d (131 + 4 * j) (128 + 4 * j)))

/-- `grun` and `gpatch` at issue: a `grun` stands in both fabric queues (R104, R347). -/
def State.graphCommand (s : State) (op : Nat) (desc : BitVec 16) : State :=
  s.fabricDesc desc 32 fun off d =>
    s.need (graphFields d = true ∧ nbits d 207 160 = 0 ∧ nbits d 111 108 = 0 ∧ (op = 7 ∨ gdPe d = true) ∧ s.ownSlot (gdSlot d) = true) <|
      s.roomFor <|
        let u := s.newUOp (.fabric s.nextId)
        let t := s.issueCmd op off d (s.patchCaps d) none
        if op = 7 then t.enqueue { u with id := s.nextId + 1, rq := 6, wq := 7, pieces := [UPiece.plain 0 0 0 0 []] } else t

/-- `grun`: R347. -/
def execGrun (d : BitVec 16) (s : State) : Res := .next (s.graphCommand 7 d)
/-- `gpatch`: R347. -/
def execGpatch (d : BitVec 16) (s : State) : Res := .next (s.graphCommand 8 d)

/-- `gstat`: R348; a read of the fabric load queue. -/
def execGstat (h : BitVec 6) (d : BitVec 4) (s : State) : Res :=
  .next (s.need (s.ownSlot h.toNat = true) (s.claimBay d.toNat fun s =>
    s.enqueue { s.newUOp (.gstat d.toNat h.toNat) with rq := 6, pieces := [UPiece.plain 0 0 1 0 []] }))

/-- `gabort`: R349; in cycle n + 2. -/
def execGabort (h : BitVec 6) (s : State) : Res :=
  .next (s.need (s.ownSlot h.toNat = true) (s.fabricLater (s.cyc + 2) (.abortGraph h.toNat)))

/-! ### Commands at the fabric engine -/

/-- The `gstat` reads of a station that stand before an operation in its fabric load queue have read the slot (R348, R416). -/
def State.statusReads (s : State) (k : Stn) (n seq : Nat) : State :=
  { s with uops := s.uops.map fun (u : UOp) => match u.owner with
    | .gstat _ m => if u.k = k ∧ m = n ∧ u.seq < seq then
        u.onPiece 0 fun p => if p.st = .idle then { p with st := .held, data := (s.slot n).status } else p else u
    | _ => u }

/-- The effect of a graph command on its slot, by the table of R347. -/
def State.acceptGraph (s : State) (c : FCmd) : State :=
  let n := gdSlot c.bits
  let s := match s.uops.find? fun u => u.owner == .fabric c.id with
    | some u => s.statusReads c.k n u.seq
    | none => s
  let g := s.slot n
  let idle := g.st = .idle ∨ g.st = .aborted
  if c.op = 6 then
    (if g.st = .running then (s.endFCmd c.id 5 0).killOps fun u => u.owner == .fabric c.id
     else s.onSlot n fun g => { g with st := .empty, ops := [], members := [] })
  else if g.st = .empty then s.endFCmd c.id 6 0
  else if c.op = 8 then
    (if idle then (s.onSlot n fun g => { g with patch := patched g.patch c.patch }).endFCmd c.id 1 0
     else if g.shf then s.endFCmd c.id 5 0
     else (s.onSlot n fun g => { g with shadow := c.patch, shf := true }).endFCmd c.id 1 0)
  else
    let pe := gdPe c.bits
    if idle then s.onSlot n fun g => { g with
      patch := if pe then patched g.patch c.patch else g.patch
      st := .running, runner := some c.id, startAt := some s.cyc, progress := s.cyc }
    else if g.pend.isSome ∨ (pe = true ∧ g.shf = true) then s.endFCmd c.id 5 0
    else s.onSlot n fun g => { g with
      pend := some c.id, shadow := if pe then c.patch else g.shadow, shf := g.shf || pe }

/-- A graph image that has been read is installed, or leaves its slot empty (R347, R368): the STATUS of `gload`. -/
def State.installGraph (s : State) (c : FCmd) (bs : List Byte) : Nat × State :=
  match graphImage s.nodeId bs with
  | none => (6, s)
  | some (group, members, ops) =>
    (1, s.onSlot (gdSlot c.bits) fun g => { GSlot.reset with
      part := g.part, st := .idle, group := group, members := members, rank := (members.idxOf? s.nodeId).getD 0, ops := ops
      patch := List.replicate 8 Cap.null, done := List.replicate ops.length false, started := List.replicate ops.length false
      counters := ops.map (·.deps) })

/-! ### Replays -/

/-- An operation of the node's own rank (R366). -/
def GSlot.mine (g : GSlot) (i : Nat) : Bool := ((g.ops[i]?).map fun o => o.rank == g.rank).getD false

/-- Element i of a list changed. -/
def alter {α : Type} (l : List α) (i : Nat) (f : α → α) : List α := l.zipIdx.map fun (x, j) => if j = i then f x else x

/-- The counters of some operations fall by one (R369). -/
def GSlot.countDown (g : GSlot) (l : List Nat) : GSlot := { g with counters := l.foldl (fun c i => alter c i (· - 1)) g.counters }

/-- A signal record counted in the current replay, or kept for the next one (R369). -/
def GSlot.signal (g : GSlot) (op now : Nat) : GSlot :=
  if g.st ≠ .running ∨ g.startAt.isSome ∨ g.heard.contains op then { g with early := g.early ++ [op] }
  else { g.countDown (((g.ops[op]?).map (·.succ)).getD []) with heard := g.heard ++ [op], progress := now }

/-- The bases that an operation uses pass the check of R18, with the rights of R368. -/
def State.gopAllowed (s : State) (g : GSlot) (o : GOp) : Bool :=
  let ok := fun (i off need : Nat) (remote : Bool) => match capCheck (g.active.getD i Cap.null) s.nodeId off o.len need remote false with
    | .ok _ => true
    | .error _ => false
  o.kind == 3 || (ok o.sb o.soff Right.copySrc (o.kind == 1) && ok o.db o.doff Right.copyDst (o.kind != 1))

/-- The station whose `grun` a replay belongs to. -/
def State.runnerOf (s : State) (n : Nat) : Stn := (((s.slot n).runner.bind s.fcmd).map (·.k)).getD 0

/-- `GRAPH_REPLAY_START`: R347, R368, R369. -/
def execGraphReplayStart (n : Nat) (s : State) : Res :=
  .next (let g := s.slot n
    if g.st ≠ .running ∨ g.startAt.isNone then s
    else
      let p := if g.shf then patched g.patch g.shadow else g.patch
      let early := g.early
      let s := s.onSlot n fun g => { g with
        patch := p, active := p, shf := false, startAt := none, counters := g.ops.map (·.deps), progress := s.cyc
        done := List.replicate g.ops.length false, started := List.replicate g.ops.length false, early := [], heard := [] }
      let s := early.foldl (fun s i => s.onSlot n fun g => g.signal i s.cyc) s
      let s := s.replayRecord n 2 0
      let g := s.slot n
      if (g.ops.filter fun o => o.rank == g.rank).all (s.gopAllowed g) then s else s.abortReplay n 4 0 4 0)

/-- A control packet to a node: it causes no packet and has no answer (R359, R360). -/
def State.control (s : State) (node opk arg rseq : Nat) : State :=
  s.emit { src := s.nodeId, dst := node, plane := 0, seq := 0, cls := 2, opk := opk, orig := s.nodeId, opart := 0, ctx := 0, cmp := false
           cfmt := 0, fmt := 0, rseq := rseq, arg := arg, obj := 0, off := 0, limit := 0, len := 0, aop := 0, asz := 0, opnd := 0
           newv := 0, peers := [], chx := 0, poison := false, pinned := false, data := [] }

/-- The operation bits and counters after an operation of this node has finished (R369). -/
def State.gopFinished (s : State) (n i : Nat) : State :=
  s.onSlot n fun g =>
    let succ := ((g.ops[i]?).map fun o => if o.kind = 3 then [] else o.succ).getD []
    { g.countDown succ with done := alter g.done i fun _ => true, progress := s.cyc }

/-- A graph operation may start: its counter is 0 and it has not started (R369). -/
def GSlot.startable (g : GSlot) (i : Nat) : Bool :=
  g.st == .running && g.startAt.isNone && g.mine i && !g.started.getD i true && g.counters.getD i 1 == 0

/-- `GRAPH_OPERATION_START`: R367, R369. A signal to another node is sent once some plane is up. A transfer stands in the queues at the
place of the `grun` whose replay it belongs to, with its level, its context and its issue cycle (R104, R112, R195). -/
def execGraphOperationStart (n i : Nat) (s : State) : Res :=
  .next (let g := s.slot n
    match g.ops[i]? with
    | none => s
    | some o =>
      if g.startable i = false then s
      else
        if o.kind = 3 then
          let node := g.members.getD o.peer 0
          if o.peer ≠ g.rank ∧ (List.range 16).any s.planeUp = false then s else
          let s := s.onSlot n fun g => { g with started := alter g.started i fun _ => true }
          let s := if o.peer = g.rank then s.onSlot n fun g => g.signal i s.cyc else s.control node 0x19 g.group i
          s.gopFinished n i
        else
          let s := s.onSlot n fun g => { g with started := alter g.started i fun _ => true }
          let k := s.runnerOf n
          let run := s.uops.find? fun u => g.runner.any fun c => u.owner == .fabric c
          let cmd := g.runner.bind s.fcmd
          let src := g.active.getD o.sb Cap.null
          let dst := g.active.getD o.db Cap.null
          s.enqueue { s.newUOp (.graph n i) with
            k := k, part := g.part.getD 0, ctx := (cmd.map (·.ctx)).getD (bitsOf (s.stn k).sys.ctxid 15 0), eng := 7, rq := 6, wq := 7
            qset := (run.map (·.qset)).getD k.val, seq := (run.map (·.seq)).getD s.seq, issue := (cmd.map (·.issue)).getD s.cyc
            level := (cmd.map (·.level)).getD .task
            src := some ⟨src.node, src.obj, 0⟩, dst := some ⟨dst.node, dst.obj, 0⟩, add := o.rop, limit := dst.limit
            pieces := untimedRun (s.cutOf (g.part.getD 0) (.mem src.node src.obj) (.mem dst.node dst.obj)) (1, 1) (0, 0) (o.len + 1) (src.cursor + o.soff) (dst.cursor + o.doff) o.len 0 })

/-- The data of a started operation have all been acknowledged. -/
def State.gopDone (s : State) (n i : Nat) : Option UOp :=
  (s.uops.find? fun u => u.owner == .graph n i && !u.dead).bind fun u => if u.pieces.all (·.st == .done) then some u else none

/-- `GRAPH_OPERATION_FINISH`: R369; the flags of a reduction go to the `grun` whose replay it is (R342, R369). -/
def execGraphOperationFinish (n i : Nat) (s : State) : Res :=
  .next (match s.gopDone n i with
    | none => s
    | some u =>
      let s := { s with uops := s.uops.filter (·.id != u.id) }
      let s := match (s.slot n).runner with
        | some c => { s with uops := s.uops.map fun (v : UOp) =>
            if v.owner = Owner.fabric c then { v with flags := v.flags ||| u.flags, settled := v.settled || u.settled } else v }
        | none => s
      s.gopFinished n i)

/-- Every operation of this node's rank has finished (R347). -/
def GSlot.complete (g : GSlot) : Bool :=
  g.st == .running && g.startAt.isNone && (List.range g.ops.length).all fun i => !g.mine i || g.done.getD i false

/-- `GRAPH_REPLAY_END`: R347. -/
def execGraphReplayEnd (n : Nat) (s : State) : Res :=
  .next (let g := s.slot n
    if g.complete = false then s
    else
      let s := s.replayRecord n 3 1
      let s := match g.runner with
        | some c => s.endFCmd c 1 0
        | none => s
      s.onSlot n fun g => { g with
        st := if g.pend.isSome then .running else .idle, runner := g.pend, pend := none, runs := (g.runs + 1) % 2 ^ 32
        startAt := if g.pend.isSome then some (s.cyc + 1) else none, progress := s.cyc })

/-- An operation that waits for its counter (R369). -/
def GSlot.waiting (g : GSlot) : Option Nat :=
  if g.st = .running ∧ g.startAt.isNone then (List.range g.ops.length).find? fun i => g.mine i && decide (0 < g.counters.getD i 0)
  else none

/-- `GRAPH_STALL_TIMEOUT`: R349, R369. -/
def execGraphStallTimeout (n : Nat) (s : State) : Res :=
  .next (let g := s.slot n
    match g.waiting with
    | none => s
    | some i => if s.cyc < g.progress + s.fabTO then s
      else s.abortReplay n 2 (((g.ops.find? fun o => o.kind == 3 && o.succ.contains i).map (·.rank)).getD 0) 4 0)

/-- The slots of a group (R366). -/
def State.slotOfGroup (s : State) (group : Nat) : Option Nat :=
  (List.range 64).find? fun n => (s.slot n).st != .empty && (s.slot n).group == group

/-- `GRAPH_SIGNAL`: R369. -/
def execGraphSignal (group op : Nat) (s : State) : Res :=
  .next (match s.slotOfGroup group with
    | none => s
    | some n => s.onSlot n fun g => g.signal op s.cyc)

/-! ### Barriers -/

/-- A barrier whose phase has every rank's arrival goes to the next phase, and raises the semaphore of this node's arrival (R350). -/
def State.settleBarrier (s : State) (n : Nat) : State :=
  let g := s.slot n
  let here := fun r => g.arrived.contains (r, g.bph.toNat) || (r == g.rank && g.own.isSome)
  match g.own with
  | some (k, m) =>
    if (List.range g.members.length).all here then
      (s.onSlot n fun g => { g with bph := g.bph + 1, own := none, arrived := g.arrived.filter (·.2 != g.bph.toNat) }).onStn k fun t => t.raise m
    else s
  | none => s

/-- `fbar`: R350. -/
def execFbar (h m : BitVec 6) (s : State) : Res :=
  let n := h.toNat
  let g := s.slot n
  .next (s.need (s.ownSlot n = true ∧ g.st ≠ .empty ∧ g.own.isNone)
    (let s := g.members.foldl (fun s j => if j = s.nodeId then s else s.control j 0x18 g.group g.bph.toNat) s
     (s.onSlot n fun g => { g with own := some (s.cur.k, m.toNat) }).settleBarrier n))

/-- `GRAPH_BARRIER_ARRIVAL`: R350. An arrival for the current phase or the next is counted; any other is discarded. -/
def execGraphBarrierArrival (rank group phase : Nat) (s : State) : Res :=
  .next (match s.slotOfGroup group with
    | none => s
    | some n =>
      let g := s.slot n
      if phase = g.bph.toNat ∨ phase = (g.bph + 1).toNat then
        (s.onSlot n fun g => { g with arrived := g.arrived.filter (· != (rank, phase)) ++ [(rank, phase)] }).settleBarrier n
      else s)

/-! ### Acts of later cycles -/

/-- The acts of the fabric engine whose cycle has come (R137, R329, R333, R340, R349). -/
def State.lateActs (s : State) : State :=
  let due := s.pkg.fab.late.filter fun x => decide (x.1 ≤ s.cyc)
  let s := s.onFab fun f => { f with late := f.late.filter fun x => decide (s.cyc < x.1) }
  due.foldl (fun s x => match x.2 with
    | .bit k slot gen c => s.onStn k fun t =>
        let b := t.bitmap slot
        if b.v && b.gen == gen then t.setBitmap slot { b with bits := b.bits ||| BitVec.ofNat 256 (2 ^ c) } else t
    | .raise k n => s.onStn k fun t => t.raise n
    | .head ch c => s.onBt ch fun b => b.writeHead c
    | .abortBt ch => s.abortBt ch
    | .abortGraph n => s.abortReplay n 1 0 4 0) s

/-- Requests of peers that have ended and could not be passed on before (R120, R345). -/
def State.pumpAll (s : State) : State := (s.pkg.fab.serving.map (·.1)).foldl State.afterServe s

end Sys2Proof.Machine
end

