-- ==== Sys2Proof/Machine/Coachman.lean ====
section
/-!
DEFINITION. The coachman of a cluster: the boarded sets of a frame, table writes, the delivery of a frame's result, and the skip rules
(R150, R153 to R158, R202, R262, R263, R378).
-/

namespace Sys2Proof.Machine

/-! ### What a frame carries -/

/-- The value that a `ringcfg` form gives for frame f: a change with that effective frame counts already (R354). -/
def State.ringForm (s : State) (form f now : Nat) : Nat :=
  ((s.pkg.ring.changes.find? fun c => c.1 == form && decide (c.2.1 ≤ f)).map (·.2.2)).getD now

/-- MODEL and S for frame f (R354). -/
def State.modelAt (s : State) (f : Nat) : Nat := s.ringForm 0 f (bitsOf s.pkg.ring.rmodel 31 0)
def State.slackAt (s : State) (f : Nat) : Nat := s.ringForm 1 f s.slackS

/-- The ring runs at this package, and its coachmen board (R163). -/
def State.ringBoards (s : State) : Bool := s.pkg.ring.up && s.pkg.ring.state != .failed && !s.pkg.ring.newcomer

/-- The tag of the segment of frame f on a line, where that segment is present (R143). -/
def State.segTag (s : State) (l f : Nat) : Option Nat :=
  let h := s.header l f
  if s.pkg.ring.up && hdrPresent (s.modelAt f) l h && !(s.rline l).bad.contains f then some (hdrTag h) else none

/-- The arriving tag of a line in frame f, as the coachmen board by it (R143, R163). -/
def State.arrTag (s : State) (l f : Nat) : Option Nat := if s.ringBoards then s.segTag l f else none

/-- `window_distance` of a tag at frame f (R156). -/
def State.windowDistance (s : State) (f tag : Nat) : Option Nat :=
  ((List.range (s.slackAt f)).find? fun i =>
    decide (i < f) && (s.rline (tag / 2 ^ 24)).tags.any fun x => x.1 == f - 1 - i && x.2 == some tag).map (· + 1)

/-! ### Teams -/

/-- The stations of a team of a partition in a cluster (R156). -/
def State.teamHere (s : State) (cl p t : Nat) : List Stn :=
  allStns.filter fun k => clusterOf k == cl && (s.stn k).run.on && s.partOf k == p && s.teamOf k == some t

/-- The teams with a station in a cluster, each with its partition. -/
def State.clusterTeams (s : State) (cl : Nat) : List (Nat × Nat) :=
  ((allStns.filter fun k => clusterOf k == cl && (s.stn k).run.on).filterMap fun k =>
    (s.teamOf k).map fun t => (s.partOf k, t)).eraseDups

/-- A team that is being pre-empted or is pre-empted, and does not resume by frame f (R202, R210). A station that has saved its image
and runs a task-level block again is not pre-empted. -/
def State.teamAway (s : State) (ks : List Stn) (f : Nat) : Bool :=
  ks.any fun k =>
    let p := (s.stn k).pre
    p.st != .run && !(p.st == .saved && (s.stn k).run.level == .task) && !(p.st == .restore && p.resumeAt.any fun c => decide (c ≤ s.fs f))

/-! ### Boarding -/

/-- `match` of R156: the line of the matched arriving tag and the entry. -/
def Coachman.matching (c : Coachman) (arr : List (Option Nat)) (p t : Nat) : Option (Nat × BitVec 128) :=
  arr.zipIdx.findSome? fun (a, l) => a.bind fun tag =>
    (c.waybill.find? fun x => wbV x.2 && wbTag x.2 == tag && wbTeam x.2 == t && c.wayPart x.1 == p).map fun x => (l, x.2)

/-- Fields of a context record (R155). -/
def crV (r : DWord) : Bool := bitOf r 63
def crRdy (r : DWord) : Bool := bitOf r 62
def crTag (r : DWord) : Nat := bitsOf r 24 0

/-- A record that boards, and one that is missed (R156). -/
def crBoard (r : DWord) : DWord := putBit (putBit r 61 false) 60 false
def crMiss (r : DWord) (f : Nat) : DWord := putBits (putBit r 61 true) 47 32 f

/-- A snapshot's update of a record: of one that boards, or of one missed in a frame (R156). It changes these fields alone, so that a skip
of the snapshot's own cycle stands (R158). -/
def crUpdate (r : DWord) : Option Nat → DWord
  | none => crBoard r
  | some f => crMiss r f

/-- The outcome of a team in a frame: its boarded set, the record updates, and what `present` writes (R156, R157). -/
structure TeamFrame where
  set_ : Boarded
  updates : List (Nat × Option Nat)
  result : Boarding
  block : Nat

/-- The tag that a matched entry boards for, its distance, and whether rows may board (R156). -/
def State.wanted (s : State) (f : Nat) (e : BitVec 128) : Nat × Nat × Bool :=
  if wbCue e then
    match s.windowDistance f (wbCutag e) with
    | some d => (wbCutag e, d, decide (1 ≤ d) && decide (d + 1 ≤ s.slackAt f))
    | none => (wbCutag e, 0, false)
  else (wbTag e, 0, true)

/-- TAGIN (R157). -/
def tagIn (arr : List (Option Nat)) : DWord :=
  let half := fun (a : Option Nat) => match a with
    | some t => 2 ^ 31 + t
    | none => 0
  BitVec.ofNat 64 (half (arr.getD 0 none) + half (arr.getD 1 none) * 2 ^ 32)

/-- `coachman_frame` for one team of a partition (R156). -/
def State.boardTeam (s : State) (cl f p t : Nat) : TeamFrame :=
  let c := s.coachman cl
  let arr := [s.arrTag 0 f, s.arrTag 1 f]
  let e := c.matching arr p t
  let mine := c.records.filter fun x => crV x.2 && crTeam x.2 == t && c.recPart x.1 == p
  let (want, dist, ok) := (e.map fun x => s.wanted f x.2).getD (0, 0, false)
  let room := (e.map fun x => wbRows x.2).getD 0
  let board := if ok then (mine.filter fun x => crTag x.2 == want && crRdy x.2).take room else []
  let rows := board.map (·.1)
  let missed := mine.filter fun x => arr.contains (some (crTag x.2)) && !rows.contains x.1
  let cue := (e.map fun x => wbCue x.2).getD false
  let n := rows.length
  { set_ := ⟨p, t, f, want, cue, rows⟩
    updates := board.map (fun x => (x.1, none)) ++ missed.map fun x => (x.1, some f)
    result :=
      { frame := f, q := BitVec.ofNat 64 (2 ^ n - 1), map := rows
        wbblk := match e with
          | some (l, x) => BitVec.ofNat 64 (2 ^ 63 + b2n (wbCue x) * 2 ^ 62 + l * 2 ^ 61 + n * 2 ^ 48 + wbBlock x)
          | none => 0
        slksel := if cue ∧ n ≠ 0 then BitVec.ofNat 64 (2 ^ 63 + want / 2 ^ 24 * 2 ^ 62 + dist) else 0
        tagin := tagIn arr }
    block := (e.map fun x => wbBlock x.2).getD 0 }

/-- The record of a boarded frame, in the ring of the team's partition (R400). -/
def State.boardRecord (s : State) (cl : Nat) (x : TeamFrame) : State :=
  let b := x.set_
  if b.rows ≠ [] ∧ bitOf (s.part b.part).smpcfg 62 then
    s.telemetry b.part cl s.cyc (telWord 5 0 cl 0x7F 0 0) b.frame (b.team + b.rows.length * 2 ^ 10 + x.block * 2 ^ 32)
  else s

/-- The boarded sets of a team that is present: its updates and results are kept until they apply (R156, R157, R262). -/
def State.frameTeam (s : State) (cl f p t : Nat) : State :=
  let ks := s.teamHere cl p t
  if s.teamAway ks f then s
  else
    let x := s.boardTeam cl f p t
    let s := s.onCoachman cl fun c => { c with updates := c.updates ++ x.updates, frames := c.frames ++ [x.set_] }
    (ks.foldl (fun s k => s.onStn k fun y => { y with boardings := y.boardings ++ [x.result] }) s).boardRecord cl x

/-- `COACHMAN_FRAME`: R155, R156, R202; in the snapshot cycle fs(f) - 64. -/
def execCoachmanFrame (cl : Nat) (s : State) : Res :=
  let f := s.frameOf (s.cyc + 64)
  .next (if s.cyc + 64 ≠ s.fs f then s
    else
      let arr := [s.arrTag 0 f, s.arrTag 1 f]
      let s := s.onCoachman cl fun c => { c with
        arrived := c.arrived ++ arr.filterMap id, frames := c.frames.filter fun b => decide (f < b.frame + 64) }
      (s.clusterTeams cl).foldl (fun s x => s.frameTeam cl f x.1 x.2) s)

/-! ### Table writes -/

/-- A table read answered, after every write of its cycle (R262, R263). -/
def State.tableRead (s : State) (c : Coachman) (w : TableWrite) : State :=
  let put := fun (s : State) (d : BitVec 5) (v : DWord) => s.onStn (stnOf w.stn) fun t => t.later w.readAt (w.readAt - 5) 1 (.sreg d v)
  if w.way then
    (if w.mode = 2 then
      let e := c.entry w.idx
      put (put s w.d (e.truncate 64)) (w.d + 1) (e.extractLsb' 64 64)
     else s)
  else if w.mode = 4 then put s w.d (c.record w.idx)
  else s

/-- The updates of the last snapshot applied: records, and ABS of the tags that arrived (R156, R262). -/
def Coachman.applyFrame (c : Coachman) : Coachman :=
  let c := c.updates.foldl (fun c x => c.setRecord x.1 (crUpdate (c.record x.1) x.2)) { c with updates := [] }
  { c with
    arrived := []
    waybill := c.waybill.filterMap fun x =>
      let e := if c.arrived.contains (wbTag x.2) then x.2 &&& ~~~(BitVec.ofNat 128 (2 ^ 125)) else x.2
      if e = 0 then none else some (x.1, e) }

/-- `COACHMAN_TABLE_UPDATE`: R154, R156, R262, R263. -/
def execCoachmanTableUpdate (cl : Nat) (s : State) : Res :=
  let c := (s.coachman cl).applyFrame
  let due := c.dueWrites s.cyc
  let c := due.foldl Coachman.perform { c with writes := c.writes.filter fun w => decide (s.cyc < w.at_) }
  .next (due.foldl (fun s w => s.tableRead c w) (s.onCoachman cl fun _ => c))

/-! ### Presenting and skipping -/

/-- The register values of a frame's result (R157). -/
def Station.present (t : Station) (b : Boarding) : Station :=
  let row := fun (i : Nat) => b.map.getD i 0xFFFF
  (t.setQreg 7 b.q) |> fun t => { t with
    sys := { t.sys with
      wbblk := b.wbblk, slksel := b.slksel, tagin := b.tagin
      rowmap := Vector.ofFn fun (i : Fin 16) => BitVec.ofNat 64
        (row (4 * i.val) + row (4 * i.val + 1) * 2 ^ 16 + row (4 * i.val + 2) * 2 ^ 32 + row (4 * i.val + 3) * 2 ^ 48) } }

/-- The held results of a station whose frame has started in its nominal time; a handler's time stands still (R157, R378). -/
def State.boardingDue (s : State) (k : Stn) : List Boarding :=
  let t := s.stn k
  if t.trap.inHandler then [] else t.boardings.filter fun b => decide (s.fs b.frame ≤ s.nom k)

/-- The results that a handler has kept waiting (R378). -/
def State.boardingHeld (s : State) (k : Stn) : List Boarding :=
  let t := s.stn k
  if t.trap.inHandler then t.boardings.filter fun b => decide (s.fs b.frame ≤ s.cyc) else []

/-- `COACHMAN_PRESENT`: R157; when a 33rd frame starts in a handler, the held results are discarded (R378). -/
def execCoachmanPresent (k : Stn) (s : State) : Res :=
  .next (if 33 ≤ (s.boardingHeld k).length then
      let drop := s.boardingHeld k
      s.onStn k fun t => { t with boardings := t.boardings.filter fun b => !drop.contains b }
    else match s.boardingDue k with
      | [] => s
      | b :: _ => s.onStn k fun t => { t.present b with boardings := t.boardings.erase b })

/-- `skip_rows` of a team of a partition in a cluster, with DISP where the team is displaced (R158, R202). -/
def State.skipRowsIn (s : State) (cl p t f : Nat) (disp : Bool) : State :=
  s.onCoachman cl fun c =>
    match c.frames.find? fun b => b.part == p && b.team == t && b.frame == f with
    | none => c
    | some b => b.rows.foldl (fun c i =>
        let r := crMiss (c.record i) f
        c.setRecord i (if disp then putBit r 60 true else r)) c

/-- The frames from lo on for which a team of a partition has a boarded set. -/
def State.framesFrom (s : State) (p t lo : Nat) : List Nat :=
  ((List.range 4).flatMap fun cl =>
    ((s.coachman cl).frames.filter fun b => b.part == p && b.team == t && decide (lo ≤ b.frame)).map (·.frame)).eraseDups

/-- `skip_rows` of a team of a partition (R158). -/
def State.skipRows (s : State) (p t f : Nat) (disp : Bool) : State :=
  (List.range 4).foldl (fun s cl => s.skipRowsIn cl p t f disp) s

end Sys2Proof.Machine
end

