-- ==== Sys2Proof/Machine/Ring.lean ====
section
/-!
DEFINITION. The weight-ring transport: head reads, tail writes, CRC verdicts, injection, link loss and repair, and the ring manager's
commands (R141 to R150, R158, R160 to R164, R353 to R356, R387, R395, R400).
-/

namespace Sys2Proof.Machine

/-! ### Beats -/

/-- Beat j of a void segment (R161). -/
def voidBeat (j : Nat) : Beat := BitVec.ofNat 8192 (if j = 0 then 15 * 2 ^ 64 else 0)

/-- The bytes of a beat (R141). -/
def beatBytes (b : Beat) : List Byte := leBytes 1024 b.toNat

/-- The partition of the ring manager (R353, R407). -/
def State.isManager (s : State) (p : Nat) : Bool := s.pkg.ring.manager == some p

/-- A record of the ring transport, in the telemetry ring of the ring manager's partition; where none is named, of partition 0. The
memory port of cluster 0 appends it (R399, R400; log entry 133). -/
def State.ringRecord (s : State) (type sub a0 a1 : Nat) : State :=
  s.telemetry (s.pkg.ring.manager.getD 0) 0 s.cyc (telWord type sub 0 0x7F 0 0) a0 a1

/-- The line's frame and beat of a cycle at the head (R147). -/
def State.headAt (s : State) : Nat × Nat := (s.frameOf s.cyc, (s.cyc - s.phase) % 2048)

/-- The line's frame and beat at the tail: what the head reads D cycles later (R147, R148). -/
def State.tailAt (s : State) (l : Nat) : Nat × Nat :=
  let c := s.cyc + (s.rline l).delay
  (s.frameOf c, (c - s.phase) % 2048)

/-! ### The head -/

/-- Errors corrected by the transport's read of a beat; the fault station of the ring manager's partition counts them (R386; log
entry 133). -/
def State.ringCorrect (s : State) (key : Nat) : State := s.correctFor 0 (s.pkg.ring.manager.getD 0) key 1024

/-- What the head does with the header of a frame: the arriving tag is recorded, a malformed segment reported, and the source member
counts the rotation (R142, R143, R150, R400). R142 counts it at each head read of beat 0, and R143 forwards a void or malformed segment
unchanged: the model counts it in every header (log entry 145). -/
def State.headHeader (s : State) (l f : Nat) : State :=
  let h := s.header l f
  let tag := s.segTag l f
  let s := s.onLine l fun r => { r with
    tags := (r.tags ++ [(f, tag)]).drop (r.tags.length - 15), bad := r.bad.filter fun g => decide (f ≤ g + 16) }
  let s := if hdrPresent (s.modelAt f) l h || hdrVoid h then s else s.ringRecord 8 0 f (hdrTag h)
  if (s.rline l).source then s.poke (stackKey ((s.rline l).slotAddr f 0 + 4)) (leBytes 2 (nbits h 47 32 + 1)) else s

/-- The skip port drives a line too while a neighbour on its output side is bypassed (R161, R163). -/
def State.skipDriven (s : State) (l : Nat) : Bool :=
  (s.pkg.ring.state == .bypass || s.pkg.ring.state == .admitting) && !s.pkg.ring.newcomer && s.pkg.ring.side != l % 2

/-- `TRANSPORT_HEAD_READ`: R147. The beat is driven four cycles later; stations tap it at their delays (R149). -/
def execTransportHeadRead (line : Nat) (s : State) : Res :=
  .next (if s.pkg.ring.up = false then s
    else
      let (f, j) := s.headAt
      let a := stackKey ((s.rline line).slotAddr f j)
      let s := s.ringCorrect a
      let s := if j = 0 then s.headHeader line f else s
      let b : Beat := BitVec.ofNat 8192 (s.mem.readLe a 1024)
      let s := { s with out := s.out ++ [Out.beat line b false] }
      if s.skipDriven line then { s with out := s.out ++ [Out.beat line b true] } else s)

/-! ### The tail -/

/-- `RING_BEAT_ARRIVAL`: R147, R162. The beat is written two cycles and TRIM later; a lost input is not used. -/
def execRingBeatArrival (line : Nat) (beat : Beat) (good : Bool) (s : State) : Res :=
  .next (if s.pkg.ring.up = false ∨ (s.rline line).inSel = 2 then s
    else s.onLine line fun r => { r with
      input := r.input ++ [(s.cyc + 2 + r.trim, beat, good)], badRun := if good then 0 else r.badRun })

/-- Beat j of the segment with which a source member fills frame position f at bring-up: of the model image, or void (R160). -/
def State.imageBeat (s : State) (l f j : Nat) : Beat :=
  let r := s.rline l
  match s.pkg.ring.image.find? fun x => x.1 == l % 2 && x.2.1 == (f + r.toff) % r.k with
  | some x => BitVec.ofNat 8192 (leNat ((x.2.2.drop (1024 * j)).take 1024))
  | none => voidBeat j

/-- The source member fills a frame position once, in the K frames from the first whose beat 0 its tail writes (R160; log entry 128). -/
def RingLine.fills (r : RingLine) (f : Nat) : Bool := r.source && r.fill.any fun g => decide (g ≤ f) && decide (f < g + r.k)

/-- The beat to be written at the tail and whether it passed its link check: void beats behind a lost input, in a failed ring and until the
first beat of a bypassed neighbour's input is due, and the model image at bring-up (R160 to R163). A cycle in which no beat arrives leaves free bytes, which count as a failed check. -/
def State.tailBeat (s : State) (l f j : Nat) : Beat × Bool × State :=
  let r := s.rline l
  if r.inSel = 2 ∨ s.pkg.ring.state = .failed ∨ s.cyc < r.mute then (voidBeat j, true, s)
  else if r.fills f then (s.imageBeat l f j, true, s)
  else match r.input.find? (·.1 == s.cyc) with
    | some (_, b, good) => (b, good, s)
    | none => let (x, s) := s.draw; (BitVec.ofNat 8192 x, false, s)

/-- The complete staged segment that replaces the arriving one of frame f at the source member (R164). -/
def State.stagedFor (s : State) (l f : Nat) : Option Nat :=
  let r := s.rline l
  (s.pkg.ring.buffer.find? fun (_, g) => r.source && g.line == l % 2 && g.idx == (f + r.toff) % r.k && g.data.isSome).map (·.1)

/-- A beat counted in the CRC of its segment (R142, R143). -/
def RingLine.feed (r : RingLine) (j : Nat) (bs : List Byte) (good : Bool) : RingLine :=
  let h := leNat (bs.take 64)
  let r := if j = 0 then { r with crc := 0xFFFF_FFFF, left := hdrLen h, want := hdrCrc h, linkBad := false } else r
  let p := (if j = 0 then bs.drop 64 else bs).take r.left
  { r with crc := crcRun r.crc p, left := r.left - p.length, linkBad := r.linkBad || !good }

/-- The end of a segment at the tail: its verdict is known three cycles later (R143), and the staged copy written is freed (R356). -/
def State.endSegment (s : State) (l f : Nat) : State :=
  let r := s.rline l
  let s := s.onLine l fun r => { r with
    judged := r.judged ++ [(f, r.linkBad || (~~~r.crc).toNat != r.want, s.cyc + 3)], inject := none }
  match r.inject with
  | some e => s.onRing fun g => { g with buffer := g.buffer.filter (·.1 != e) }
  | none => s

/-- `TAIL_WRITE`: R143, R147, R148, R164. A line whose delay an admission has shortened rests until its tail comes to the slot that it
has not yet written (R163; log entry 143). -/
def execTailWrite (line : Nat) (s : State) : Res :=
  .next (if s.pkg.ring.up = false then s
    else if s.cyc < (s.rline line).rest then
      s.onLine line fun r => { r with badRun := r.badRun + 1, input := r.input.filter fun x => decide (s.cyc < x.1) }
    else
      let (f, j) := s.tailAt line
      let (b, good, s) := s.tailBeat line f j
      let bs := beatBytes b
      let e := if j = 0 then s.stagedFor line f else (s.rline line).inject
      let staged : Option (List Byte) := e.bind fun e => (s.pkg.ring.buffer.find? (·.1 == e)).bind fun x => x.2.data
      let (bs, good) := match staged with
        | some d => ((d.drop (1024 * j)).take 1024, true)
        | none => (bs, good)
      let s := s.poke (stackKey ((s.rline line).slotAddr f j)) bs
      let s := s.onLine line fun r =>
        { r.feed j bs good with inject := e, badRun := r.badRun + 1, input := r.input.filter fun x => decide (s.cyc < x.1) }
      if j = 2047 then s.endSegment line f else s)

/-! ### Verdicts -/

/-- Every team boarded on a segment takes an uncorrectable error, and its rows go through the skip rules (R143, R158, R387). -/
def State.lateMismatch (s : State) (f tag : Nat) : State :=
  (List.range 4).foldl (fun s cl =>
    ((s.coachman cl).frames.filter fun b => b.frame == f && b.tag == tag && !b.cue && b.rows != []).foldl (fun s b =>
      (s.teamHere cl b.part b.team).foldl (fun s k => s.machineCheck k 3) (s.skipRowsIn cl b.part b.team f false)) s) s

/-- `SEGMENT_CRC_VERDICT`: R143, R162. A mismatch known by the snapshot makes the segment absent; a later one is uncorrectable. In both
cases the tag is reported, whatever class the header gives the segment. -/
def execSegmentCrcVerdict (line frame : Nat) (s : State) : Res :=
  .next (match (s.rline line).judged.find? (·.1 == frame) with
    | none => s
    | some (_, bad, _) =>
      let s := s.onLine line fun r => { r with judged := r.judged.filter (·.1 != frame) }
      if bad then
        let tag := hdrTag (s.header line frame)
        let s := (s.ringRecord 8 1 frame tag).onRing fun g => { g with reinject := g.reinject.filter (· != tag) ++ [tag] }
        let s := { s with out := s.out ++ [Out.badTag line tag] }
        if s.cyc + 64 ≤ s.fs frame then s.onLine line fun r => { r with bad := r.bad ++ [frame] }
        else if hdrPresent (s.modelAt frame) line (s.header line frame) then s.lateMismatch frame tag
        else s
      else s)

/-! ### Links and repair -/

/-- NM1 changed (R163). -/
def State.nm1 (s : State) (f : Nat → Nat) : State :=
  s.onRing fun g => { g with ringcfg := putBits g.ringcfg 63 56 (f (bitsOf g.ringcfg 63 56)) }

/-- `LINK_LOST`: R162, R163, R395. The input reads as lost; a loss that no skip port can bridge fails the ring. R163 gives ADMIT no exit on
a lost input: the model fails the ring on a loss on either line there (log entry 144). -/
def execLinkLost (line : Nat) (s : State) : Res :=
  .next (if s.pkg.ring.up = false ∨ (s.rline line).inSel = 2 then s
    else
      let s := s.onLine line fun r => { r with cfg := putBits r.cfg 1 0 2, input := [] }
      let s := s.onRing fun g => { g with
        state := if g.state = .run then (if bitsOf g.ringcfg 63 56 = 1 then .failed else .lost)
          else if g.state = .lost then .lost else .failed
        side := if g.state = .run then line % 2 else g.side }
      let s := match s.pkg.ring.manager with
        | some p => s.faultRecord p ⟨8, 0, false, 0, 0, 0, 0, 0, 0, bitsOf (s.rline line).cfg 62 0 + line % 2 * 2 ^ 63⟩
        | none => s
      { s with out := s.out ++ [.linkLost line] })

/-- The registers of the line behind the lost member, when that member is bypassed; its tail writes void beats until the first beat of its
new input is due, and begins a void segment (R163). -/
def RingLine.bypass (r : RingLine) (now : Nat) (qm lnk trim : Nat) (toff : Option Nat) : RingLine :=
  let q := r.hop
  let src := match toff with
    | some t => putBits (putBit r.src 63 true) 23 0 ((t + r.k - q % r.k) % r.k)
    | none => r.src
  { r with cfg := putBits (putBits (putBits (putBits r.cfg 30 18 (qm + q)) 17 7 lnk) 6 2 trim) 1 0 1, src := src, input := [], badRun := 1
           mute := now + 6 + lnk + trim, crc := 0xFFFF_FFFF, left := 0, want := 0, linkBad := false, inject := none }

/-- The registers of that line when the new member's output is taken: its tail goes back by the frames that the new member holds, whose
slots are written already, and rests for as long (R163; log entry 143). -/
def RingLine.rejoin (r : RingLine) (now qm lnk trim : Nat) : RingLine :=
  let c := putBits (putBits (putBits (putBits r.cfg 30 18 (r.hop - qm)) 17 7 lnk) 6 2 trim) 1 0 0
  let d := r.delay
  { r with cfg := c, input := [], badRun := 1, rest := now + (d - { r with cfg := c }.delay) }

/-- Void beats in the slots that line l's head reads from cycle a up to cycle b (R161). -/
def State.voidSlots (s : State) (l a b : Nat) : State :=
  (List.range (b - a)).foldl (fun s i =>
    let j := (a + i - s.phase) % 2048
    s.poke (stackKey ((s.rline l).slotAddr (s.frameOf (a + i)) j)) (beatBytes (voidBeat j))) s

/-- A change of line l's registers that moves its tail. Where the delay grows, the slots that the tail passes over take void beats, the
frame already begun among them, since its segment was inside the lost member or on its links (R163; log entry 143). -/
def State.moveTail (s : State) (l : Nat) (f : RingLine → RingLine) : State :=
  let a := s.cyc + (s.rline l).delay
  let t := s.onLine l f
  let b := t.cyc + (t.rline l).delay
  if a < b then t.voidSlots l (max (s.cyc + 1) (s.fs (s.frameOf a))) b else t

/-- `RING_STATE_TRANSITION`: R163. A neighbour whose own input stands leaves RUN by the bypass that it has requested (R355). Kinds 0, 1 and 2 are those of `ringbyp`, with Q of the lost or the new member, the latency and TRIM of
the input taken, and TOFF of the lost member where it was the line's source; 3 fails the ring; 4 and 5 are a bypass and an admission
elsewhere in the ring, which only change the number of live members; 6 is the bypass of this package, which leaves the ring (R396,
R408). -/
def execRingStateTransition (kind qm lnk trim : Nat) (toff : Option Nat) (s : State) : Res :=
  let g := s.pkg.ring
  let clear := fun (s : State) => s.onRing fun g => { g with transition := none }
  .next (match kind with
    | 0 =>
      if g.state = .lost ∨ g.state = .run ∧ g.transition.any (·.1 == 0) then
        (((clear s).nm1 (· - 1)).moveTail g.side fun r => r.bypass s.cyc qm lnk trim toff).onRing fun g => { g with state := .bypass }
      else s
    | 1 =>
      if g.state ≠ .bypass then s
      else (clear s).onRing fun g => { g with state := .admitting, qm := qm, admitAt := s.frameOf s.cyc }
    | 2 =>
      if g.state ≠ .admitting then s
      else if g.newcomer then (clear s).onRing fun g => { g with state := .run, newcomer := false }
      else (((clear s).nm1 (· + 1)).moveTail g.side fun r => r.rejoin s.cyc g.qm lnk trim).onRing fun g => { g with state := .run }
    | 3 => s.onRing fun g => { g with state := .failed, transition := none }
    | 4 => s.nm1 (· - 1)
    | 5 => s.nm1 (· + 1)
    | _ => (clear s).onRing fun g => { g with up := false })

/-- A line at bring-up; a source member fills it from the first frame whose beat 0 its tail still writes (R160). -/
def RingLine.bringUp (cyc phase l : Nat) (c r : DWord) : RingLine :=
  let x := { RingLine.reset with cfg := lineCfg l c, src := lineSrc r, badRun := 1 }
  { x with fill := if x.source then some ((cyc + x.delay - phase + 2047) / 2048) else none }

/-- `RING_BRING_UP`: R160. The transport's registers and CYC are set, their reserved bits zero (R4), and the ring runs, or the package joins
one as its new member. -/
def execRingBringUp (cfg : RingCfg) (s : State) : Res :=
  let line := RingLine.bringUp cfg.cyc (bitsOf cfg.ringcfg 10 0)
  .next { s with
    cyc := cfg.cyc
    pkg := { s.pkg with ring := { s.pkg.ring with
      ringcfg := cfg.ringcfg &&& 0xFFFF_0F00_0000_07FF#64, rmodel := cfg.rmodel &&& 0xFFFF_FFFF#64
      stkcirc := cfg.stkcirc &&& 0x0003_FFFF_0003_FFFF#64, image := cfg.image
      lines := #v[line 0 cfg.rlcfg0 cfg.rlsrc0, line 1 cfg.rlcfg1 cfg.rlsrc1]
      state := if cfg.newcomer then .admitting else .run
      newcomer := cfg.newcomer, side := 0, qm := bitsOf cfg.rlcfg0 30 18, admitAt := (cfg.cyc - bitsOf cfg.ringcfg 10 0) / 2048
      buffer := [], reinject := [], changes := [], transition := none, up := true } } }

/-! ### The ring manager's commands -/

/-- A privileged command of the ring manager (R353). -/
def State.ringManager (s : State) (t : State) : State :=
  s.need (s.here.run.level = .resident ∧ s.isManager (s.partOf s.cur.k) = true) t

/-- The effective frame that IMM9 names (R354). -/
def State.effectiveFrame (s : State) (v : BitVec 9) : Nat :=
  let f := (s.cyc + 2048 - s.phase + 2047) / 2048
  f + (v.toNat + 512 - f % 512) % 512

/-- `ringcfg`: R353, R354. A later change of the same form replaces an earlier one that has not taken effect. -/
def execRingcfg (k : BitVec 3) (f : BitVec 9) (v : BitVec 32) (s : State) : Res :=
  let n := v.toNat
  let room := fun (r : RingLine) => decide (r.hop + n + 1 ≤ r.segs_)
  .next (s.ringManager (s.need (k = 0 ∨ n ≤ 8 ∧ room (s.rline 0) = true ∧ room (s.rline 1) = true)
    (s.onRing fun g => { g with
      changes := g.changes.filter (·.1 != k.toNat) ++ [(k.toNat, s.effectiveFrame f, n)] })))

/-- `RING_CONFIG_EFFECTIVE`: R354. Every change whose frame has come takes effect. -/
def execRingConfigEffective (s : State) : Res :=
  let due := s.pkg.ring.changes.filter fun c => decide (s.fs c.2.1 ≤ s.cyc)
  let put := fun (g : Ring) (c : Nat × Nat × Nat) =>
    if c.1 = 0 then { g with rmodel := BitVec.ofNat 64 c.2.2 } else { g with ringcfg := putBits g.ringcfg 43 40 c.2.2 }
  .next (s.onRing fun g => due.foldl put { g with changes := g.changes.filter fun c => decide (s.cyc < s.fs c.2.1) })

/-- `ringbyp`: R353, R355. Whether a new member holds the ring's CYC and PHASE, and whether the neighbour is lost beyond whose place this
member's own input still stands (U of R163), are known only outside: a free choice. -/
def execRingbyp (k : BitVec 3) (d : BitVec 1) (f : BitVec 9) (s : State) : Res :=
  let g := s.pkg.ring
  let n := s.effectiveFrame f
  let side := decide (g.side = d.toNat)
  let (x, s) := s.draw
  let ok := match k.toNat with
    | 0 => g.state == .lost && (s.rline d.toNat).inSel == 2 || g.state == .run && x % 2 == 1
    | 1 => g.state == .bypass && side && x % 2 == 1
    | _ => g.state == .admitting && (side || g.newcomer) && decide (g.admitAt + g.qm + 1 ≤ n)
  .next (s.ringManager (s.need (ok = true) (s.onRing fun g => { g with
    transition := some (k.toNat, n), side := if k = 0 then d.toNat else g.side })))

/-- Check 3 of a `ringinj` descriptor (R356). -/
def injectFields (d : Nat) : Bool :=
  nbits d 255 208 == 0 && nbits d 159 156 == 0 && nbits d 107 97 == 0 && nbits d 82 0 == 0

/-- Fields of a `ringinj` descriptor (R356). -/
def inEnt (d : Nat) : Nat := nbits d 155 153
def inLine (d : Nat) : Nat := nbits d 152 152
def inIdx (d : Nat) : Nat := nbits d 151 128

/-- `ringinj`: R353, R356; the segment is read through the fabric load queue. -/
def execRinginj (desc : BitVec 16) (s : State) : Res :=
  .next (s.ringManager (s.fabricDesc desc 32 fun off d =>
    let r := s.rline (inLine d)
    s.need (injectFields d = true ∧ r.source = true ∧ inIdx d < r.k) <|
      let c := s.rc (fdSrcc d)
      s.checked c (sint 48 (nbits d 207 160)) 2097152 Right.copySrc false false fun o => s.roomFor <|
        let u := s.newUOp (.fabric s.nextId)
        (s.issueCmd 14 off d [] none).enqueue { u with
          id := s.nextId + 1, rq := 6, src := some ⟨c.node, c.obj, 0⟩
          pieces := (parts16 (2097152 + 1) o 2097152).map fun (a, m) => UPiece.plain a 0 m (a - o) [] }))

/-- A `ringinj` at the fabric engine takes its entry, or ends with BUSY (R356). -/
def State.acceptInjection (s : State) (c : FCmd) : State :=
  if s.pkg.ring.buffer.any (·.1 == inEnt c.bits) then (s.endFCmd c.id 5 0).killOps fun u => u.owner == .fabric c.id
  else s.onRing fun g => { g with buffer := g.buffer ++ [(inEnt c.bits, ⟨inLine c.bits, inIdx c.bits, none, c.id⟩)] }

/-- The segment that a `ringinj` has read, once it is complete. -/
def State.injectionRead (s : State) (e : Nat) : Option (List Byte) :=
  (s.pkg.ring.buffer.find? (·.1 == e)).bind fun (_, g) =>
    if g.data.isSome then none
    else (s.uops.find? (·.owner == .fabric g.cmd)).bind fun u =>
      if u.pieces.all (·.st == .held) then some (u.pieces.flatMap (·.data)) else none

/-- `RING_INJECTION_STAGED`: R356. The segment read is staged, or its entry is freed; poison ends the command and rolls the team back
(R387). -/
def execRingInjectionStaged (entry : Nat) (data : List Byte) (s : State) : Res :=
  .next (match s.pkg.ring.buffer.find? (·.1 == entry) with
    | none => s
    | some (_, g) =>
      if g.data.isSome then s
      else
        let h := leNat (data.take 64)
        let u := s.uops.find? (·.owner == .fabric g.cmd)
        let ok := hdrTag h == g.line * 2 ^ 24 + g.idx && nbits h 159 128 == bitsOf s.pkg.ring.rmodel 31 0 && decide (hdrLen h ≤ 2097088) &&
          (crc32 ((data.drop 64).take (hdrLen h))).toNat == hdrCrc h
        let put := fun (x : Nat × Staged) => if x.1 = entry then (x.1, { x.2 with data := some data }) else x
        let free := fun (s : State) => s.onRing fun r => { r with buffer := r.buffer.filter (·.1 != entry) }
        if u.any fun v => v.pieces.any (·.poison) then
          (((free s).endFCmd g.cmd 2 3).killOps fun v => v.owner == .fabric g.cmd) |> fun t => (u.map t.poisonFor).getD t
        else if ok then (s.onRing fun r => { r with buffer := r.buffer.map put }).endFCmd g.cmd 1 0
        else (free s).endFCmd g.cmd 6 0)

end Sys2Proof.Machine
end

