-- ==== Sys2Proof/Machine/FabricEvents.lean ====
section
/-!
DEFINITION. Acceptance of fabric commands and their write-back (R340, R347, R356, R368, R387, R400).
-/

namespace Sys2Proof.Machine

/-! ### Acceptance -/

/-- Commands issued in an earlier cycle that the fabric engine may accept now: the oldest, as far as the queue has room (R340). -/
def State.acceptables (s : State) : List FCmd :=
  (s.pkg.fab.cmds.filter fun c => !c.accepted && c.status == 0 && decide (c.issue < s.cyc)).take (256 - (s.pkg.fab.cmds.filter (·.accepted)).length)

/-- The command that the fabric engine accepts next: of those that it may accept, that of the lowest station, and of one station the
oldest (R340, R364). -/
def State.acceptable (s : State) : Option FCmd :=
  s.acceptables.foldl (fun m c => match m with
    | none => some c
    | some d => if c.k < d.k then some c else some d) none

/-- The slot that a record of a command names (R400). -/
def FCmd.recordSlot (c : FCmd) : Nat := if c.op = 6 ∨ c.op = 7 ∨ c.op = 8 then gdSlot c.bits * 256 else 0

/-- `FABRIC_COMMAND_ACCEPT`: R340, R347, R356, R400. -/
def execFabricCommandAccept (s : State) : Res :=
  .next (match s.acceptable with
    | none => s
    | some c =>
      let s := s.onFCmd c.id fun x => { x with accepted := true, unit := s.nextId }
      let s := { s with nextId := s.nextId + 1 }
      let s := s.evenRecord c.k 4 0 7 c.pc c.recordSlot c.desc
      if c.op = 14 then s.acceptInjection c
      else if 6 ≤ c.op ∧ c.op ≤ 8 then s.acceptGraph c
      else s)

/-! ### Write-back -/

/-- A graph image that a `gload` has read is installed; poisoned bytes are not used (R347, R368, R387). -/
def State.endLoad (s : State) (c : FCmd) (u : Option UOp) (st ec : Nat) : Nat × Nat × State :=
  if c.op ≠ 6 ∨ st ≠ 1 then (st, ec, s)
  else if (u.map fun u => u.pieces.any (·.poison)).getD false then (6, 3, s.machineCheck c.k 1)
  else
    let (x, s) := s.installGraph c ((u.map fun u => u.pieces.flatMap (·.data)).getD [])
    (x, 0, s)

/-- The entry of an injection whose segment was not staged is free again (R356). -/
def State.freeInjection (s : State) (c : FCmd) : State :=
  if c.op ≠ 14 then s
  else s.onRing fun g => { g with buffer := g.buffer.filter fun x => x.2.cmd != c.id || x.2.data.isSome }

/-- SET and FLG of a write-back: an atomic's come with its result (R341, R344). -/
def FCmd.outcome (c : FCmd) (u : Option UOp) : Nat × Nat :=
  let data := (u.map fun u => u.pieces.flatMap (·.data)).getD []
  if c.op = 2 ∨ c.op = 3 then (nbits (leNat (data.drop 8)) 0 0, nbits (leNat ((data.drop 9).take 1)) 6 0)
  else (b2n ((u.map (·.settled)).getD false), (u.map fun u => u.flags.toNat).getD 0)

/-- The write-back of a command that ends with a status and a code (R340, R342): a bay that has received nothing becomes VOID, the
descriptor is written through the service port, and the semaphore follows in the next cycle. -/
def State.writeBack (s : State) (c : FCmd) (status ecode : Nat) : State :=
  let u := s.opOf c
  let (st, ec, s) := s.endLoad c u status ecode
  let s := s.freeInjection c
  let (set_, flags) := c.outcome u
  let s := match c.bay with
    | some b => s.landReply c.ctx c.k b ⟨0, true, false⟩
    | none => s
  let s := (s.serve (.bank c.k.val c.desc)).poke (s.descKey c) (writtenBack (c.bits % 2 ^ 128) st set_ flags ec)
  let s := s.noteStandby c.k .task (s.descKey c % 2 ^ 20)
  let s := match c.rsem with
    | some n => s.fabricLater (s.cyc + 1) (.raise c.k n)
    | none => s
  let s := s.evenRecord c.k 4 1 7 c.pc (st + c.recordSlot) c.desc
  { s.onFab fun f => { f with cmds := f.cmds.filter (·.id != c.id) } with
    uops := s.uops.filter fun (u : UOp) => u.owner != Owner.fabric c.id }

/-- `FABRIC_WRITE_BACK`: R340; through the service port of the bank once it is free (R48). -/
def execFabricWriteBack (id : Nat) (s : State) : Res :=
  .next (match s.fcmd id with
    | none => s
    | some c => match s.cmdEnd c with
      | none => s
      | some (st, ec) =>
        if s.placeTaken (.bank c.k.val c.desc) ∨ (c.bay.all fun b => s.mayLand c.ctx c.k b) = false then s else s.writeBack c st ec)

end Sys2Proof.Machine
end

