-- ==== Sys2Proof/Machine/LaneTap.lean ====
section
/-!
DEFINITION. The lane tap: taps, drives, the cursor, and slack reads (R151, R152, R334 to R339).
-/

namespace Sys2Proof.Machine

/-- A lane that carries the weight ring (R52). -/
def weightLane (l : Nat) : Bool := l % 16 < 4

/-- One of the station's own bank lanes (R54). -/
def Station.ownLane (t : Station) (l : Nat) : Bool := l == bitsOf t.sys.blane 4 0 || l == bitsOf t.sys.blane 9 5

/-- A lane that may be driven (R335). -/
def Station.mayDrive (t : Station) (l : Nat) : Bool := !weightLane l && !t.ownLane l

/-- The cursor one line on (R334). -/
def Tap.step (t : Tap) : Tap :=
  let m := 2 ^ (8 + t.tw)
  let v := t.tco.toNat
  { t with tco := BitVec.ofNat 48 (v / m * m + (v + 256) % m) }

/-- The capability register, the cursor's offset and the displacement of a memory operand: the cursor, or [cC + disp] (R334, R336). -/
def State.tapOperand (s : State) (k : BitVec 3) (i : BitVec 10) (x : Option (BitVec 32)) : BitVec 4 × Option Nat × Int :=
  if k = 0 then (s.here.tap.tcc, some s.here.tap.tco.toNat, 0)
  else (i.truncate 4, none, 256 * (match x with
    | some d => d.toInt
    | none => (i.extractLsb' 4 6).toInt))

/-- The displacement of an operand from the cursor of its capability, with the value that the capability has now (R334). -/
def tapDisp (c : Cap) (o : Option Nat) (d : Int) : Int := match o with
  | some t => (t : Int) - c.cursor
  | none => d

/-- The format-alignment subcode of 256 bytes that move unchanged: of a page of blocks or groups they are whole ones and no padding (R74,
R93). -/
def tapFormat (gs : List Seg) : Nat := gs.foldl (fun m g => max m (spanCheck g.page.fmt g.page.geom g.page.po g.len)) 0

/-- The 256 bytes of the source of a drive, through the pin table: its line accesses (R32, R46, R337). -/
def State.tapSource (s : State) (k : BitVec 3) (i : BitVec 10) (f : List Seg → State) : State :=
  let (r, o, d) := s.tapOperand k i none
  let c := s.rc r
  s.checked c (tapDisp c o d) 256 Right.read false false fun o => s.need (o % 256 = 0) (s.pinned c.obj o 256 f)

/-- A form that names the cursor advances it (R334). -/
def State.useCursor (s : State) (k : BitVec 3) : State := if k = 0 then s.onHere fun t => { t with tap := t.tap.step } else s

/-! ### What a tap receives -/

/-- What the instruction of `cur` is to a trap. -/
def State.hereAt (s : State) : TrapAt := ⟨s.cur.e.code, s.cur.stamp, s.cur.pc, s.cur.rpti⟩

/-- The source of a weight-lane tap at nominal cycle n: line, frame, beat, quarter, and whether the catch-up distance moved the frame
(R151). -/
def State.weightSource (s : State) (k : Stn) (l n : Nat) : Nat × Int × Nat × Nat × Bool :=
  let line := l / 16
  let (g, j) := s.tapBeat k (line == 1) n
  let sel := (s.stn k).sys.slksel
  let g' := if bitOf sel 63 ∧ b2n (bitOf sel 62) = line then g - (bitsOf sel 2 0 : Nat) else g
  (line, g', j, l % 16, g' != g)

/-- A weight-lane tap of station k is a slack read: the station trails CYC, or reads a catch-up frame (R151). -/
def State.slackTap (s : State) (k : Stn) (l : Nat) : Bool :=
  s.pkg.ring.up && weightLane l && ((s.stn k).run.lag != 0 || (s.weightSource k l (s.nom k)).2.2.2.2)

/-- The slack read of a tap begins: the station is frozen until its data land (R151). -/
def State.startSlack (s : State) (k : Stn) (l : Nat) (a : TrapAt) : State :=
  let (line, g, j, q, _) := s.weightSource k l (s.nom k)
  if (s.stn k).tap.slack.isSome then s
  else s.onStn k fun t => { t with tap := { t.tap with slack := some ⟨line, g, j, q, a, none⟩ } }

/-- What a tap delivers: the line with its poison and the map tag of its segment; nothing, with a lag mismatch; or a slack read that has
not landed (R151, R174, R336). -/
inductive Tapped where
  | line (d : Line) (poison : Bool) (tag : MapTag)
  | skew
  | slack

/-- The tap of a lane by the station of `cur` (R336). A weight lane of a ring that is not up carries unpredictable bytes. -/
def State.tapLane (s : State) (l : Nat) : Tapped × State :=
  let k := s.cur.k
  if weightLane l then
    if s.pkg.ring.up = false then
      let (d, s) := s.drawLine
      (.line d false ⟨0, 0, 0⟩, s)
    else
      let s := s.count (s.partOf k) 0x11 1
      let (line, g, j, q, _) := s.weightSource k l s.now
      let tag := hdrMap (s.header line g)
      if s.slackTap k l then
        match s.here.tap.slack with
        | some ⟨_, _, _, _, _, some (d, p)⟩ => (.line d p tag, s.onHere fun t => { t with tap := { t.tap with slack := none } })
        | _ => (.slack, s)
      else
        let (d, p) := s.quarter line g j q
        (.line d p tag, s)
  else match s.stage (clusterOf k) l (slotOf (localOf k)) with
    | none => (.line 0 false ⟨0, 0, 0⟩, s)
    | some b =>
      if b.start = s.cyc then (.line 0 false ⟨0, 0, 0⟩, s)
      else match b.data with
        | none => (.line 0 false ⟨0, 0, 0⟩, s)
        | some d => if b.lag ≠ s.here.run.lag % 2 ^ 24 then (.skew, s) else (.line d b.poison ⟨0, 0, 0⟩, s)

/-- A tap whose operand checks pass: what it receives goes on; poisoned data roll the team back (R387). A slack read that has not landed
leaves the instruction to be released again. -/
def State.tapped (s : State) (l : Nat) (f : Line → MapTag → State → State) : State :=
  match s.tapLane l with
  | (.line d p tag, s) => if p then s.machineCheck s.cur.k 1 else f d tag s
  | (.skew, s) => s.scheduleMiss 7
  | (.slack, s) => { s.startSlack s.cur.k l s.hereAt with stay := true }

/-! ### The instructions -/

/-- `ltap`: R336. The delivery is made at nominal n + 1, a write to memory with its checks. -/
def execLtap (l : BitVec 5) (k : BitVec 3) (i : BitVec 10) (x : Option (BitVec 32)) (s : State) : Res :=
  let ln := l.toNat
  .next (s.need (s.here.ownLane ln = false) <|
    if k = 1 ∨ k = 2 then
      let b := k == 2
      s.need (s.here.untimedFill b = false) <| s.tapped ln fun d tag s =>
        let tag := match x with
          | some w => ⟨w.extractLsb' 31 1, w.extractLsb' 29 2, w.extractLsb' 23 6⟩
          | none => tag
        s.after 1 (.tapFifo b d tag s.hereAt)
    else
      s.tapped ln fun d _ s =>
        let (c, o, disp) := s.tapOperand k i x
        (s.after 1 (.tapWrite c o disp d s.hereAt)).useCursor k)

/-- `ldrive`: R337. The line is driven when the read's data are usable, at nominal n + 3, or n + 4 where the source lies in two lines (R46;
log entry 134). -/
def execLdrive (l : BitVec 5) (k : BitVec 3) (i : BitVec 10) (h : BitVec 7) (s : State) : Res :=
  .next (s.need (s.here.mayDrive l.toNat = true) <|
    s.tapSource k i fun gs =>
      s.need (gs.all (fun g => g.page.bank == some s.cur.k) = true)
        (if tapFormat gs = 0 then (s.send (.drive l.toNat h.toNat (k == 0)) (readSegs gs)).useCursor k else s.formatTrap (tapFormat gs)))

/-- `lfwd`: R338. -/
def execLfwd (l o : BitVec 5) (h : BitVec 7) (s : State) : Res :=
  .next (s.need (s.here.ownLane l.toNat = false ∧ s.here.mayDrive o.toNat = true) <|
    s.tapped l.toNat fun d _ s => s.after 1 (.tapDrive o.toNat h.toNat d s.hereAt))

/-- `lsel`: R339. -/
def execLsel (i : BitVec 6) (c : BitVec 4) (x : Option (BitVec 32)) (s : State) : Res :=
  let d : Int := match x with
    | some w => w.toInt
    | none => i.toInt
  .next (s.onHere fun t => { t with tap := { t.tap with
    tcc := c, tco := BitVec.ofInt 48 (((t.creg c).cursor : Int) + 256 * d) } })

/-- `lidle`: R339; no effect. -/
def execLidle (_n : BitVec 10) (s : State) : Res := .next s

/-- `lcfg`: R339. -/
def execLcfg (w : BitVec 4) (s : State) : Res := .next (s.onHere fun t => { t with tap := { t.tap with tw := w.toNat } })

/-! ### Deliveries that are due -/

/-- The write of a tap, issued with the value that its capability has now: the checks of R18 with write rights, of the offset, of the pin
table and of the page's format, each of which is a trap of the `ltap` (R32, R334, R336; log entry 134). -/
def State.tapStore (s : State) (k : Stn) (r : BitVec 4) (o : Option Nat) (d : Int) (data : Line) (a : TrapAt) : State :=
  let c := (s.stn k).creg r
  match capCheck c s.nodeId (tapDisp c o d) 256 Right.write false false with
  | .error x => s.lateTrap k 0x03 x a
  | .ok o =>
    if o % 256 ≠ 0 then s.lateTrap k 0x02 0 a
    else match s.segments k c.obj 4 o 256 with
      | none => s.lateTrap k 0x03 8 a
      | some gs =>
        if gs.any (fun g => g.page.fmt != 0) then s.lateTrap k 0x04 (max 1 (tapFormat gs)) a
        else match s.sendFor k .tap a (s.stn k).run.level .none (writeSegs gs (bytesOf data) none) with
          | .ok s => s
          | .error s => s

/-- The lane tap's drives and writes whose nominal cycle has come (R336, R338). -/
def State.tapOutputs (s : State) (k : Stn) (drives : Bool) : State :=
  let now := s.workNom k
  let mine := fun (p : Pend) => decide (p.due ≤ now) && match p.eff with
    | .tapDrive .. => drives
    | .tapWrite .. => !drives
    | _ => false
  let due := (s.stn k).pend.filter mine
  due.foldl (fun s p =>
    let s := s.onStn k fun t => { t with pend := t.pend.erase p }
    match p.eff with
    | .tapDrive lane span d a => s.tapDrive k lane span d a
    | .tapWrite r o x d a => s.tapStore k r o x d a
    | _ => s) s

/-- The place that a slack read of station k reads. -/
def State.slackPlace (s : State) (k : Stn) : Option Phys :=
  (s.stn k).tap.slack.bind fun w => if w.ready.isNone then some (.stack ((s.rline w.line).slotAddr w.frame w.beat + 256 * w.quarter)) else none

/-- `SLACK_READ`: R151, R152. The memory port reads the quarter beat in a channel cycle that nothing has claimed (R59), and corrects it
(R386); a frame outside the window returns no data. -/
def execSlackRead (k : Stn) (s : State) : Res :=
  .next (match (s.stn k).tap.slack with
    | some ⟨l, g, j, q, a, none⟩ =>
      if s.inWindow g then
        let ph := Phys.stack ((s.rline l).slotAddr g j + 256 * q)
        if s.placeTaken ph then s
        else
        let s := (s.serve ph).correct k (stackKey ((s.rline l).slotAddr g j + 256 * q)) (List.range 256)
        let (d, p) := s.quarter l g j q
        s.onStn k fun t => { t with tap := { t.tap with slack := some ⟨l, g, j, q, a, some (d, p)⟩ } }
      else (s.onStn k fun t => { t with tap := { t.tap with slack := none } }).lateTrap k 0x06 3 a
    | _ => s)

end Sys2Proof.Machine
end

