-- ==== Sys2Proof/Machine/Host.lean ====
section
/-!
DEFINITION. What the host does to the package: window accesses, atomics, snoops, and posts to mailboxes (R115, R190, R370, R372 to
R374).
-/

namespace Sys2Proof.Machine

/-! ### The host window -/

/-- A part of a window access translated, without its walk's effects: the leaf entry, or the cause of the refusal (R372). A window that is
not open has no offset in range; a page in transit is refused at once (log entry 118). -/
def State.windowAt (s : State) (off n : Nat) (write : Bool) : Except Nat Nat :=
  let w := s.pkg.hostl.hwin
  if bitOf w 63 = false then .error 1
  else
    match s.look (bitsOf w 59 56) (bitsOf w 21 0) off n with
    | .fault 2 => .error 1
    | .at_ (.bank _ o) e _ => if leafRes e = 2 ∧ (write = false ∨ o < 0xF_8000) then .ok e else .error 2
    | .at_ (.stack _) e _ => if leafRes e = 2 then .ok e else .error 2
    | _ => .error 2

/-- The first refusal among the parts of a window access. -/
def State.windowRefusal (s : State) (write : Bool) (l : List (Nat × Nat)) : Option Nat :=
  l.findSome? fun (o, n) => match s.windowAt o n write with
    | .error c => some c
    | .ok _ => none

/-- An access of the host that its window lets pass becomes an untimed operation at task level (R195, R372, R373). -/
def State.windowOp (s : State) (a : Option Atom) (read : Bool) (pieces : List UPiece) : State :=
  let w := s.pkg.hostl.hwin
  let at_ : Option Loc := some ⟨s.nodeId, bitsOf w 21 0, 0⟩
  s.enqueue { s.newUOp (.window a read) with
    k := 0, part := bitsOf w 59 56, ctx := 0, eng := 0, seq := 0, issue := s.cyc - 1, level := .task
    src := if read then at_ else none, dst := if read then none else at_, pieces := pieces }

/-- The pieces of a write of the host. -/
def windowPieces (off : Nat) (bs : List Byte) : List UPiece :=
  (parts16 (bs.length + 1) off bs.length).map fun (o, n) =>
    { UPiece.plain 0 o n (o - off) ((bs.drop (o - off)).take n) with st := .held }

/-- `HOST_WINDOW_ACCESS`: R372. A refused read completes with data poison and bytes that no rule gives; a refused write is dropped. -/
def execHostWindowAccess (a : HostAccess) (s : State) : Res :=
  .next (match a with
    | .read off n => match s.windowRefusal false (parts16 (n + 1) off n) with
      | some c =>
        let (x, s) := (s.hostRefused c off).draw
        { s with out := s.out ++ [.hostRead (leBytes n x) true] }
      | none => s.windowOp none true ((parts16 (n + 1) off n).map fun (o, m) => UPiece.plain o 0 m (o - off) [])
    | .write off bs => match s.windowRefusal true (parts16 (bs.length + 1) off bs.length) with
      | some c => s.hostRefused c off
      | none => s.windowOp none false (windowPieces off bs))

/-- A host atomic as an atomic unit performs it (R373). -/
def hostAtomOf (a : HostAtomic) : Atom := ⟨if a.swap then 6 else 0, if a.wide then 8 else 4, a.cas, a.opnd, a.newv⟩

/-- A host atomic refused: it completes with an abort, and memory is unchanged (R115, R373). -/
def State.hostAbort (s : State) (cause off : Nat) : State :=
  let s := s.hostRefused cause off
  { s with out := s.out ++ [.hostAtomic 0 true] }

/-- `HOST_ATOMIC`: R115, R373. -/
def execHostAtomic (a : HostAtomic) (s : State) : Res :=
  let op := hostAtomOf a
  .next (if a.off % op.size ≠ 0 then s.hostAbort 2 a.off
    else match s.windowAt a.off op.size true with
      | .error c => s.hostAbort c a.off
      | .ok e =>
        if leafPlace e ≠ 3 then s.hostAbort 3 a.off else s.windowOp (some op) false [UPiece.plain 0 a.off op.size 0 []])

/-! ### Mailboxes -/

/-- A counter of MBERR raised; it saturates (R374). -/
def State.countPost (s : State) (p : Nat) (drop : Bool) : State :=
  let (hi, lo) := if drop then (63, 32) else (31, 0)
  s.onPart p fun q => { q with mberr := putBits q.mberr hi lo (min (bitsOf q.mberr hi lo + 1) 0xFFFF_FFFF) }

/-- A mailbox word after a post (R190). -/
def mbPut (v : DWord) : DWord := putBits (putBits v 35 28 ((bitsOf v 35 28 + 1) % (bitsOf v 47 40 + 1))) 56 48 (bitsOf v 56 48 + 1)

/-- The slot that the next post to a mailbox fills (R190). -/
def mbTail (v : DWord) : Nat := bitsOf v 19 0 * 16384 + bitsOf v 35 28 * 64

/-- A message of which an `mbrecv` has bytes still to read stands in the slot at an address (R191, R265). -/
def State.mailUnread (s : State) (a : Nat) : Bool :=
  s.uops.any fun u => match u.owner with
    | .mail _ _ n => n == 1 && u.pieces.any fun p => decide (a ≤ p.src) && decide (p.src < a + 64) && p.st == .idle
    | _ => false

/-- A post that its mailbox takes may be appended in this cycle: the channel of its slot does nothing else, and the slot's last message has
been read (R56, R191, R374). -/
def State.mayPost (s : State) (v : DWord) : Bool := !s.placeTaken (.stack (mbTail v)) && !s.mailUnread (mbTail v)

/-- A mailbox takes no post: it is disabled or full (R374). -/
def mbShut (v : DWord) : Bool := !bitOf v 63 || bitsOf v 56 48 == bitsOf v 47 40 + 1

/-- A well-formed post meets its fate in this cycle: it is appended, or discarded and counted (R374). -/
def State.post (s : State) (mb : Nat) (data : List Byte) : State :=
  let v := s.mailbox mb
  if mbShut v then s.countPost (bitsOf v 62 59) true
  else ((s.serve (.stack (mbTail v))).poke (stackKey (mbTail v)) data).setMailbox mb (mbPut v)

/-- A post that must wait stands behind the earlier ones, in arrival order (R374). -/
def State.postLater (s : State) (mb : Nat) (data : List Byte) : State := { s with pkg := { s.pkg with posts := s.pkg.posts ++ [(mb, data)] } }

/-- A post meets its fate, unless an earlier one to its mailbox waits or its append must wait (R374). -/
def State.postOrWait (s : State) (mb : Nat) (data : List Byte) : State :=
  let v := s.mailbox mb
  if (s.pkg.posts.any fun x => x.1 == mb) || !(mbShut v || s.mayPost v) then s.postLater mb data else s.post mb data

/-- The posts that wait are tried again, in their order (R374). -/
def State.retryPosts (s : State) : State :=
  s.pkg.posts.foldl (fun s x => s.postOrWait x.1 x.2) { s with pkg := { s.pkg with posts := [] } }

/-- `HOST_MAILBOX_POST`: R190, R266, R374. -/
def execHostMailboxPost (mb : Nat) (aligned : Bool) (data : List Byte) (s : State) : Res :=
  .next (if aligned = false ∨ data.length ≠ 64 then s.countPost (bitsOf (s.mailbox mb) 62 59) false else s.postOrWait mb data)

/-- `HOST_POST_WINDOW_READ`: R374. -/
def execHostPostWindowRead (mb : Nat) (s : State) : Res :=
  let v := s.mailbox mb
  .next { s with out := s.out ++ [.hostRead (leBytes 64 (bitsOf v 56 48 + bitsOf v 47 40 * 2 ^ 16)) false] }

/-! ### Snoops -/

/-- `HOST_SNOOP`: R370. The device holds no line, and answers every snoop so. -/
def execHostSnoop (addr : Nat) (s : State) : Res := .next { s with out := s.out ++ [.snoop addr] }

end Sys2Proof.Machine
end

