-- ==== Sys2Proof/Machine/Sched.lean ====
section
/-!
DEFINITION. Barrier phases, the timetable-slip check, budgets, and requests to pre-empt a team, to restore a context and to roll a
team back (R177, R180, R194, R201, R203, R209, R382, R392).
-/

namespace Sys2Proof.Machine

/-! ### Barrier phases -/

/-- A phase completes: CPH rises, ARR and the arrival bits clear (R180). -/
def RouteTag.complete (x : RouteTag) : RouteTag :=
  { x with ctl := putBits (putBits x.ctl 47 32 (bitsOf x.ctl 47 32 + 1)) 8 0 0, arrived := 0, due := none }

/-- `BARRIER_PHASE_COMPLETE`: R180. -/
def execBarrierPhaseComplete (tag : Nat) (s : State) : Res :=
  let t := BitVec.ofNat 3 tag
  let x := s.tag t
  .next (if x.due.any fun c => decide (c ≤ s.cyc) then s.setTag t x.complete else s)

/-! ### Timetable slip -/

/-- BUD (R177). -/
def Station.bud (t : Station) : Nat := bitsOf t.sys.lagcfg 15 0

/-- A station runs: it is owned, and it is neither halted nor pre-empted (R177, R402). One that has saved its image runs again, at
resident level and, once the resident program has forked one, in another task's block. -/
def Station.running (t : Station) : Bool :=
  t.run.on && !t.trap.halted && t.pre.st != .halted && t.pre.st != .restore

/-- A partition's station whose block 0 has started (R188, R401). -/
def Station.started (t : Station) : Bool := t.run.on && t.run.startAt.isNone

/-- A station whose clock is gated: in IDLE no station runs, neither one that is pre-empted nor one that is being restored (R408; log entry
39). -/
def State.gated (s : State) (k : Stn) : Bool :=
  let st := (s.stn k).pre.st
  decide (2 ≤ s.pkg.svc.power.toNat) && (st == .saved || st == .restore)

/-- A station that samples and counters take as running (R401, R403, R408). -/
def State.running (s : State) (k : Stn) : Bool := (s.stn k).started && !s.gated k

/-- The frame whose slip cycle is the current one for a slack budget, where there is one (R177). -/
def State.slipFrame (s : State) (bud : Nat) : Option Nat :=
  let c := s.cyc - bud
  if s.phase + bud ≤ s.cyc ∧ (c - s.phase) % 2048 = 0 then some ((c - s.phase) / 2048) else none

/-- A station at task level opens the frame whose slip cycle is the current one with too great a lag (R177). -/
def State.slips (s : State) (k : Stn) : Option Nat :=
  let t := s.stn k
  match s.slipFrame t.bud with
  | some f => if t.running && t.run.level == .task && decide (s.nom k < s.fs f) then some f else none
  | none => none

/-- The nominal cycle of a station's task, which stands still while its handler runs (R177, R378). -/
def State.taskNom (s : State) (k : Stn) : Nat := if (s.stn k).trap.inHandler then (s.stn k).trap.tnom else s.nom k

/-- The frames from f on whose block some station of the team had begun (R177). -/
def State.begunFrames (s : State) (p t f : Nat) : List Nat :=
  let ks := s.team p t
  f :: (s.framesFrom p t (f + 1)).filter fun g => ks.any fun k => decide (s.fs g ≤ s.taskNom k)

/-- Station j is to take subcode 0x2 within 12 cycles, unless it took a slip itself (R177). -/
def State.markSlip (s : State) (j : Stn) : State :=
  let x := (s.stn j).trap
  let slipped := (x.taking.any fun t => t.1.cause == 6) || (x.inHandler && bitsOf x.tcause 47 40 == 6)
  if slipped ∨ x.slipDue.isSome ∨ (s.slips j).isSome then s
  else
    let (d, s) := s.draw
    s.onStn j fun t => { t with trap := { t.trap with slipDue := some (s.cyc + d % 13) } }

/-- What a slip of station k for frame f means for its team: the skip rules once, and subcode 0x2 for every other station (R177). -/
def State.teamSlip (s : State) (k : Stn) (f : Nat) : State :=
  let p := s.partOf k
  let t := s.teamNo k
  let s := (s.begunFrames p t f).foldl (fun s g => s.skipRows p t g false) s
  ((s.team p t).filter (· != k)).foldl State.markSlip s

/-- Station k takes subcode 0x1 for frame f. -/
def State.slip (s : State) (k : Stn) (f : Nat) : State :=
  let s := s.lateTrap k 0x06 1 (s.groupAt k)
  (s.onStn k fun t => { t with trap := { t.trap with slipDue := none } }).teamSlip k f

/-- `TIMETABLE_SLIP_CHECK`: R177. -/
def execTimetableSlipCheck (k : Stn) (s : State) : Res :=
  .next (match s.slips k with
    | some f => s.slip k f
    | none => s)

/-- A station's subcode 0x2 falls due at task level (R177). -/
def State.slipDue (s : State) (k : Stn) : Bool :=
  let t := s.stn k
  t.run.level == .task && t.running && t.trap.slipDue.any fun c => decide (c ≤ s.cyc)

/-- `TEAM_SLIP_TRAP`: R177. -/
def execTeamSlipTrap (k : Stn) (s : State) : Res :=
  .next (if s.slipDue k = false then s
    else (s.lateTrap k 0x06 2 (s.groupAt k)).onStn k fun t => { t with trap := { t.trap with slipDue := none } })

/-! ### Requests for teams -/

/-- The first frame that starts at or after the current cycle (R202). -/
def State.nextFrame (s : State) : Nat := (s.cyc + 2047 - s.phase) / 2048

/-- A pre-emption request for a team: each of its stations that runs, or has saved an image and runs on, becomes PENDING (R201,
R202). -/
def State.requestPreempt (s : State) (p t : Nat) (ovr : Bool) : State :=
  let f := s.nextFrame
  (s.team p t).foldl (fun s k => s.onStn k fun x =>
    if x.pre.st = .run ∨ x.pre.st = .saved then
      { x with pre := { x.pre with st := .pending, full := false, xd := false, ovr := ovr, mal := false, nit := 0, frame := f } }
    else x) s

/-- `PREREQ`: R201. -/
def execPrereq (k : Stn) (v : DWord) (s : State) : Res :=
  let s := { s with pkg := { s.pkg with prereq := BitVec.ofNat 64 (bitsOf v 9 0) } }
  .next (if bitOf v 63 then s.requestPreempt (s.partOf k) (bitsOf v 9 0) false else s)

/-- REM counts down while a task runs (R194). -/
def Station.budgeted (t : Station) : Bool := t.run.on && bitOf t.sys.tskcur 62 && bitOf t.sys.budget 62 && bitsOf t.sys.budget 47 0 != 0

/-- `BUDGET_EXPIRY`: R194. REM reaches 0 in this cycle. -/
def execBudgetExpiry (k : Stn) (s : State) : Res :=
  .next (if (s.stn k).budgeted && bitsOf (s.stn k).sys.budget 47 0 == 1 then
      (s.onStn k fun t => { t with sys := { t.sys with budget := putBit (putBits t.sys.budget 47 0 0) 63 true } }).requestPreempt
        (s.partOf k) (s.teamNo k) true
    else s)

/-- A save area's header (R207). -/
def State.imageHeader (s : State) (area : Nat) : Nat := s.stackNat (area * 2 ^ 21) 64

/-- Bytes of a save area. -/
def State.areaBytes (s : State) (area off n : Nat) : List Byte := s.mem.readN (stackKey (area * 2 ^ 21) + off) n

/-- The team whose image an area holds, as its control area tells; an area that this machine did not write names the station's own team
(R206, R210; log entry 32). -/
def State.areaTeam (s : State) (k : Stn) (area : Nat) : Nat :=
  let id := ((s.pkg.images.find? fun i => i.ctl == s.areaBytes area 64 1984).map fun i => i.stn.sys.teamid).getD (s.stn k).sys.teamid
  if bitOf id 63 then bitsOf id 9 0 else 1024 + k.val

/-- A restore starts: STATE is RESTORE, the station stalls as pre-empted (R402), the redirect entries of the image's context point here, and
its bays still in transit become PENDING (R209). The header is read in the GO cycle itself, which R209 fixes for these effects (log entry
140). The load ends in some later cycle. -/
def State.startRestore (s : State) (k : Stn) (v : DWord) : State :=
  let area := bitsOf v 12 0
  let s := (s.serve (.stack (area * 2 ^ 21))).correct k (stackKey (area * 2 ^ 21)) (List.range 64)
  let h := s.imageHeader area
  let ctx := h / 2 ^ 112 % 2 ^ 16
  let mask := h / 2 ^ 224 % 2 ^ 16
  let (d, s) := s.draw
  let s := { s with pkg := { s.pkg with redirects := s.pkg.redirects.map fun (r : Redirect) => if r.ctx = ctx then { r with live := some k } else r } }
  s.onStn k fun t =>
    let t := (List.range 16).foldl (fun (t : Station) b => if mask.testBit b then t.pendBay b else t) t
    { t with
      run := { t.run with stall := 6 }
      pre := { t.pre with
        st := .restore, area := area, half := bitOf v 62, loaded := false, loadAt := s.cyc + 1 + d, resumeAt := none
        stage := 0, team := s.areaTeam k area, image := none, roll := false, kept := none } }

/-- `PRRST`: R209. -/
def execPrrst (k : Stn) (v : DWord) (s : State) : Res := .next (if bitOf v 63 then s.startRestore k v else s)

/-- A team's rollback is requested (R392); a team already rolling back takes no second one. -/
def State.requestRollback (s : State) (p t : Nat) : State :=
  if s.pkg.rollbacks.contains (p, t) then s else { s with pkg := { s.pkg with rollbacks := s.pkg.rollbacks ++ [(p, t)] } }

/-- `RBREQ`: R392. -/
def execRbreq (k : Stn) (v : DWord) (s : State) : Res :=
  let s := { s with pkg := { s.pkg with rbreq := BitVec.ofNat 64 (bitsOf v 9 0) } }
  .next (if bitOf v 63 then s.requestRollback (s.partOf k) (bitsOf v 9 0) else s)

end Sys2Proof.Machine
end

