-- ==== Sys2Proof/Machine/Csr.lean ====
section
/-!
DEFINITION. System registers as `csr` sees them: their values, the checks on their writes, and what a write does (R225, R267, R323,
R352, R375, R397, R410, and the definition of each register).
-/

namespace Sys2Proof.Machine

/-! ### Shared writes -/

/-- The bits of a mask replaced; the others keep 0 (R4). -/
def keepBits (m : Nat) (v : DWord) : DWord := v &&& BitVec.ofNat 64 m

/-- Station system registers changed. -/
def Station.onSys (t : Station) (f : SysRegs → SysRegs) : Station := { t with sys := f t.sys }

/-- Trap registers changed. -/
def Station.onTrap (t : Station) (f : TrapRegs → TrapRegs) : Station := { t with trap := f t.trap }

/-- SSSTAT is written: OFF is set and the window is emptied (R76). -/
def ScaleUnit.putStat (u : ScaleUnit) (v : DWord) : ScaleUnit := { u with stat := keepBits (2 ^ 63) v, hist := [] }

/-- SSCFG is written: a change of MODE to 01 or 10 sets OFF (R76). -/
def ScaleUnit.putCfg (u : ScaleUnit) (v : DWord) : ScaleUnit :=
  let m := bitsOf v 1 0
  let u' := { u with cfg := keepBits 0xFFFF_FFFF_0003 v }
  if m = bitsOf u.cfg 1 0 ∨ m = 0 then u' else { u' with stat := putBit u.stat 63 (m == 2) }

/-- `SSSTAT_WRITE`: R76. -/
def execSsstatWrite (k : Stn) (u : Nat) (v : DWord) (s : State) : Res :=
  .next (s.onStn k fun t => t.setScaleUnit u ((t.scaleUnit u).putStat v))

/-- `SSCFG_WRITE`: R76. -/
def execSscfgWrite (k : Stn) (u : Nat) (v : DWord) (s : State) : Res :=
  .next (s.onStn k fun t => t.setScaleUnit u ((t.scaleUnit u).putCfg v))

/-- MIGFREE is written: OVF clears where bit 63 is set, and the page is pushed, or OVF set where the list is full (R117). -/
def Partition.pushFree (q : Partition) (v : DWord) : Partition :=
  let q := if bitOf v 63 then { q with migovf := false } else q
  if 64 ≤ q.migfree.length then { q with migovf := true } else { q with migfree := q.migfree ++ [bitsOf v 23 0] }

/-- `MIGFREE_PUSH`: R117. -/
def execMigfreePush (p : Nat) (v : DWord) (s : State) : Res := .next (s.onPart p fun q => q.pushFree v)

/-- A mailbox word after a write: EN, CLASS, DEPTH and BASE are the written ones; where DEPTH or BASE changes, HEAD and TAIL are 0
(R190). -/
def mbWritten (old v : DWord) : DWord :=
  let w := (old &&& BitVec.ofNat 64 0x79FF_00FF_FFF0_0000) ||| keepBits 0x8600_FF00_000F_FFFF v
  if bitsOf old 47 40 = bitsOf v 47 40 ∧ bitsOf old 19 0 = bitsOf v 19 0 then w else putBits w 35 20 0

/-- The mailbox that MBSEL selects (R190). -/
def Station.mailboxSel (t : Station) : Nat := bitsOf t.sys.mbsel 16 0

/-- A write of MBCFG passes the checks of R190, but for the level. -/
def State.mbcfgOk (s : State) (k : Stn) (v : DWord) : Bool :=
  let old := s.mailbox (s.stn k).mailboxSel
  let p := s.partOf k
  let first := bitsOf v 19 0 * 16384
  let last := first + (bitsOf v 47 40 + 1) * 64 - 1
  let ps := (s.part p).pstk
  decide (bitsOf old 62 59 = p) &&
    (bitsOf old 56 48 == 0 || (bitsOf old 47 40 == bitsOf v 47 40 && bitsOf old 19 0 == bitsOf v 19 0)) &&
    decide (bitsOf ps 17 0 ≤ first / 65536) && decide (last / 65536 ≤ bitsOf ps 49 32)

/-- `MBCFG_WRITE`: R190. -/
def execMbcfgWrite (k : Stn) (v : DWord) (s : State) : Res :=
  let m := (s.stn k).mailboxSel
  .next (s.setMailbox m (mbWritten (s.mailbox m) v))

/-- TDQ is written: with SET the slot takes COUNT, whole from now on (R192). -/
def State.tdqPut (s : State) (k : Stn) (v : DWord) : State :=
  let slot := bitsOf v 11 0
  let s := s.onStn k fun t => t.onSys fun y => { y with tdq := keepBits 0xFFF v }
  if bitOf v 63 then s.onPart (s.partOf k) fun q => { q with
    done := q.done.filter (·.1 != slot) ++ [(slot, BitVec.ofNat 16 (bitsOf v 27 12))]
    doneDue := q.doneDue.filter (·.2 != slot) }
  else s

/-- `TDQ_WRITE`: R192. -/
def execTdqWrite (k : Stn) (v : DWord) (s : State) : Res := .next (s.tdqPut k v)

/-- `TSKCUR_WRITE`: R193; RUN clears. -/
def execTskcurWrite (k : Stn) (v : DWord) (s : State) : Res :=
  .next (s.onStn k fun t => t.onSys fun y => { y with tskcur := keepBits 0x8000_0000_0000_0FFF v })

/-- HCFG is written: a change of K, NL or NRM1 leaves every heap row unpredictable (R314). -/
def Matrix.putHcfg (m : Matrix) (v : DWord) : Matrix :=
  let same := bitsOf m.hcfg 39 23 = bitsOf v 39 23
  { m with hcfg := keepBits 0xFFFF_FFFF_FF80_0000 v, heapFree := if same then m.heapFree else 0xFFFF_FFFF_FFFF_FFFF }

/-- `HCFG_WRITE`: R314. -/
def execHcfgWrite (k : Stn) (v : DWord) (s : State) : Res := .next (s.onStn k fun t => { t with mat := t.mat.putHcfg v })

/-! ### Values -/

/-- 64-bit word j of a wide value. -/
def dwordAt {n : Nat} (v : BitVec n) (j : Nat) : DWord := v.extractLsb' (64 * j) 64

/-- BAYST (R44). -/
def Station.bayst (t : Station) : DWord := BitVec.ofNat 64 (((List.range 16).map fun i => (t.bay i).st.code * 4 ^ i).sum)

/-- PRST (R201). -/
def Preempt.reg (p : Preempt) : DWord :=
  let st := match p.st with
    | .run => 0
    | .pending => 1
    | .hold => 2
    | .halted => 3
    | .saved => 4
    | .restore => 5
  BitVec.ofNat 64 (st * 2 ^ 61 + b2n p.full * 2 ^ 60 + b2n p.xd * 2 ^ 59 + b2n p.ovr * 2 ^ 58 + b2n p.mal * 2 ^ 57 + p.nit % 32 * 2 ^ 52 + p.frame % 2 ^ 32)

/-- CSTAT (R128). -/
def State.cstatReg (s : State) (k : Stn) (i : Nat) : DWord :=
  putBits (putBit (s.chan k i).cstat 55 (s.draining k i)) 4 0 (s.chan k i).cmds.length

/-- CFST, with the position of the parked command as it stands (R140). -/
def State.cfstReg (s : State) (k : Stn) (i : Nat) : DWord :=
  let c := s.chan k i
  let id := s.uops.findSome? fun u => match u.owner with
    | .copy j m => if u.k = k ∧ j = i ∧ u.parked = true then some m else none
    | _ => none
  match id.bind fun m => c.cmds.find? (·.id == m) with
  | some m => if bitOf c.cfst 63 then putBits c.cfst 39 0 m.prefixLen else c.cfst
  | none => c.cfst

/-- TSREG0 of a shadow (R381). -/
def Shadow.reg0 (h : Shadow) : DWord :=
  BitVec.ofNat 64 (b2n h.idle * 2 ^ 63 + b2n h.rptv * 2 ^ 62 + h.rpti % 512 * 2 ^ 53 + h.pc % 1024 * 2 ^ 40 + h.stamp % 2 ^ 40)

/-- TSREG1 or TSREG2 (R381). -/
def Loop.reg (l : Loop) : DWord := BitVec.ofNat 64 (b2n l.skip * 2 ^ 63 + l.st % 1024 * 2 ^ 42 + l.en % 1024 * 2 ^ 32 + l.ct % 2 ^ 32)

/-- A loop from its register. -/
def loopFrom (v : DWord) : Loop := ⟨bitsOf v 51 42, bitsOf v 41 32, bitsOf v 31 0, bitOf v 63⟩

/-- The index of the shadow that TSSEL selects. -/
def TrapRegs.sel (r : TrapRegs) : Fin 7 := ⟨(bitsOf r.tssel 2 0 + 6) % 7, Nat.mod_lt _ (by decide)⟩

/-- The shadow that TSSEL selects. -/
def TrapRegs.shadow (r : TrapRegs) : Shadow := r.shadows[r.sel.val]

/-- The selected shadow changed. -/
def TrapRegs.onShadow (r : TrapRegs) (f : Shadow → Shadow) : TrapRegs := { r with shadows := r.shadows.set r.sel.val (f r.shadow) }

/-- Registers 0x000 to 0x01F. -/
def State.csrLow (s : State) (k : Stn) (n : Nat) : Option DWord :=
  let t := s.stn k
  let y := t.sys
  match n with
  | 0x00 => some (BitVec.ofNat 64 s.cyc)
  | 0x01 => some (BitVec.ofNat 64 (s.frameOf (s.nom k)))
  | 0x02 => some (BitVec.ofNat 64 (t.run.lag % 2 ^ 40))
  | 0x03 => some y.lagcfg
  | 0x04 => some (BitVec.ofNat 64 (clusterOf k * 128 + localOf k))
  | 0x05 => some y.teamid
  | 0x06 => some y.ctxid
  | 0x07 => some (BitVec.ofNat 64 s.nodeId)
  | 0x08 => some t.trap.tcause
  | 0x09 => some t.trap.tstate
  | 0x0A => some t.trap.tpc
  | 0x0B => some y.stale
  | 0x0C => some y.budget
  | 0x0D => some y.fflags
  | 0x0E => some t.bayst
  | 0x0F => some y.blane
  | 0x10 => some y.voidst
  | 0x11 => some t.regs.hs
  | 0x12 => some t.regs.hsovf
  | 0x13 => some y.codecfg
  | 0x14 => some y.ftst
  | 0x15 => some y.tskcur
  | 0x16 => some y.tskpre0
  | 0x17 => some y.tskpre1
  | 0x18 => some y.banksel
  | 0x19 => some y.sbst
  | 0x1A => some y.mancfg
  | 0x1B => some t.pre.reg
  | 0x1C => some y.savcfg
  | 0x1D => some 0
  | 0x1E => some y.pinobj
  | 0x1F => some y.pinctl
  | _ => none

/-- Registers 0x020 to 0x08F. -/
def State.csrMid (s : State) (k : Stn) (n : Nat) : Option DWord :=
  let t := s.stn k
  if n < 0x28 then some (t.scaleUnit (n - 0x20)).cfg
  else if n < 0x30 then some (t.scaleUnit (n - 0x28)).stat
  else if n < 0x32 then some (t.chan (n - 0x30)).wp
  else if n < 0x34 then some (t.chan (n - 0x32)).end_
  else if n < 0x36 then some (s.cstatReg k (n - 0x34))
  else if n < 0x38 then some (s.cfstReg k (n - 0x36))
  else if n < 0x40 then none
  else if n < 0x48 then some (t.bitmap (n - 0x40)).obj
  else if n < 0x50 then some (t.bitmap (n - 0x48)).cfg
  else if n < 0x70 then some (dwordAt (t.bitmap ((n - 0x50) / 4)).read (n % 4))
  else match n with
  | 0x70 => some t.sys.wbblk
  | 0x71 => some t.sys.slksel
  | 0x72 => some t.sys.tagin
  | 0x74 => some (t.mat.fa.pos.zeroExtend 64)
  | 0x75 => some (t.mat.fb.pos.zeroExtend 64)
  | _ => if 0x80 ≤ n then some (t.sys.rowmap[n % 16]'(Nat.mod_lt _ (by decide))) else none

/-- PREREQ: GO reads 1 while a station of the team is PENDING or HOLD (R201). -/
def State.prereqReg (s : State) (p : Nat) : DWord :=
  putBit s.pkg.prereq 63 ((s.team p (bitsOf s.pkg.prereq 9 0)).any fun j => (s.stn j).pre.st == .pending || (s.stn j).pre.st == .hold)

/-- Registers 0x100 to 0x2FF. -/
def State.csrUnit (s : State) (k : Stn) (n : Nat) : Option DWord :=
  let t := s.stn k
  let p := s.partOf k
  let q := s.part p
  let g := s.pkg.ring
  match n with
  | 0x100 => some g.ringcfg
  | 0x101 => some g.rmodel
  | 0x102 => some g.lines[0].cfg
  | 0x103 => some g.lines[1].cfg
  | 0x104 => some g.lines[0].src
  | 0x105 => some g.lines[1].src
  | 0x108 => some q.otcfg
  | 0x109 => some q.pstk
  | 0x10A => some g.stkcirc
  | 0x10B => some q.plseed
  | 0x10C => some q.plctl
  | 0x10D => some q.migcfg
  | 0x10E => some (BitVec.ofNat 64 (b2n q.migovf * 2 ^ 63 + q.migfree.length * 2 ^ 32))
  | 0x10F => some (putBit 0 62 (!q.otbusy.isEmpty))
  | 0x110 => some 0
  | 0x111 => some q.stgobj
  | 0x112 => some t.sys.mbsel
  | 0x113 => some (s.mailbox t.mailboxSel)
  | 0x114 => some (BitVec.ofNat 64 (bitsOf t.sys.tdq 11 0 + (q.doneCount (bitsOf t.sys.tdq 11 0)).toNat * 2 ^ 12))
  | 0x115 => some (s.prereqReg p)
  | _ =>
    if 0x120 ≤ n ∧ n < 0x128 then some (s.tag (BitVec.ofNat 3 n)).ctl
    else if 0x128 ≤ n ∧ n < 0x158 then some (dwordAt (s.tag (BitVec.ofNat 3 ((n - 0x128) / 6))).mask ((n - 0x128) % 6))
    else if 0x180 ≤ n ∧ n < 0x1C0 then some (s.btc (n - 0x180)).ctl
    else if 0x200 ≤ n ∧ n < 0x280 then some (dwordAt (s.btc ((n - 0x200) / 2)).head.bits (n % 2))
    else none

/-- The counter that PMSEL selects (R403). -/
def Partition.pmSel (q : Partition) : Fin 8 := ⟨bitsOf q.pmsel 2 0, by unfold bitsOf; exact Nat.mod_lt _ (by decide)⟩

/-- RINGMGR (R407). -/
def Ring.managerReg (g : Ring) : DWord :=
  match g.manager with
  | some p => BitVec.ofNat 64 (2 ^ 63 + p % 16)
  | none => 0

/-- Registers 0x300 to 0x5FF. -/
def State.csrLater (s : State) (k : Stn) (n : Nat) : Option DWord :=
  let m := (s.stn k).mat
  let q := s.part (s.partOf k)
  match n with
  | 0x300 => some q.smpcfg
  | 0x301 => some q.tlcfg
  | 0x302 => some q.tlhead
  | 0x303 => some q.tltail
  | 0x304 => some q.pmsel
  | 0x305 => some q.pm[q.pmSel].1
  | 0x306 => some q.pm[q.pmSel].2
  | 0x310 => some s.pkg.ring.managerReg
  | 0x311 => some s.pkg.svc.power
  | 0x400 => some m.hcfg
  | 0x401 => some m.hscl
  | 0x402 => some m.mxfmt
  | 0x404 => some m.maps[0].reg
  | 0x405 => some m.maps[1].reg
  | 0x406 => some m.maps[2].reg
  | 0x407 => some m.maps[3].reg
  | 0x408 => some (m.fa.con.zeroExtend 64)
  | 0x409 => some (m.fb.con.zeroExtend 64)
  | 0x500 => some s.pkg.fab.fabto
  | 0x501 => some s.pkg.fab.fplane
  | 0x520 => some s.pkg.hostl.hwin
  | 0x521 => some s.pkg.hostl.hwerr
  | 0x522 => some q.mberr
  | _ =>
    if 0x510 ≤ n ∧ n < 0x518 then some (q.fscale[n % 8]'(Nat.mod_lt _ (by decide))).cfg
    else if 0x518 ≤ n ∧ n < 0x520 then some (q.fscale[n % 8]'(Nat.mod_lt _ (by decide))).stat
    else none

/-- Registers 0x600 to 0x6FF. -/
def State.csrTrap (s : State) (k : Stn) (n : Nat) : Option DWord :=
  let r := (s.stn k).trap
  let q := s.part (s.partOf k)
  match n with
  | 0x600 => some r.tframe
  | 0x601 => some r.tssel
  | 0x602 => some r.shadow.reg0
  | 0x603 => some r.shadow.loops[0].reg
  | 0x604 => some r.shadow.loops[1].reg
  | 0x605 => some (BitVec.ofNat 64 r.tnom)
  | 0x606 => some r.tvec
  | 0x607 => some q.fqcfg
  | 0x608 => some q.fqhead
  | 0x609 => some q.fqtail
  | 0x60A => some s.pkg.rbreq
  | 0x60B => some r.rpcfg
  | 0x60C => some r.rpst
  | 0x60D => some r.exlcfg
  | 0x60E => some r.exlst
  | 0x60F => some r.eccst
  | _ => none

/-- The value of a system register, or none for a number that is not assigned (R225). -/
def State.csrRead (s : State) (k : Stn) (n : Nat) : Option DWord :=
  if n < 0x20 then s.csrLow k n
  else if n < 0x90 then s.csrMid k n
  else if n < 0x300 then s.csrUnit k n
  else if n < 0x600 then s.csrLater k n
  else s.csrTrap k n

/-! ### Checks on writes -/

/-- Registers that a program may write at any level. -/
def anyLevel (n : Nat) : Bool :=
  [0x00B, 0x00D, 0x00F, 0x010, 0x012, 0x014, 0x303, 0x400, 0x401, 0x521].contains n || (decide (0x20 ≤ n) && decide (n < 0x30)) ||
    (decide (0x510 ≤ n) && decide (n < 0x520))

/-- Registers that only resident-level code writes. -/
def residentOnly (n : Nat) : Bool :=
  [0x003, 0x005, 0x006, 0x00C, 0x011, 0x013, 0x015, 0x016, 0x017, 0x018, 0x019, 0x01A, 0x01C, 0x01D, 0x01E, 0x01F, 0x036, 0x037, 0x10D,
    0x10E, 0x10F, 0x110, 0x111, 0x112, 0x113, 0x114, 0x115, 0x300, 0x301, 0x304, 0x305, 0x306, 0x500, 0x522, 0x601, 0x602, 0x603,
    0x604, 0x606, 0x607, 0x608, 0x609, 0x60A, 0x60B, 0x60D].contains n || (decide (0x200 ≤ n) && decide (n < 0x280))

/-- A team number that only another partition uses (R201, R392). -/
def State.foreignTeam (s : State) (p t : Nat) : Bool :=
  !s.teamIn p t && allStns.any fun k => (s.stn k).run.on && (s.stn k).run.part != p && s.teamOf k == some t

/-- The value of a write passes the check of its register's definition. -/
def State.csrValueOk (s : State) (k : Stn) (n : Nat) (v : DWord) : Bool :=
  let t := s.stn k
  let p := s.partOf k
  let ps := (s.part p).pstk
  match n with
  | 0x00F => decide (4 ≤ bitsOf v 4 0) && decide (bitsOf v 4 0 ≤ 15) && decide (20 ≤ bitsOf v 9 5)
  | 0x01C => ringInPstk ps (bitsOf v 12 0 * 32) (2 ^ 21)
  | 0x01D => t.pre.st == .saved || (t.pre.st == .run && !bitOf t.sys.tskcur 62)
  | 0x113 => s.mbcfgOk k v
  | 0x115 => !s.foreignTeam p (bitsOf v 9 0)
  | 0x300 => !(decide (1 ≤ bitsOf v 31 0) && decide (bitsOf v 31 0 ≤ 255))
  | 0x301 => decide (bitsOf v 59 56 ≤ 12) && ringInPstk ps (bitsOf v 17 0) (2 ^ (bitsOf v 59 56 + 13))
  | 0x305 => decide (bitsOf v 7 0 ≤ 0x13)
  | 0x601 => bitsOf v 2 0 != 0
  | 0x607 => decide (bitsOf v 59 56 ≤ 10) && ringInPstk ps (bitsOf v 17 0) (2 ^ (bitsOf v 59 56 + 11))
  | 0x60A => !s.foreignTeam p (bitsOf v 9 0)
  | 0x60B => bitsOf v 47 32 != 0 && ringInPstk ps (bitsOf v 25 13 * 32) (2 ^ 21) && ringInPstk ps (bitsOf v 12 0 * 32) (2 ^ 21)
  | 0x60D => decide (12 ≤ bitsOf v 56 52) && decide (bitsOf v 56 52 ≤ 20) && (let n := 2 ^ (bitsOf v 56 52 + 5); ringInPstk ps (bitsOf v 17 0 * 65536 / n * n / 65536) n)
  | _ =>
    if (0x20 ≤ n ∧ n < 0x28) ∨ (0x510 ≤ n ∧ n < 0x518) then bitsOf v 1 0 != 3
    else if 0x200 ≤ n ∧ n < 0x280 then decide ((s.btc ((n - 0x200) / 2)).part = p)
    else true

/-- A `csr` write is allowed: the level, and then the value (R234, R267). -/
def State.csrMay (s : State) (k : Stn) (n : Nat) (v : DWord) : Bool :=
  (anyLevel n || (residentOnly n && (s.stn k).run.level == .resident)) && s.csrValueOk k n v

/-! ### Effects of writes -/

/-- Writes of registers 0x000 to 0x01F. -/
def State.csrPutLow (s : State) (k : Stn) (n : Nat) (v : DWord) : State :=
  let on := fun (f : SysRegs → SysRegs) => s.onStn k fun t => t.onSys f
  match n with
  | 0x03 => on fun y => { y with lagcfg := keepBits 0xFFFF v }
  | 0x05 => on fun y => { y with teamid := keepBits 0x8000_0000_0000_03FF v }
  | 0x06 => on fun y => { y with ctxid := keepBits 0xFFFF v }
  | 0x0B => on fun y => { y with stale := if bitOf v 63 then 0 else y.stale }
  | 0x0C => on fun y => { y with budget := putBit (keepBits 0x4000_FFFF_FFFF_FFFF v) 63 (bitOf y.budget 63 && !bitOf v 63) }
  | 0x0D => on fun y => { y with fflags := y.fflags &&& ~~~v }
  | 0x0F => on fun y => { y with blane := keepBits 0x3FF v }
  | 0x10 => on fun y => { y with voidst := if bitOf v 63 then 0 else y.voidst }
  | 0x11 => s.onStn k fun t => { t with regs := { t.regs with hs := v } }
  | 0x12 => s.onStn k fun t => { t with regs := { t.regs with hsovf := t.regs.hsovf &&& ~~~v } }
  | 0x13 => on fun y => { y with codecfg := keepBits 0xFFFF_0000_000F_FFF8 v }
  | 0x14 => on fun y => { y with ftst := if bitOf v 63 then putBit y.ftst 63 false else y.ftst }
  | 0x15 => on fun y => { y with tskcur := keepBits 0x8000_0000_0000_0FFF v }
  | 0x16 => on fun y => { y with tskpre0 := keepBits 0x8FFF_FFFF_8FFF_FFFF v }
  | 0x17 => on fun y => { y with tskpre1 := keepBits 0x8FFF_FFFF_8FFF_FFFF v }
  | 0x18 => on fun y => { y with banksel := keepBits 3 v }
  | 0x19 => on fun y => { y with sbst := keepBits 0xC000_0000_0000_0FFF v }
  | 0x1A => on fun y => { y with mancfg := keepBits 0xF_FFF8 v }
  | 0x1C => on fun y => { y with savcfg := keepBits 0x1FFF v }
  | 0x1D => if bitOf v 63 then s.startRestore k v else s
  | 0x1E => on fun y => { y with pinobj := keepBits 0x3FFF_FFFF_FFFF v }
  | _ => s.pinWrite k v

/-- Writes of the units' registers 0x100 to 0x2FF. -/
def State.csrPutUnit (s : State) (k : Stn) (n : Nat) (v : DWord) : State :=
  let p := s.partOf k
  match n with
  | 0x10D => s.onPart p fun q => { q with migcfg := keepBits 0x803F_FFFF_0000_FFFF v }
  | 0x10E => s.onPart p fun q => q.pushFree v
  | 0x10F => s.invalidate p v
  | 0x110 => if v = 1 then s.retryParked p else s
  | 0x111 => s.onPart p fun q => { q with stgobj := keepBits 0x8000_0000_003F_FFFF v }
  | 0x112 => s.onStn k fun t => t.onSys fun y => { y with mbsel := keepBits 0x1_FFFF v }
  | 0x113 => let m := (s.stn k).mailboxSel; s.setMailbox m (mbWritten (s.mailbox m) v)
  | 0x114 => s.tdqPut k v
  | 0x115 =>
    let s := { s with pkg := { s.pkg with prereq := BitVec.ofNat 64 (bitsOf v 9 0) } }
    if bitOf v 63 then s.requestPreempt p (bitsOf v 9 0) false else s
  | _ =>
    let ch := (n - 0x200) / 2
    if n % 2 = 1 then s.onBt ch fun b => { b with latch := v } else s.onBt ch fun b => b.writeHead ⟨b.latch ++ v, true⟩

/-- Writes of registers 0x300 to 0x5FF. -/
def State.csrPutLater (s : State) (k : Stn) (n : Nat) (v : DWord) : State :=
  let on := fun (f : Partition → Partition) => s.onPart (s.partOf k) f
  match n with
  | 0x300 => on fun q => { q with smpcfg := keepBits 0xF800_0007_FFFF_FFFF v }
  | 0x301 => on fun q => { q with tlcfg := keepBits 0x8F00_0000_0003_FFFF v }
  | 0x303 => on fun q => { q with tltail := keepBits 0x1F_FFFF v }
  | 0x304 => on fun q => { q with pmsel := keepBits 7 v }
  | 0x305 => on fun (q : Partition) => { q with pm := q.pm.set q.pmSel (keepBits 0x8000_0000_0000_00FF v, q.pm[q.pmSel].2) }
  | 0x306 => on fun (q : Partition) => { q with pm := q.pm.set q.pmSel (q.pm[q.pmSel].1, keepBits 0xFFFF_FFFF_FFFF v) }
  | 0x400 => s.onStn k fun t => { t with mat := t.mat.putHcfg v }
  | 0x401 => s.onStn k fun t => { t with mat := { t.mat with hscl := keepBits 0xFFFF_FFFF v } }
  | 0x402 => s.onStn k fun t => { t with mat := { t.mat with mxfmt := v } }
  | 0x500 => s.onFab fun f => { f with fabto := keepBits 0xFFFF_FFFF v }
  | 0x521 => s.onHost fun h => { h with hwerr := if bitOf v 63 then h.hwerr &&& 0x7000_0000_0000_0000#64 else h.hwerr }
  | 0x522 => on fun q =>
    let m := if bitOf v 31 then putBits q.mberr 31 0 0 else q.mberr
    { q with mberr := if bitOf v 63 then putBits m 63 32 0 else m }
  | _ =>
    let i := n % 8
    let f := fun (u : ScaleUnit) => if n < 0x518 then u.putCfg v else u.putStat v
    on fun q => { q with fscale := q.fscale.set i (f (q.fscale[i]'(Nat.mod_lt _ (by decide)))) (Nat.mod_lt _ (by decide)) }

/-- Writes of registers 0x600 to 0x6FF. -/
def State.csrPutTrap (s : State) (k : Stn) (n : Nat) (v : DWord) : State :=
  let p := s.partOf k
  let on := fun (f : TrapRegs → TrapRegs) => s.onStn k fun t => t.onTrap f
  let queue := fun (f : Partition → Partition) => s.onPart p f
  match n with
  | 0x601 => on fun r => { r with tssel := keepBits 7 v }
  | 0x602 => on fun r => r.onShadow fun h => { h with idle := bitOf v 63, rptv := bitOf v 62, rpti := bitsOf v 61 53, pc := bitsOf v 49 40, stamp := bitsOf v 39 0 }
  | 0x603 => on fun r => r.onShadow fun h => { h with loops := h.loops.set 0 (loopFrom v) }
  | 0x604 => on fun r => r.onShadow fun h => { h with loops := h.loops.set 1 (loopFrom v) }
  | 0x606 => on fun r => { r with tvec := keepBits 0x8000_FFFF_0000_0000 v }
  | 0x607 => queue fun q => { q with fqcfg := keepBits 0x8F00_7FC0_0003_FFFF v }
  | 0x608 => queue fun q => { q with fqhead := if bitOf v 63 then putBit q.fqhead 63 false else q.fqhead }
  | 0x609 => queue fun q => { q with fqtail := keepBits 0x1_FFFF v }
  | 0x60A =>
    let s := { s with pkg := { s.pkg with rbreq := BitVec.ofNat 64 (bitsOf v 9 0) } }
    if bitOf v 63 then s.requestRollback p (bitsOf v 9 0) else s
  | 0x60B => on fun r => { r with rpcfg := keepBits 0x8000_FFFF_03FF_FFFF v }
  | 0x60D => on fun r => { r with exlcfg := keepBits 0x81F0_0000_0003_FFFF v }
  | _ => s

/-- A write of a system register takes effect (R225, R267). -/
def State.csrWrite (s : State) (k : Stn) (n : Nat) (v : DWord) : State :=
  if n < 0x20 then s.csrPutLow k n v
  else if n < 0x28 then s.onStn k fun t => t.setScaleUnit (n - 0x20) ((t.scaleUnit (n - 0x20)).putCfg v)
  else if n < 0x30 then s.onStn k fun t => t.setScaleUnit (n - 0x28) ((t.scaleUnit (n - 0x28)).putStat v)
  else if n < 0x100 then (if bitOf v 63 then s.resumeCopy k (n - 0x36) else s)
  else if n < 0x300 then s.csrPutUnit k n v
  else if n < 0x600 then s.csrPutLater k n v
  else s.csrPutTrap k n v

/-! ### The instruction -/

/-- `csr`: R225, R234, R267. A read gives the value of the issue cycle; a write takes effect in the next cycle. -/
def execCsr (d : BitVec 5) (o : BitVec 2) (n : BitVec 12) (s : State) : Res :=
  let k := s.cur.k
  let old := s.rs d
  .next (match s.csrRead k n.toNat with
    | none => s.illOperand
    | some v =>
      if o = 0 then s.putS d v 1
      else s.need (s.csrMay k n.toNat old = true)
        ((if o = 2 then s.putS d v 1 else s).after 1 (.csr n.toNat old)))

end Sys2Proof.Machine
end

