-- ==== Sys2Proof/Machine/Repeat.lean ====
section
/-!
DEFINITION. The repeat prefix: its checks, its iterations and their bookkeeping (R222 to R224).
-/

namespace Sys2Proof.Machine

/-- A stridable field of an instruction word: its lowest bit, its width and the size of the register file it names (R222, R223). -/
structure Role where
  lo : Nat
  width : Nat
  size : Nat

/-- The fields D, A and B of an instruction, each where the instruction uses it as a register number (R222, R223). -/
structure Roles where
  d : Option Role
  a : Option Role
  b : Option Role

/-- A field used as a register number when a condition holds. -/
def roleIf (c : Bool) (lo width size : Nat) : Option Role := if c then some ⟨lo, width, size⟩ else none

/-- Fields of a conductor word: scalar, capability or bay numbers (R218, R236 to R271). -/
def rolesConductor (op : Nat) (w : Word) : Roles :=
  let n := w.toNat
  let x := n % 16
  let alu := decide (op ≤ 0x1A)
  let d16 := [0x42, 0x46, 0x47, 0x49, 0x4A, 0x5B, 0x64].contains op
  let d32 := alu || (decide (0x20 ≤ op) && decide (op ≤ 0x28)) || [0x43, 0x4B, 0x60].contains op || op == 0x58 && x == 4 ||
    op == 0x59 && x == 2
  let a16 := [0x43, 0x46, 0x47, 0x48, 0x49, 0x4A, 0x4B, 0x66].contains op
  let a32 := alu || (decide (0x20 ≤ op) && decide (op ≤ 0x26)) || [0x53, 0x58, 0x59, 0x5C, 0x64].contains op
  let b32 := alu && op != 0x15 && op != 0x16 || [0x43, 0x46, 0x47, 0x48, 0x4A, 0x66].contains op || op == 0x49 && decide (x < 3) ||
    op == 0x58 && (x == 0 || x == 3) || op == 0x59 && x == 0
  { d := if op = 0x40 ∨ op = 0x41 then some ⟨14, 5, if n / 128 % 8 = 7 then 16 else 32⟩
         else if d16 then some ⟨14, 5, 16⟩ else roleIf d32 14 5 32
    a := if a16 then some ⟨9, 5, 16⟩ else roleIf a32 9 5 32
    b := if op = 0x5C then some ⟨4, 5, 16⟩ else roleIf b32 4 5 32 }

/-- Fields of a vector word: vector registers, predicates, or none (R219, R272 to R297). -/
def rolesVector (op : Nat) (w : Word) (ks : List Word) : Roles :=
  if 0x12 ≤ op ∧ op ≤ 0x15 then ⟨some ⟨16, 3, 8⟩, some ⟨13, 3, 8⟩, roleIf (op != 0x15) 10 3 8⟩
  else if 0x40 ≤ op ∧ op ≤ 0x43 ∨ op = 0x61 then ⟨some ⟨13, 6, 64⟩, none, none⟩
  else
    let ext := if w.toNat % 2 = 1 then (ks.getLast?.map fun k => k.toNat / 2 ^ 20 % 4).getD 0 else 0
    let b := [0x00, 0x01, 0x02, 0x03, 0x04, 0x05, 0x06, 0x09, 0x0A, 0x0B, 0x0C, 0x0D, 0x0E, 0x10, 0x11, 0x23, 0x32, 0x33, 0x35, 0x50,
      0x51, 0x52, 0x62].contains op || op == 0x30 && ext != 2 || op == 0x36 && decide (ext < 2)
    ⟨roleIf (op != 0x63) 13 6 (if op = 0x10 then 8 else 64), roleIf (op != 0x64) 7 6 64, roleIf b 1 6 64⟩

/-- Fields of a matrix word: T names a tile, U a predicate (R219, R222, R300 to R322). -/
def rolesMatrix (op : Nat) : Roles :=
  ⟨roleIf ([1, 2, 3, 4, 5, 6, 7, 8, 9].contains op) 16 3 8, roleIf ([1, 2, 3, 4, 8, 9].contains op) 13 3 8, none⟩

/-- The stridable fields that an instruction word uses as register numbers; the formats of the copy, tap and fabric streams have
none (R219, R223). -/
def rolesOf (sp : Space) (w : Word) (ks : List Word) : Roles :=
  let op := w.toNat / 2 ^ 19 % 256
  match sp with
  | .conductor => rolesConductor op w
  | .vector => rolesVector op w ks
  | .matrix => rolesMatrix op
  | .copy => ⟨none, none, none⟩
  | .tap => ⟨none, none, none⟩
  | .fabric => ⟨none, none, none⟩

/-- The stride check on one field over n iterations (R223). -/
def strideOk (n : Nat) (st : BitVec 3) (w : Word) (f : Option Role) : Bool :=
  st == 0 || match f with
    | none => false
    | some r =>
      let last : Int := (w.toNat / 2 ^ r.lo % 2 ^ r.width : Nat) + ((n : Int) - 1) * st.toInt
      decide (0 ≤ last) && decide (last < r.size)

/-- The word with a field moved i strides on (R223). -/
def strideWord (i : Nat) (st : BitVec 3) (f : Option Role) (w : Word) : Word :=
  match f with
  | none => w
  | some r =>
    let v := w.toNat / 2 ^ r.lo % 2 ^ r.width
    let v' := ((v : Int) + i * st.toInt).toNat % 2 ^ r.width
    BitVec.ofNat 32 (w.toNat - v * 2 ^ r.lo + v' * 2 ^ r.lo)

/-- The iterations that the prefix at a stream's program counter asks for. -/
def State.repN (s : State) (k : Stn) (e : Engine) (pc : Nat) : Nat := (s.ringWord k e pc).1.toNat / 2 ^ 10 % 512

/-- The continuation words of the instruction that a prefix at pc stands before. -/
def State.repExts (s : State) (k : Stn) (e : Engine) (pc : Nat) : List Word := contWords (s.wordsAt k e (pc + 2))

/-- The stride checks of the prefix at pc over n iterations (R223). -/
def State.stridesOk (s : State) (k : Stn) (e : Engine) (pc n : Nat) (d a b : BitVec 3) : Bool :=
  let w := (s.ringWord k e (pc + 1)).1
  let r := rolesOf e.space w (s.repExts k e pc)
  strideOk n d w r.d && strideOk n a w r.a && strideOk n b w r.b

/-- `rpt`: R223, R224. Its decode checks have passed; with N = 0 the instruction only consumes its stamp, and no stride is checked.
Otherwise the strides are checked and the first iteration is released in this cycle. -/
def execRpt (_p : BitVec 5) (n : BitVec 9) (d a b : BitVec 3) (s : State) : Res :=
  let c := s.cur
  .next (if n = 0 then s
    else
      let s := { s with cur := { c with rpti := some 0 } }
      s.need (s.stridesOk c.k c.e c.pc n.toNat d a b = true)
        { s with stay := true, todo := .ev (.repeatIteration c.k c.e) :: s.todo })

/-- The next iteration of the repeat at a stream's program counter, decoded (R223). -/
def State.iteration (s : State) (k : Stn) (e : Engine) : Except DecErr Decoded :=
  let x := (s.stn k).stream e
  let p := (s.ringWord k e x.pc).1.toNat
  let w := (s.ringWord k e (x.pc + 1)).1
  let ks := s.repExts k e x.pc
  let r := rolesOf e.space w ks
  let i := x.rep.getD 0
  let w' := strideWord i (fld (wordOf p) 7 3) r.d (strideWord i (fld (wordOf p) 4 3) r.a (strideWord i (fld (wordOf p) 1 3) r.b w))
  decodeFields e.space x.first w' ks

/-- `cur` names the next iteration of the repeat at a stream's program counter (R223). -/
def State.beginIteration (s : State) (k : Stn) (e : Engine) : State :=
  let x := (s.stn k).stream e
  let p := (s.ringWord k e x.pc).1.toNat
  let stamp := x.stamp + if x.rep.isSome then p / 2 ^ 27 else gapAt (s.wordsAt k e x.pc)
  { s with cur := ⟨k, e, stamp, x.pc, 2 + (s.repExts k e x.pc).length, some (x.rep.getD 0)⟩, jump := none, stay := false }

/-- `REPEAT_ITERATION`: R223, R224. The next iteration of the repeat at the stream's program counter is named in `cur` and left to be
performed; one whose stepped fields are reserved traps at its iteration. -/
def execRepeatIteration (k : Stn) (e : Engine) (s : State) : Res :=
  let t := s.beginIteration k e
  .next (match s.iteration k e with
    | .error _ => t.illInstr 2
    | .ok d => { t with todo := .ev d.instr :: .finish k e :: t.todo })

/-- The stream after an iteration that completed: the next iteration is due one period later, or the stream advances past the
prefixed instruction (R223). -/
def State.finishIteration (s : State) : State :=
  let c := s.cur
  let i := c.rpti.getD 0
  if s.stay then s
  else if i + 1 < s.repN c.k c.e c.pc then
    s.onStn c.k fun t => t.setStream c.e { t.stream c.e with rep := some (i + 1), stamp := c.stamp, lastPc := c.pc, lastStamp := c.stamp }
  else (s.advance c.k c.e c.pc c.len c.stamp none).gapZero c.k c.e

end Sys2Proof.Machine
end

