-- ==== Sys2Proof/Machine/Results.lean ====
section
/-!
DEFINITION. Results of pipelined instructions that have become due, and the lines that the fetch unit reads (R167, R213, R214, R233,
R273, R295, R297, R307).
-/

namespace Sys2Proof.Machine

/-! ### Results -/

/-- What a trap of a vector result due now identifies: the instruction that issued in the nominal cycle before (R377). -/
def State.lastAt (s : State) (k : Stn) (e : Engine) (iss : Nat) : TrapAt :=
  let t := s.stn k
  let x := t.stream e
  let w := (s.ringWord k e x.lastPc).1.toNat
  ⟨e.code, iss - t.run.base, x.lastPc, if w / 2 ^ 19 % 256 = 0xFF then some (x.rep.getD (s.repN k e x.lastPc) - 1) else none⟩

/-- A routing counter raised by one, saturating (R295). -/
def Matrix.raiseCounter (m : Matrix) (i : Nat) : Matrix :=
  let j : Fin 64 := ⟨i % 64, Nat.mod_lt _ (by decide)⟩
  let c := m.counters[j]
  { m with counters := m.counters.set j (if c = 0xFFFF_FFFF then c else c + 1) }

/-- A result takes effect (R233, R273, R297, R307). -/
def State.apply (s : State) (k : Stn) (p : Pend) : State :=
  let on := fun (f : Station → Station) => s.onStn k f
  match p.eff with
  | .sreg d v => on fun t => t.setSreg d v
  | .creg d c => on fun t => t.setCreg d c
  | .csr n v => s.csrWrite k n v
  | .vreg d m v => on fun t => t.setVreg d (merge (t.vreg d) m v)
  | .qreg d m v => on fun t => t.setQreg d (merge (t.qreg d) m v)
  | .flags f => on fun t => t.setFlags f
  | .push b d =>
    if (s.stn k).fifoFull b then s.lateTrap k 0x05 2 (s.lastAt k .vector p.iss)
    else on fun t => t.setFifo b ((t.fifo b).append (FifoLine.plain d false))
  | .pop b d => match ((s.stn k).fifo b).lines with
    | [] => s.lateTrap k 0x05 2 (s.lastAt k .vector p.iss)
    | l :: _ =>
      let s := s.onStn k fun t => (t.consume b 1).later (p.due + 1) p.iss p.eng (.vreg d (BitVec.allOnes 2048) l.data)
      if l.poison then s.machineCheck k 1 else s
  | .counts ids => on fun t => { t with mat := ids.foldl Matrix.raiseCounter t.mat }
  | .zeroRows i q => on fun t => t.setTile i ((t.tile i).mapRows fun r x => if q.getLsbD r then Vector.replicate 128 none else x)
  | .setRow i r int ws => on fun t => t.setTile i ((t.tile i).mapRows fun r' x =>
      if r' = r then x.mapElems fun c _ => closed int (ws.getD c 0) else x)
  | .setElem i r c e => on fun t => t.setTile i ((t.tile i).mapRows fun r' x =>
      if r' = r then x.mapElems fun c' y => if c' = c then e else y else x)
  | .heap off bs => on fun t => { t with mat := t.mat.pokeHeap off bs }
  | .raise n => on fun t => t.raise n
  | .tapWrite .. => s
  | .tapFifo .. => s
  | .tapDrive .. => s

/-- An effect that the lane tap makes itself, at its own place in the cycle (R336, R338). -/
def Eff.ofTap : Eff → Bool
  | .tapWrite .. => true
  | .tapFifo .. => true
  | .tapDrive .. => true
  | _ => false

/-- Increments of the routing counters, which follow the reads of their cycle (R269, R295). -/
def Eff.counts_ : Eff → Bool
  | .counts _ => true
  | _ => false

/-- Some result of a station that a test picks is due. -/
def State.resultDue (s : State) (k : Stn) (mine : Pend → Bool) : Bool :=
  (s.stn k).pend.any fun p => decide (p.due ≤ s.workNom k) && mine p && !p.eff.ofTap

/-- A result of some engine, and not an increment of counters. -/
def Pend.of (mine : Nat → Bool) (p : Pend) : Bool := mine p.eng && !p.eff.counts_

/-- Two results of different engines are for one capability register (R21). -/
def Pend.clash (p q : Pend) : Bool := p.eng != q.eng && match p.eff, q.eff with
  | .creg d _, .creg e _ => d == e
  | _, _ => false

/-- The results of a list that write no capability register which another engine's result in it writes too. Where there are others, none of
them takes effect, and the station takes a capability violation on the lower engine of them (R21). -/
def State.dropClashes (s : State) (k : Stn) (ps : List Pend) : List Pend × State :=
  let bad := ps.filter fun p => ps.any p.clash
  let low := (bad.map (·.eng)).foldl min 7
  (ps.filter fun p => !ps.any p.clash, match bad.find? (·.eng == low), Engine.all.find? (·.code == low) with
    | some p, some e => s.lateTrap k 0x03 0xC (s.lastAt k e p.iss)
    | _, _ => s)

/-- The results of some engines that are due take effect in the order in which their instructions issued (R21, R233, R273). -/
def State.applyDue (s : State) (k : Stn) (mine : Pend → Bool) : State :=
  let now := s.workNom k
  let due := fun (p : Pend) => decide (p.due ≤ now) && mine p && !p.eff.ofTap
  let (ps, s) := s.dropClashes k ((s.stn k).pend.filter due)
  ps.foldl (fun s p => s.apply k p) (s.onStn k fun t => { t with pend := t.pend.filter fun p => !due p })

/-- A write of PMVAL. -/
def Pend.isCount (p : Pend) : Bool := match p.eff with
  | .csr n _ => n == 0x306
  | _ => false

/-- Writes of PMVAL that are due take effect at the start of their cycle: after all that the cycle of their `csr` counted, and before
anything of this one is (R267, R403). -/
def State.writeCounts (s : State) : State :=
  (allStns.filter fun k => s.resultDue k Pend.isCount).foldl (fun s k => s.applyDue k Pend.isCount) s

/-- `SCALAR_RESULT_WRITE`: R233, and the late effects of every engine but the vector and the matrix engine. -/
def execScalarResultWrite (k : Stn) (s : State) : Res := .next (s.applyDue k (Pend.of fun e => e != 2 && e != 3))

/-- `VECTOR_RESULT_WRITE`: R273; where a vector and a matrix write take effect in one cycle, the matrix engine's value remains. Increments
of counters are made by a step of their own, after the reads of the cycle (R269). -/
def execVectorResultWrite (k : Stn) (s : State) : Res :=
  .next (if s.resultDue k (Pend.of fun e => e == 2 || e == 3) then (s.applyDue k (Pend.of fun e => e == 2)).applyDue k (Pend.of fun e => e == 3)
    else s.applyDue k fun p => p.eff.counts_)

/-! ### Fetch lines -/

/-- A word of a line for a stream, with its hidden continuation bit (R213). -/
abbrev Lane := Engine × Word × Bool

/-- The stream of an engine code (R165). -/
def engineOf (e : Nat) : Option Engine := Engine.all.find? (·.code == e)

/-- The opcode field of a word is 0xFF (R213). -/
def isPrefix (w : Word) : Bool := w.toNat / 2 ^ 19 % 256 == 0xFF

/-- A lane put before those that follow it; the 513th word of a stream gives cause 5 (R167, R213). `room` is how many words each stream
still takes. -/
def putLane (room : Engine → Nat) (x : Lane) (rest : (Engine → Nat) → Except Nat (List Lane)) : Except Nat (List Lane) :=
  if room x.1 = 0 then .error 5
  else (rest fun e => if e = x.1 then room e - 1 else room e).map fun l => x :: l

/-- The lanes of a line from lane i on, or the cause of the fetch fault, in ascending lane order (R213). -/
def lanesFrom (h last : Nat) (lane : Nat → Word) : Nat → Nat → Option Engine → (Engine → Nat) → Except Nat (List Lane)
  | 0, _, _, _ => .ok []
  | fuel + 1, i, prev, room =>
    if last < i then .ok []
    else
      let e := h / 2 ^ (4 * i) % 16
      let w := lane i
      if e = 0xF then .ok []
      else if 0xA ≤ e then .error 2
      else if e = 0 then lanesFrom h last lane fuel (i + 1) none room
      else if e = 8 then
        match prev with
        | none => .error 4
        | some x => putLane room (x, w, true) (lanesFrom h last lane fuel (i + 1) prev)
      else if e = 9 then
        match engineOf (h / 2 ^ (4 * i + 4) % 16) with
        | some x => if i = last ∨ isPrefix w = false then .error 4
          else putLane room (x, w, false) (lanesFrom h last lane fuel (i + 1) none)
        | none => .error 4
      else match engineOf e with
        | some x => if isPrefix w then .error 4 else putLane room (x, w, false) (lanesFrom h last lane fuel (i + 1) (some x))
        | none => .error 4

/-- The words that a line gives the streams, or the cause of its fetch fault (R211 to R213). -/
def lineLanes (lane : Nat → Word) (idx : Nat) (room : Engine → Nat) : Except Nat (List Lane) :=
  let h := (lane 0).toNat
  let kind := h % 16
  if 3 ≤ kind then .error 1
  else if (kind == 1) != (idx == 0) then .error 3
  else if kind = 2 then .ok []
  else lanesFrom h (if kind = 1 then 3 else 7) lane 8 1 none room

/-- A word appended to the standby half of a stream's ring (R213). -/
def State.appendWord (s : State) (k : Stn) (l : Lane) : State :=
  let (e, w, c) := l
  let t := s.stn k
  let n := if t.run.half then (t.stream e).len0 else (t.stream e).len1
  let s := s.putRingWord k e (t.run.standby + n) w c
  s.onStn k fun t => let x := t.stream e; t.setStream e (if t.run.half then { x with len0 := n + 1 } else { x with len1 := n + 1 })

/-- The words that the standby half of a stream still takes: a stream holds 512 (R167). -/
def Station.ringRoom (t : Station) (e : Engine) : Nat := 512 - if t.run.half then (t.stream e).len0 else (t.stream e).len1

/-- The key of line i of the block being fetched; lines of a task-level block are remapped (R195, R213). -/
def State.lineAt (s : State) (k : Stn) (f : Fetch) (i : Nat) : Nat :=
  bankKey k.val (s.remap k (if f.res then .resident else .task) (f.line0 + 32 * i))

/-- Line i of the block being fetched, as the bank holds it (R213). -/
def State.fetchedLine (s : State) (k : Stn) (f : Fetch) (i : Nat) : Nat → Word := fun j =>
  BitVec.ofNat 32 (s.mem.readLe (s.lineAt k f i + 4 * j) 4)

/-- A fetch fault is recorded in FTST, unless one stands there, and the fetch is abandoned (R214). -/
def Station.fetchFault (t : Station) (f : Fetch) (cause : Nat) : Station :=
  let v := if bitOf t.sys.ftst 63 then t.sys.ftst else BitVec.ofNat 64 (2 ^ 63 + cause * 2 ^ 48 + f.block * 2 ^ 32 + f.next)
  { t with sys := { t.sys with ftst := v }, run := { t.run with fetch := some { f with fault := true, buf := [] } } }

/-- The lanes of the line that was read one cycle ago, put into their rings (R167). -/
def State.placeLine (s : State) (k : Stn) (f : Fetch) : State :=
  match lineLanes (fun i => f.buf.getD i 0) (f.next - 1) (s.stn k).ringRoom with
  | .ok ls => if f.buf = [] then s else ls.foldl (fun s l => s.appendWord k l) s
  | .error _ => s

/-- The next line is read through the service port, ahead of its other work (R48); a line that gives a fetch fault abandons the fetch
(R167, R213, R214). -/
def State.readLine (s : State) (k : Stn) (f : Fetch) : State :=
  let s := (s.serve (.bank k.val 0)).correct k (s.lineAt k f f.next) (List.range 32)
  let lane := s.fetchedLine k f f.next
  let base := if f.next = 0 then (lane 0).toNat / 2 ^ 16 else f.base
  let next := { f with next := f.next + 1, buf := (List.range 8).map lane, base := base }
  s.onStn k fun t => match lineLanes lane f.next t.ringRoom with
    | .error c => t.fetchFault f c
    | .ok _ => { t with run := { t.run with fetch := some next } }

/-- One cycle of a fetch whose lines are due (R167). -/
def State.fetchStep (s : State) (k : Stn) (f : Fetch) (due : Bool) : State :=
  let s := s.placeLine k f
  if due && decide (f.next < f.lines) then s.readLine k f
  else s.onStn k fun t => { t with run := { t.run with fetch := some { f with buf := [] } } }

/-- `FETCH_LINE`: R167, R213, R214. -/
def execFetchLine (k : Stn) (s : State) : Res :=
  .next (match (s.stn k).run.fetch with
    | none => s
    | some f => if f.fault then s else s.fetchStep k f (decide (f.start + 2 + f.next ≤ s.cyc)))

/-- A whole block fetched at once, as a restore leaves it (R209). -/
def State.fetchAll (s : State) (k : Stn) : Nat → State
  | 0 => s
  | n + 1 => match (s.stn k).run.fetch with
    | none => s
    | some f => if f.fault then s else (s.fetchStep k f true).fetchAll k n

end Sys2Proof.Machine
end

