-- ==== Sys2Proof/Machine/Trap.lean ====
section
/-!
DEFINITION. Entering a trap handler once the station has drained, and what `eret` does (R377, R378, R382). Nominal time jumps at entry
and at `eret`; what is tied to it then moves with it.
-/

namespace Sys2Proof.Machine

/-! ### Moving what is tied to nominal time -/

/-- A nominal cycle moved. -/
def moved (d : Int) (n : Nat) : Nat := ((n : Int) + d).toNat

/-- A pending result moved. -/
def Pend.move (d : Int) (p : Pend) : Pend := { p with due := moved d p.due, iss := moved d p.iss }

/-- The raise that `mwait` leaves; it stands with its array operation (R306). -/
def Pend.isRaise (p : Pend) : Bool := match p.eff with
  | .raise _ => true
  | _ => false

/-- The array operations of a station and what waits for them, moved. -/
def Station.moveArray (d : Int) (t : Station) : Station :=
  { t with
    pend := t.pend.map fun (p : Pend) => if p.isRaise then p.move d else p
    mat := { t.mat with
      ops := t.mat.ops.map fun o => { o with issue := moved d o.issue, busyUntil := moved d o.busyUntil, due := moved d o.due }
      busyUntil := moved d t.mat.busyUntil
      heapOwned := t.mat.heapOwned.map fun (r, u) => (r, moved d u)
      maps := t.mat.maps.map fun m => { m with ready := moved d m.ready } } }

/-- The timed commands of a channel that satisfy a test, moved with their pieces. -/
def Channel.move (d : Int) (f : CopyCmd → Bool) (c : Channel) : Channel :=
  let mine := fun (id : Nat) => c.cmds.any fun m => m.id == id && f m
  { c with
    cmds := c.cmds.map fun m => if f m then { m with issueNom := moved d m.issueNom, firstNom := moved d m.firstNom } else m
    pieces := c.pieces.map fun p => if mine p.cmd then { p with wdue := moved d p.wdue } else p }

/-- The timed accesses of a station moved. -/
def State.moveTxns (s : State) (k : Stn) (d : Int) : State :=
  { s with txns := s.txns.map fun x => if x.k = k then { x with nom := moved d x.nom, use := (match x.use with
      | .gather v t rm ws due => .gather v t rm ws (moved d due)
      | u => u) } else x }

/-! ### Draining -/

/-- Some range of a list covers n bytes at a position. -/
def covered (l : List (Nat × Nat)) (pos n : Nat) : Bool := l.any fun (a, m) => decide (a ≤ pos) && decide (pos + n ≤ a + m)

/-- The line of an operand FIFO that a piece belongs to has all its bytes. -/
def Channel.lineWhole (c : Channel) (p : Piece) : Bool :=
  ((c.pieces.filter fun q => q.cmd == p.cmd && q.pos / 256 == p.pos / 256 && q.data.isSome).map (·.len)).sum == 256

/-- Every issued piece of a channel's timed commands has been performed; bytes of a FIFO line that later pieces complete are held
(R204, R377). -/
def Channel.settled (c : Channel) : Bool :=
  c.pieces.all fun p => c.cmds.all fun m =>
    !(m.id == p.cmd && m.timed && decide (p.idx < m.nextPiece)) || covered m.done p.pos p.len ||
      (m.dkind != 0 && p.data.isSome && !c.lineWhole p)

/-- Every operation that a station issued has written its results, and every timed reply has been delivered; array operations, untimed
commands and pieces not yet issued are exempt (R377). -/
def State.drained (s : State) (k : Stn) : Bool :=
  let t := s.stn k
  t.pend.all Pend.isRaise && s.txns.all (fun x => x.k != k) && t.ch.all Channel.settled

/-! ### Entry -/

/-- A station enters its handler in the current cycle: array operations keep their pace in CYC while LAG becomes 0 (R377, R378). -/
def State.enter (s : State) (k : Stn) (t : Trap) (n : Nat) (keep : Bool) : State :=
  let lag := (s.stn k).run.lag
  let s := s.onStn k fun x =>
    let x := x.moveArray lag
    { x with tap := { x.tap with slack := none }, run := { x.run with stall := 0, waitTag := none } }
  s.enterTrap k t n keep

/-- A system trap, or one recorded earlier, is entered; with TVEC.V = 0 the station halts (R378). -/
def State.enterOrHalt (s : State) (k : Stn) (t : Trap) (n : Nat) (keep : Bool) : State :=
  if bitOf (s.stn k).trap.tvec 63 then s.enter k t n keep
  else (s.onStn k fun x => { x with trap := { x.trap with taking := none } }).haltOnTrap k t

/-- The handler's block, once it lies wholly in the rings, starts at resident level (R378). -/
def State.startHandler (s : State) (k : Stn) : State :=
  match (s.stn k).run.fetch with
  | none => s
  | some f =>
    if f.fault then s.haltOnTrap k ⟨0x01, 6, 0, false, 1, ⟨1, 0, 0, none⟩⟩
    else if f.whole s.cyc then
      s.onStn k fun t =>
        let t := t.fork f (s.cyc + 1) .resident
        { t with trap := { t.trap with entering := false } }
    else s

/-- A trap being taken may be entered now: its group's cycle is past and the station has drained (R377). -/
def State.entryDue (s : State) (k : Stn) : Bool :=
  let t := s.stn k
  t.running && t.pre.st != .hold && !s.pkg.rollbacks.contains (s.partOf k, s.teamNo k) &&
    (match t.trap.taking with
    | some (_, n) => decide (n < s.nom k) && s.drained k
    | none => false)

/-- `TRAP_ENTRY`: R377, R378. In cycle t the trap state is written and the handler's block is fetched; it starts as soon as it lies in
the rings. -/
def execTrapEntry (k : Stn) (s : State) : Res :=
  .next (if (s.stn k).trap.entering then s.startHandler k
    else match (s.stn k).trap.taking with
      | some (t, n) => if s.entryDue k then s.enter k t n false else s
      | none => s)

/-! ### Return -/

/-- The first frame after the resumption point whose slip cycle has passed (R177, R382). -/
def State.slipPassed (s : State) (k : Stn) : Option Nat :=
  let t := s.stn k
  let f := s.frameOf t.trap.tnom + (if s.phase ≤ t.trap.tnom then 1 else 0)
  if s.fs f + t.bud ≤ s.cyc then some f else none

/-- What a slip that `eret` takes identifies: the resumption point (R382). -/
def Station.resumeAt (t : Station) : TrapAt :=
  ⟨1, t.trap.tnom - t.trap.taskBase, t.trap.shadows[0].pc, none⟩

/-- What a handler issued and has not finished keeps its pace in CYC while LAG takes its new value (R382). -/
def State.handTimes (s : State) (k : Stn) : State :=
  let t := s.stn k
  let d : Int := -((s.cyc + 1 - t.trap.tnom : Nat) : Int)
  let live := fun (c : Channel) => (c.cmds.find? (·.timed)).all (·.hand)
  (s.moveTxns k d).onStn k fun t =>
    let t := { t with pend := t.pend.map fun (p : Pend) => if p.isRaise then p else p.move d }
    let t := t.moveArray d
    { t with ch := t.ch.map fun c => if live c then
        let c := c.move d (·.hand)
        { c with lastRead := if t.trap.tnom < c.lastRead then moved d c.lastRead else c.lastRead }
      else c }

/-- The task's streams resume in the next cycle (R382). -/
def State.backToTask (s : State) (k : Stn) : State := (s.handTimes k).onStn k fun t => t.returnFromTrap s.cyc

/-- A pre-emption that finds its station at `eret`: it halts with a full image at the resumption point (R382). -/
def State.haltAtResume (s : State) (k : Stn) : State :=
  let f := (s.stn k).pre.frame
  ((s.backToTask k).skipRows (s.partOf k) (s.teamNo k) f true).onStn k fun t =>
    { t with
      pre := { t.pre with st := .halted, full := true }, run := { t.run with stall := 6 }
      boardings := t.boardings.filter fun b => decide (b.frame < f) }

/-- `eret` takes effect in its cycle: it takes a slip that fell due, a held trap or a pending pre-emption in place of the resumption
(R177, R377, R382). -/
def State.resumeTask (s : State) (k : Stn) : State :=
  let t := s.stn k
  let n := t.trap.tnom
  match s.slipPassed k with
  | some f =>
    ((s.onStn k fun x => { x with trap := { x.trap with slipDue := none } }).enterOrHalt k ⟨0x06, 1, 0, true, 1, t.resumeAt⟩ n true).teamSlip k f
  | none =>
    if t.trap.slipDue.any fun c => decide (c ≤ s.cyc) then
      (s.onStn k fun x => { x with trap := { x.trap with slipDue := none } }).enterOrHalt k ⟨0x06, 2, 0, true, 1, t.resumeAt⟩ n true
    else match t.trap.held with
      | h :: r => (s.onStn k fun x => { x with trap := { x.trap with held := r } }).enterOrHalt k { h.1 with async := true } n true
      | [] => if t.pre.st = .pending then s.haltAtResume k else s.backToTask k

/-- A fetched block starts (R168, R189): its level is the one that its table entry named. A `fork` in a handler leaves the trapped task
behind, with its pending slip and with the coachman's results for frames before the new block (R382). -/
def State.startBlock (s : State) (k : Stn) (base : Nat) (lv : Option Level) : State :=
  match (s.stn k).run.fetch with
  | none => s
  | some f => s.onStn k fun t =>
    let t := t.fork f base (lv.getD (if f.res then .resident else .task))
    if t.trap.inHandler then
      { t with
        trap := { t.trap with inHandler := false, slipDue := none }
        boardings := t.boardings.filter fun b => decide (base ≤ s.fs b.frame) }
    else t

end Sys2Proof.Machine
end

