-- ==== Sys2Proof/Machine/Checkpoint.lean ====
section
/-!
DEFINITION. Checkpoints, pre-emption, save images, restores, recovery points and rollbacks (R198 to R210, R389 to R392).
-/

namespace Sys2Proof.Machine

/-! ### The manifest -/

/-- What a manifest record names: the masks of s, c, q, a, v, heap rows and bays, and the ranges in bytes (R200). -/
structure Manifest where
  masks : List Nat
  ranges : List (Nat × Nat)
  deriving DecidableEq, Repr

/-- Ranges ascend, do not overlap and lie below 0xF_8000 (R200). -/
def rangesOk : Nat → List (Nat × Nat) → Bool
  | _, [] => true
  | lo, (o, n) :: r => decide (lo ≤ o) && decide (0 < n) && decide (o + n ≤ 0xF_8000) && rangesOk (o + n) r

/-- Index of a checkpoint within the running block (R198). -/
def State.ckptIndex (s : State) (k : Stn) (f : Nat) : Nat := f - s.frameOf (s.stn k).run.base

/-- n bytes that a station's save or load has gathered, as a number. -/
def State.gotNat (s : State) (k : Stn) (off n : Nat) : Nat := leNat (s.gathered (.station k) off n)

/-- The block's index entry and its array word, as the save has read them, name a record; an entry whose reserved bits are not zero names
none (R4, R199). -/
def State.indexOk (s : State) (k : Stn) (f : Nat) : Bool :=
  let e := s.gotNat k 0 8
  nbits e 63 63 == 1 && nbits e 62 44 == 0 && nbits e 31 20 == 0 && nbits e 0 0 == 0 && decide (s.ckptIndex k f < nbits e 43 32)

/-- What the save reads next on its way to the manifest record: a task-level offset, a length, and where it gathers the bytes: the index
entry, the array word, the record's header, its entries (R199, R200). -/
def State.manifestNeeds (s : State) (k : Stn) (f : Nat) : Option (Nat × Nat × Nat) :=
  let t := s.stn k
  let x := s.gotNat k 8 2
  let n := nbits (s.gotNat k 64 8) 31 23
  match t.pre.stage with
  | 0 => some (bitsOf t.sys.mancfg 19 3 * 8 + 8 * t.run.block, 8, 0)
  | 1 => if s.indexOk k f then some (nbits (s.gotNat k 0 8) 19 1 * 2 + 2 * s.ckptIndex k f, 2, 8) else none
  | 2 => if x = 0xFFFF then none else some (x * 16, 64, 64)
  | 3 => if n = 0 ∨ 256 < n then none else some (x * 16 + 64, 8 * n, 128)
  | _ => none

/-- The manifest record that the save has read for a checkpoint, where the index leads to a well-formed one; a poisoned word makes it
malformed (R199, R200, R387; log entry 141). -/
def State.manifest (s : State) (k : Stn) (f : Nat) : Option Manifest :=
  let w := fun (i : Nat) => s.gotNat k (64 + 8 * i) 8
  let n := nbits (w 0) 31 23
  let es := (List.range n).map fun i => w (8 + i)
  let rs := es.map fun e => (nbits e 15 0 * 16, nbits e 32 16 * 16)
  if s.indexOk k f = true ∧ s.gotNat k 8 2 ≠ 0xFFFF ∧ s.gatheredBad (.station k) 0 (128 + 8 * n) = false ∧ nbits (w 0) 63 48 = (s.stn k).run.block ∧
      nbits (w 0) 47 32 = s.ckptIndex k f ∧ n ≤ 256 ∧ nbits (w 0) 22 0 = 0 ∧ nbits (w 4) 47 0 = 0 ∧ w 5 = 0 ∧ w 6 = 0 ∧ w 7 = 0 ∧
      es.all (fun e => nbits e 63 33 == 0) = true ∧ rangesOk 0 rs = true then
    some ⟨[nbits (w 1) 63 32, nbits (w 1) 31 16, nbits (w 1) 15 8, nbits (w 1) 7 0, w 2, w 3, nbits (w 4) 63 48], rs⟩
  else none

/-- Reads of a station's bank for its save, at a task-level offset, through the remap (R48, R199). -/
def State.bankReads (s : State) (k : Stn) (o n off : Nat) : List (Phys × Nat × JobUse) :=
  (partsLine (n + 1) o n).map fun (a, m) => (.bank k.val (s.remap k .task (a % 2 ^ 20)), m, .gather (off + (a - o)))

/-- The save's next read on its way to the manifest record is left to be made, where there is one and the image is not a full one. -/
def State.readManifest (s : State) (k : Stn) (f : Nat) (full : Bool) : Option State :=
  if full then none
  else (s.manifestNeeds k f).map fun (o, n, off) =>
    (s.addJobs (.station k) (clusterOf k) (s.partOf k) (s.bankReads k o n off)).onStn k fun t =>
      { t with pre := { t.pre with stage := t.pre.stage + 1 } }

/-- Everything (R208). -/
def Manifest.full : Manifest :=
  ⟨[2 ^ 32 - 1, 2 ^ 16 - 1, 2 ^ 8 - 1, 2 ^ 8 - 1, 2 ^ 64 - 1, 2 ^ 64 - 1, 2 ^ 16 - 1], [(0, 0xF_8000)]⟩

/-- The masks of an image; a full image names everything. -/
def maskHas (m : Option (List Nat)) (i j : Nat) : Bool := (m.map fun l => (l.getD i 0).testBit j).getD true

/-! ### The image -/

/-- The PENDING bays of a station as a mask (R208). -/
def Station.pendingBays (t : Station) : Nat := ((List.range 16).map fun i => if (t.bay i).st = .pending then 2 ^ i else 0).sum

/-- The header of an image of station k at frame f (R207). -/
def State.headerOf (s : State) (k : Stn) (f : Nat) (full : Bool) (ranges : Nat) : Nat :=
  let t := s.stn k
  (if full then 2 else 1) * 2 ^ 60 + bitsOf t.sys.teamid 9 0 * 2 ^ 96 + bitsOf t.sys.ctxid 15 0 * 2 ^ 112 +
    s.ckptIndex k f % 65536 * 2 ^ 128 + t.run.block % 65536 * 2 ^ 144 + ranges * 2 ^ 176 + bitsOf t.bayst 31 0 * 2 ^ 192 +
    t.pendingBays * 2 ^ 224 + bitsOf t.sys.banksel 0 0 * 2 ^ 240 + (((s.fs f : Int) - t.run.base) % 2 ^ 64).toNat * 2 ^ 256 + f % 2 ^ 64 * 2 ^ 320

/-- Bytes stored at an offset of a save area, line by line. -/
def areaJobs (area off : Nat) (bs : List Byte) (poison : Bool) : List (Phys × Nat × JobUse) := storeJobs (area * 2 ^ 21 + off) bs poison

/-- The pieces of n bytes that go from an offset o to an offset p, none of which crosses a line at either end. -/
def cutBoth : Nat → Nat → Nat → Nat → List (Nat × Nat × Nat)
  | 0, _, _, _ => []
  | fuel + 1, o, p, n =>
    if n = 0 then []
    else
      let m := min n (min (256 - o % 256) (256 - p % 256))
      (o, p, m) :: cutBoth fuel (o + m) (p + m) (n - m)

/-- The pieces of an image's ranges, packed in list order: bank offset, place among the packed bytes, length (R206). -/
def rangePieces : Nat → List (Nat × Nat) → List (Nat × Nat × Nat)
  | _, [] => []
  | pos, (o, n) :: r => cutBoth (n + 1) o pos n ++ rangePieces (pos + n) r

/-- The lines of an image with the bytes of its control area (R206, R208). A heap row that an HCFG write left unpredictable is saved as the
store holds it (R314; log entry 142). -/
def State.imageJobs (s : State) (k : Stn) (f area : Nat) (full : Bool) (m : Manifest) (ctl : List Byte) : List (Phys × Nat × JobUse) :=
  let t := s.stn k
  let has := maskHas (some m.masks)
  let put := areaJobs area
  let some_ := fun (n i : Nat) (g : Nat → List (Phys × Nat × JobUse)) => (List.range n).flatMap fun j => if has i j then g j else []
  let n := if full then 1 else rowBytes t.heapK
  put 0 (leBytes 64 (s.headerOf k f full m.ranges.length) ++ ctl) false ++
  put 0x800 (m.ranges.flatMap fun (o, n) => leBytes 8 (n / 16 * 2 ^ 16 + o / 16)) false ++
  (some_ 16 6 fun i => if (t.bay i).st = .pending then [] else put (0x1000 + 256 * i) (bytesOf (t.bay i).data) (t.bay i).poison) ++
  (some_ 64 4 fun i => put (0x2000 + 256 * i) (bytesOf (t.vreg (BitVec.ofNat 6 i))) false) ++
  (some_ 8 3 fun i => put (0x6000 + 0x8000 * i)
    ((List.range 64).flatMap fun r => (List.range 128).flatMap fun c => leBytes 4 (Elem.value ((t.tile (BitVec.ofNat 3 i)).elem r c)).toNat) false) ++
  (if full then put 0x4_6000 ((List.range 65536).map (cellsRead t.mat.heap)) false
    else some_ 64 5 fun r => if (r + 1) * n ≤ 65536 then put (0x4_6000 + r * n) ((List.range n).map fun i => cellsRead t.mat.heap (r * n + i)) false else []) ++
  (t.mat.fa.lines.zipIdx.flatMap fun (l, i) => put (0x5_8000 + 256 * i) (bytesOf l.data) l.poison) ++
  (t.mat.fb.lines.zipIdx.flatMap fun (l, i) => put (0x6_0000 + 256 * i) (bytesOf l.data) l.poison) ++
  (rangePieces 0 m.ranges).map fun (o, p, n) =>
    (.bank k.val (s.remap k .task o), n, .copyTo (.stack (area * 2 ^ 21 + 0x10_0000 + p)))

/-- The stage of a save whose lines are being written. -/
def writing : Nat := 8

/-- The writing of an image begins: the header and the registers are as they stand, the lines are left to be written, the header's first,
and what the control area holds is kept (R206). The bytes of the control area are not architectural: a number of the image's own, and
free bytes. -/
def State.beginImage (s : State) (k : Stn) (f area nom : Nat) (m : Option Manifest) : State :=
  let (c, s) := s.draw
  let n := s.nextId
  let ctl := leBytes 8 n ++ leBytes 1976 c
  let img : SavedImage := ⟨area, s.stn k, nom, s.txns.filter (·.k == k), m.map (·.masks), 384 + n, ctl⟩
  let l := s.imageJobs k f area m.isNone (m.getD Manifest.full) ctl
  let s := s.dropJobs (.station k)
  let s := { s with nextId := n + 1, pkg := { s.pkg with images := s.pkg.images ++ [img] } }
  (s.addJobs (.station k) (clusterOf k) (s.partOf k) l).onStn k fun t => { t with pre := { t.pre with stage := writing } }

/-! ### Holding at a checkpoint -/

/-- A station cannot stop cleanly (R203). An operation stays in the list through the cycle in which it completes (R302). -/
def Station.unclean (t : Station) : Bool :=
  !t.pend.isEmpty || !t.mat.ops.isEmpty || t.streams.any (·.rep.isSome) ||
    t.ch.any fun c => c.cmds.any fun m => m.timed && decide (m.nextPiece < m.nPieces)

/-- A station's checkpoint in the current cycle is unclean: a gather or a scatter in an engine that has lines still to request counts (R203,
R293). -/
def State.unclean (s : State) (k : Stn) : Bool := (s.stn k).unclean || s.linesWait k

/-- A station stands before an issue group at which it may hold: it runs a block, outside a handler and with no trap being taken. -/
def Station.mayHold (t : Station) : Bool :=
  t.running && !t.held && !t.trap.inHandler && t.trap.taking.isNone && t.run.startAt.isNone

/-- What a station does at the checkpoint of the current cycle. -/
inductive CkptAct where
  | hold (f : Nat)
  | lag (f : Nat)
  | point (f : Nat)
  deriving DecidableEq, Repr

/-- The checkpoint that a station reaches in the current cycle: of a pending pre-emption (R202, R203), or of a recovery point (R390). -/
def State.ckptAct (s : State) (k : Stn) : Option CkptAct :=
  let t := s.stn k
  let n := s.nom k
  let f := s.frameOf n
  if t.mayHold = false then none
  else if t.pre.st = .pending ∧ s.fs t.pre.frame ≤ n then some (.hold t.pre.frame)
  else if t.pre.st = .pending ∧ s.cyc = s.fs t.pre.frame + 1 ∧ t.run.level = .task then some (.lag t.pre.frame)
  else if bitOf t.trap.rpcfg 63 ∧ n = s.fs f ∧ f % bitsOf t.trap.rpcfg 47 32 = 0 ∧ t.pre.rpFrame ≠ f then some (.point f)
  else none

/-- A station holds for a pre-emption; its team's rows of the frame are skipped as displaced (R202). -/
def State.holdFor (s : State) (k : Stn) (f : Nat) (full : Bool) : State :=
  (s.skipRows (s.partOf k) (s.teamNo k) f true).onStn k fun t =>
    { t with
      pre := { t.pre with st := .hold, full := full, haltAt := s.cyc + 48 }
      run := { t.run with stall := 5, waitTag := none }
      boardings := t.boardings.filter fun b => decide (b.frame < f) }

/-- The slip that an unclean checkpoint takes; the trap stays recorded, and its station halts (R203). -/
def State.ckptSlip (s : State) (k : Stn) (f : Nat) : State := (s.lateTrap k 0x06 1 (s.groupAt k)).teamSlip k f

/-- `CHECKPOINT`: R198, R202, R203, R390. -/
def execCheckpoint (k : Stn) (s : State) : Res :=
  .next (match s.ckptAct k with
    | some (.hold f) =>
      if s.unclean k then (s.holdFor k f true).ckptSlip k f else s.holdFor k f false
    | some (.lag f) => (s.holdFor k f true).ckptSlip k f
    | some (.point f) => s.onStn k fun t =>
        { t with
          pre := { t.pre with rp := 1, rpFrame := f, rpNom := s.nom k, rpLag := t.run.lag, rpFull := s.unclean k }
          run := { t.run with stall := 5 }, trap := { t.trap with rpst := putBit t.trap.rpst 61 true } }
    | none => s)

/-! ### Halting -/

/-- The elements that an abandoned operation would have written hold free values (R305). -/
def State.freeElems (s : State) (k : Stn) (o : ArrayOp) : State :=
  let (x, s) := s.draw
  let i := BitVec.ofNat 3 o.t
  let word := fun (r c : Nat) => BitVec.ofNat 32 (x / 2 ^ (32 * (128 * r + c)))
  s.onStn k fun t => t.setTile i ((t.tile i).mapRows fun r row =>
    if o.q.getLsbD r then row.mapElems fun c e => if o.c0 ≤ c ∧ c < o.c0 + o.ncol then closed (accInt o.mxfmt) (word r c) else e
    else row)

/-- The array operations in flight are abandoned (R305). -/
def State.abandonArray (s : State) (k : Stn) : State :=
  let s := ((s.stn k).mat.ops.filter fun o => !o.done).foldl (fun s o => s.freeElems k o) s
  s.onStn k fun t => { t with mat := { t.mat with ops := [], heapOwned := [] } }

/-- A timed reply that station k awaits has not reached its lane interface (R202). -/
def State.repliesOut (s : State) (k : Stn) : Bool :=
  s.txns.any fun x => x.k == k && x.parts.any fun p => !p.delivered && decide (s.cyc < x.usable p)

/-- `PREEMPT_HALT`: R202, R203, R305. -/
def execPreemptHalt (k : Stn) (s : State) : Res :=
  let t := s.stn k
  .next (if t.pre.st = .hold ∧ t.pre.haltAt ≤ s.cyc then
      let xd := s.repliesOut k
      (s.abandonArray k).onStn k fun t =>
        { t with
          pre := { t.pre with st := .halted, xd := xd, full := t.pre.full || t.trap.taking.isSome }
          run := { t.run with stall := 6 } }
    else s)

/-! ### Saving -/

/-- The conditions of R204; at an unclean checkpoint every result has been written as well (R377, R390). -/
def State.mayWrite (s : State) (k : Stn) (unclean : Bool) : Bool :=
  let t := s.stn k
  t.ch.all (fun c => c.cmds.all (·.timed) && c.settled) &&
    (s.pkg.fab.cmds.all fun c => c.k != k || (c.op == 1 && c.bay.isSome)) && !s.repliesOut k && (!unclean || s.drained k)

/-- Redirect entries of a memory port that are taken (R208). -/
def State.redirectsAt (s : State) (port : Nat) : Nat := (s.pkg.redirects.filter fun (r : Redirect) => clusterOf r.stn == port).length

/-- A pre-empted station may write its image (R204, R208). -/
def State.maySave (s : State) (k : Stn) : Bool :=
  let t := s.stn k
  t.pre.st == .halted && s.mayWrite k t.trap.taking.isSome &&
    decide (s.redirectsAt (clusterOf k) + ((List.range 16).countP fun i => (t.bay i).st == .pending) ≤ 4096)

/-- Work of a station; arrivals from peers, block-transfer records and accesses of the host are not its work. -/
def UOp.ownWork (u : UOp) : Bool := match u.owner with
  | .serve => false
  | .bt .. => false
  | .window .. => false
  | _ => true

/-- The operations and the markers of one set of queues stand in another (R109). -/
def State.moveQueues (s : State) (a b : Nat) : State :=
  { s with
    uops := s.uops.map fun (u : UOp) => if u.qset = a ∧ u.ownWork then { u with qset := b } else u
    markers := s.markers.map fun m => if m.qset = a then { m with qset := b } else m }

/-- The live station after a save: what the image took with it is gone (R204). -/
def Station.leftBehind (t : Station) : Station :=
  { t with
    pend := [], ch := t.ch.map fun (c : Channel) => { c with cmds := [], pieces := [] }
    trap := { t.trap with taking := none, held := [], slipDue := none } }

/-- The save of a pre-empted station begins to write: the bays that are PENDING are saved in transit, and the operations and the replies that
the station awaits go with the image (R204, R208). -/
def State.beginSave (s : State) (k : Stn) : State :=
  let t := s.stn k
  let area := bitsOf t.sys.savcfg 12 0
  let m := if t.pre.full then none else s.manifest k t.pre.frame
  let mal := !t.pre.full && m.isNone
  let q := 384 + s.nextId
  let s := s.beginImage k t.pre.frame area ((t.trap.taking.map (·.2)).getD (s.nom k)) m
  let bays := (List.range 16).filter fun i => (t.bay i).st == .pending
  let rs := bays.map fun i => (⟨bitsOf t.sys.ctxid 15 0, k, i, area, none⟩ : Redirect)
  let s := { s with txns := s.txns.filter (·.k != k), pkg := { s.pkg with redirects := s.pkg.redirects ++ rs } }
  (s.moveQueues k.val q).onStn k fun t => { t with pre := { t.pre with full := m.isNone, mal := mal, nit := bays.length } }

/-- The image is written: STATE is SAVED, and the station enters its resident program (R204). -/
def State.endSave (s : State) (k : Stn) : State :=
  let n := ((s.stn k).trap.taking.map (·.2)).getD (s.nom k)
  let at_ := s.groupAt k
  let s := s.onStn k fun t =>
    let t := t.leftBehind
    { t with pre := { t.pre with st := .saved, stage := 0 } }
  s.enterOrHalt k ⟨0x10, 0, 0, true, 1, at_⟩ n false

/-- A pre-empted station's save may go on: it looks up the record, begins to write, or ends (R199, R204). -/
def State.saveGoes (s : State) (k : Stn) : Bool :=
  (s.stn k).pre.st == .halted && s.jobsDone (.station k) && ((s.stn k).pre.stage == writing || s.maySave k)

/-- `SAVE_IMAGE`: R199, R204, R206 to R208. The lines of the image, and the reads that lead to its record, are accesses of their own (R48,
R56). -/
def execSaveImage (k : Stn) (s : State) : Res :=
  let t := s.stn k
  .next (if s.saveGoes k = false then s
    else if t.pre.stage = writing then s.endSave k
    else (s.readManifest k t.pre.frame t.pre.full).getD (s.beginSave k))

/-! ### Restoring -/

/-- Registers from an image, free where its record does not name them; x supplies the free bits (R208). -/
def namedRegs {w n : Nat} (m : Option (List Nat)) (i x : Nat) (old : Vector (BitVec w) n) : Vector (BitVec w) n :=
  Vector.ofFn fun (j : Fin n) => if maskHas m i j.val then old[j.val] else BitVec.ofNat w (x / 2 ^ (w * j.val))

/-- A tile from its section: closed values of the type of each row, which is that of its first element that is not empty, and IT where
all are (R206, R208, R308; log entry 32). -/
def tileFrom (old : Tile) (int : Bool) (w : Nat → Nat → Word) : Tile :=
  old.mapRows fun r row =>
    let ty := ((row.toList.findSome? id).map fun x => x.int).getD int
    row.mapElems fun c _ => closed ty (w r c)

/-- Bay i after a restore: live where it was in transit and still is; otherwise the state in the header, with the bytes of its section
where the record names it or a late reply wrote it, and their poison (R208, R209, R387). -/
def State.bayFrom (s : State) (k : Stn) (live : Station) (img : SavedImage) (h i x : Nat) : Bay :=
  if (h / 2 ^ 224).testBit i then live.bay i
  else
    let st := match h / 2 ^ (192 + 2 * i) % 4 with
      | 0 => BayState.idle
      | 1 => BayState.pending
      | 2 => BayState.full
      | _ => BayState.void
    let known := maskHas img.masks 6 i || (img.stn.bay i).st == .pending
    ⟨if known then lineOfBytes (s.gathered (.station k) (0x1000 + 256 * i) 256) else BitVec.ofNat 2048 (x / 2 ^ (2048 * i)), st,
      known && s.gatheredBad (.station k) (0x1000 + 256 * i) 256⟩

/-- The register files of a restored station (R208, R209). -/
def State.regsFrom (s : State) (k : Stn) (live : Station) (img : SavedImage) (h : Nat) : Regs × State :=
  let (x1, s) := s.draw
  let (x2, s) := s.draw
  let (x3, s) := s.draw
  let (x4, s) := s.draw
  let (x5, s) := s.draw
  let (x6, s) := s.draw
  let r := img.stn.regs
  let m := img.masks
  let int := accInt img.stn.mat.mxfmt
  let word := fun (i r c : Nat) => if maskHas m 3 i
    then BitVec.ofNat 32 (s.gotNat k (0x6000 + 0x8000 * i + 512 * r + 4 * c) 4)
    else BitVec.ofNat 32 (x6 / 2 ^ (32 * (8192 * i + 128 * r + c)))
  ({ r with
      s := namedRegs m 0 x1 r.s
      c := Vector.ofFn fun (j : Fin 16) => if maskHas m 1 j.val then r.c[j.val] else ⟨BitVec.ofNat 128 (x2 / 2 ^ (128 * j.val)), false⟩
      q := namedRegs m 2 x3 r.q
      v := Vector.ofFn fun (j : Fin 64) => if maskHas m 4 j.val
        then lineOfBytes (s.gathered (.station k) (0x2000 + 256 * j.val) 256) else BitVec.ofNat 2048 (x4 / 2 ^ (2048 * j.val))
      bays := Vector.ofFn fun (j : Fin 16) => s.bayFrom k live img h j.val x5
      tiles := Vector.ofFn fun (j : Fin 8) => tileFrom r.tiles[j.val] int (word j.val) }, s)

/-- The matrix state of a restored station: heap rows and FIFO lines, with their poison, from their sections; rows that the record does not
name are unpredictable (R206, R208, R387). -/
def State.matrixFrom (s : State) (k : Stn) (img : SavedImage) : Matrix :=
  let m := img.stn.mat
  let n := rowBytes (bitsOf m.hcfg 39 32)
  let put := fun (l : List Host.Cell) (off : Nat) (bs : List Byte) => bs.zipIdx.foldl (fun l (b, i) => cellsWrite l (off + i) b) l
  let heap := if img.masks.isNone then put [] 0 (s.gathered (.station k) 0x4_6000 65536)
    else (List.range 64).foldl (fun l r =>
      if maskHas img.masks 5 r && decide ((r + 1) * n ≤ 65536) then put l (r * n) (s.gathered (.station k) (0x4_6000 + r * n) n) else l) m.heap
  let free := BitVec.ofNat 64 (((List.range 64).map fun r => if maskHas img.masks 5 r then 0 else 2 ^ r).sum)
  let lines := fun (off : Nat) (f : Fifo) => { f with lines := f.lines.zipIdx.map fun (l, i) =>
    ({ l with data := lineOfBytes (s.gathered (.station k) (off + 256 * i) 256)
              poison := s.gatheredBad (.station k) (off + 256 * i) 256 } : FifoLine) }
  { m with heap := heap, heapFree := m.heapFree ||| free, fa := lines 0x5_8000 m.fa, fb := lines 0x6_0000 m.fb }

/-- The physical offset that a restored task-level offset goes to (R209). -/
def halfOffset (ben half : Bool) (o : Nat) : Nat :=
  if ben && half && (decide (o < 0x7_8000) || (decide (0x8_0000 ≤ o) && decide (o < 0xF_8000))) then
    (if o < 0x8_0000 then o + 0x8_0000 else o - 0x8_0000)
  else o

/-- The range entries of an image that lie below 0xF_8000, as the load has read them (R206). -/
def State.imageRanges (s : State) (k : Stn) : List (Nat × Nat) :=
  ((List.range (min (nbits (s.gotNat k 0 64) 191 176) 256)).map fun i =>
    let e := s.gotNat k (0x800 + 8 * i) 8
    (nbits e 15 0 * 16, nbits e 32 16 * 16)).filter fun x => decide (x.1 + x.2 ≤ 0xF_8000)

/-- The image that a load has read, known by its control area; where this machine did not write one, registers are free and no stream runs
(R206; log entry 32). -/
def State.imageRead (s : State) (k : Stn) : SavedImage :=
  { (s.pkg.images.find? fun i => i.ctl == s.gathered (.station k) 64 1984).getD
      ⟨0, { s.stn k with streams := Vector.replicate 7 Stream.reset }, s.cyc, [], some [], 384, []⟩ with area := (s.stn k).pre.area }

/-- The image that a station has loaded. -/
def State.imageOf (s : State) (k : Stn) : SavedImage :=
  (s.pkg.images.find? fun i => (s.stn k).pre.image == some i.qset).getD ⟨(s.stn k).pre.area, s.stn k, s.cyc, [], some [], 384, []⟩

/-- The half that a load fills: the one that PRRST names, or for a rollback the one that the image was in (R209, R392). -/
def State.loadHalf (s : State) (k : Stn) : Bool :=
  let p := (s.stn k).pre
  if p.roll then bitOf (s.imageRead k).stn.sys.banksel 1 else p.half

/-- The line accesses of a load once the image's first lines are read: its sections, its ranges, and for a checkpoint image the bytes of the
bank that no range names, which are unpredictable, in both halves and in the resident window (R208, R209; log entry 31). -/
def State.loadJobs (s : State) (k : Stn) : List (Phys × Nat × JobUse) :=
  let area := (s.stn k).pre.area
  let ben := nbits (s.gotNat k 0 64) 240 240 == 1
  let half := s.loadHalf k
  let ps := (rangePieces 0 (s.imageRanges k)).map fun (o, p, n) => (halfOffset ben half o, p, n)
  readJobs (area * 2 ^ 21 + 0x1000) 0x6_F000 0x1000 ++
  (ps.map fun (o, p, n) => (.stack (area * 2 ^ 21 + 0x10_0000 + p), n, .copyTo (.bank k.val o))) ++
  if (s.imageRead k).masks.isSome then [(.bank k.val 0, 1, .forget (ps.map fun (o, _, n) => (o, n)))] else []

/-- Poisoned words in what a load takes registers from, where no register holds their poison: the station reads them as it loads (R387; log
entry 141). -/
def State.loadBad (s : State) (k : Stn) (m : Option (List Nat)) (n : Nat) : Bool :=
  let bad := s.gatheredBad (.station k)
  bad 0 0x1000 || ((List.range 64).any fun i => maskHas m 4 i && bad (0x2000 + 256 * i) 256) ||
    ((List.range 8).any fun i => maskHas m 3 i && bad (0x6000 + 0x8000 * i) 0x8000) ||
    if m.isNone then bad 0x4_6000 0x1_0000 else (List.range 64).any fun r => maskHas m 5 r && bad (0x4_6000 + r * n) n

/-- The station of an image put in place of the live one: units that stay with the station keep their state, and on a rollback the registers
of recovery points, of the log and of corrected errors, which tell of what happened since the point, stay too; SBST is INVALID then
(R209, R392). -/
def State.installStation (s : State) (k : Stn) (img : SavedImage) (h : Nat) (half : Bool) : State :=
  let live := s.stn k
  let (regs, s) := s.regsFrom k live img h
  let i := img.stn
  let r := if live.pre.roll then live.trap else i.trap
  s.setStn k { i with
    regs := regs, mat := s.matrixFrom k img
    sys := { i.sys with
      banksel := BitVec.ofNat 64 (b2n half * 2 + nbits h 240 240), ctxid := BitVec.ofNat 64 (nbits h 127 112)
      savcfg := if live.pre.roll then i.sys.savcfg else BitVec.ofNat 64 img.area
      sbst := if live.pre.roll then putBits i.sys.sbst 63 62 3 else i.sys.sbst }
    run := { i.run with on := live.run.on, part := live.run.part, stall := 6, startAt := none, waitTag := none }
    trap := { i.trap with
      halted := false, entering := false, rpcfg := r.rpcfg, rpst := r.rpst, exlcfg := r.exlcfg, exlst := r.exlst, eccst := r.eccst }
    pre := { live.pre with image := some img.qset }, sigs := live.sigs, flagStores := live.flagStores, boardings := [] }

/-! #### The blocks -/

/-- The halves of a station's rings change places, so that a fetch fills the other one. -/
def Station.flip (t : Station) : Station := { t with run := { t.run with half := !t.run.half } }

/-- A block is fetched into the standby half once more, where its table entry names one (R209). -/
def State.refetch (s : State) (k : Stn) (block : Nat) (res : Bool) : State :=
  let s := s.readEntry k block
  if s.blockOk k block then
    (s.beginFetch k block).onStn k fun t =>
      { t with run := { t.run with fetch := t.run.fetch.map fun (f : Fetch) => { f with res := res } } }
  else s.onStn k fun t => { t with run := { t.run with fetch := none } }

/-- No line of a fetch is still to be read or put into its rings. -/
def Station.fetchedAll (t : Station) : Bool := t.run.fetch.all fun f => f.fault || (f.next == f.lines && f.buf.isEmpty)

/-- The running block, once it is read, takes its half again, and the standby block follows (R209). -/
def State.refetchNext (s : State) (k : Stn) : State :=
  let kept := (s.stn k).pre.kept
  let s := s.onStn k fun t => { t.flip with run := { t.flip.run with fetch := kept } }
  match kept with
  | some f => if f.fault then s else s.refetch k f.block f.res
  | none => s

/-! #### The load -/

/-- The stations of a partition that restore a team's context (R210). -/
def State.restoring (s : State) (p t : Nat) : List Stn :=
  allStns.filter fun k => (s.stn k).run.on && s.partOf k == p && (s.stn k).pre.st == .restore && (s.stn k).pre.team == t

/-- The frame in which a team whose last station has just loaded resumes (R210). -/
def State.resumeFrame (s : State) : Nat := (s.cyc + 64 + 2047 - s.phase) / 2048

/-- When every station of a team has loaded, the cycle of its resumption is known (R210). -/
def State.noteLoaded (s : State) (p t : Nat) : State :=
  let ks := s.restoring p t
  if ks.all fun k => (s.stn k).pre.loaded then
    let c := s.fs s.resumeFrame
    ks.foldl (fun s k => s.onStn k fun x => { x with pre := { x.pre with resumeAt := some c } }) s
  else s

/-- A load that waits: the station's clock is gated, or its team or its cluster's memory port is fenced (R396, R406, R408; log entry 153). -/
def State.parked (s : State) (k : Stn) : Bool :=
  let f := s.pkg.svc.fenced
  s.gated k || f.contains (0, s.partOf k * 2048 + (s.stn k).pre.team) || f.contains (1, clusterOf k)

/-- A station that does nothing more: it is off, halted, pre-empted with its image saved, or waits in a load (R396, R406). -/
def State.stopped (s : State) (k : Stn) : Bool :=
  let t := s.stn k
  !t.run.on || t.trap.halted || t.pre.st == .saved || (t.pre.st == .restore && s.jobsDone (.station k))

/-- A load goes on: the line accesses that it left are made, the lines of the block that it reads are read, it is not before its time, and
nothing keeps it waiting (R209, R396, R408). -/
def State.loadGoes (s : State) (k : Stn) : Bool :=
  let t := s.stn k
  !s.parked k && t.pre.st == .restore && !t.pre.loaded && decide (t.pre.loadAt ≤ s.cyc) && s.jobsDone (.station k) && (decide (t.pre.stage < 3) || t.fetchedAll)

/-- The line accesses of a load's next stage. -/
def State.nextLoad (s : State) (k : Stn) (n : Nat) (l : List (Phys × Nat × JobUse)) : State :=
  (s.addJobs (.station k) (clusterOf k) (s.partOf k) l).onStn k fun t => { t with pre := { t.pre with stage := n } }

/-- A header with an invalid KIND ends the restore (R209). -/
def State.refuseLoad (s : State) (k : Stn) : State :=
  ((s.dropJobs (.station k)).onStn k fun x => { x with pre := { x.pre with st := .run, stage := 0 }, run := { x.run with stall := 0 } }).enterOrHalt k
    ⟨0x11, 0, 0, true, 1, s.groupAt k⟩ (s.nom k) false

/-- The image is read and its ranges are written: registers, bays, BANKSEL, CTXID and SAVCFG are set, and the running block is fetched into
its half. Poison that no register holds rolls the team back (R209, R387). -/
def State.install (s : State) (k : Stn) : State :=
  let img := s.imageRead k
  let bad := s.loadBad k img.masks (rowBytes (bitsOf img.stn.mat.hcfg 39 32))
  let s := (s.installStation k img (s.gotNat k 0 64) (s.loadHalf k)).dropJobs (.station k)
  let s := s.onStn k fun t => { t.flip with pre := { t.pre with stage := 3, kept := t.run.fetch } }
  let s := s.refetch k img.stn.run.block (img.stn.run.level == .resident)
  if bad then s.machineCheck k 1 else s

/-- `RESTORE_LOAD`: R209. The header, the control area and the range entries are read; then the sections are read and the ranges written; then
the registers are set; then the blocks are read, line by line (R48, R49, R56). -/
def execRestoreLoad (k : Stn) (s : State) : Res :=
  let t := s.stn k
  let kind := nbits (s.gotNat k 0 64) 63 60
  .next (if s.loadGoes k = false then s
    else match t.pre.stage with
    | 0 => s.nextLoad k 1 (readJobs (t.pre.area * 2 ^ 21) 0x1000 0)
    | 1 => if kind = 1 ∨ kind = 2 then s.nextLoad k 2 (s.loadJobs k) else s.refuseLoad k
    | 2 => s.install k
    | 3 => (s.refetchNext k).onStn k fun t => { t with pre := { t.pre with stage := 4 } }
    | _ => (s.onStn k fun t => { t with pre := { t.pre with loaded := true, stage := 0 } }).noteLoaded (s.partOf k) t.pre.team)

/-- What a restored station holds moved to the frame in which it resumes (R210). -/
def Station.rebase (d : Int) (t : Station) : Station :=
  let t := { t with
    pend := t.pend.map fun (p : Pend) => if p.isRaise then p else p.move d
    run := { t.run with base := moved d t.run.base, resyncAt := moved d t.run.resyncAt, resyncEnd := moved d t.run.resyncEnd, lag := 0, stall := 0 }
    ch := t.ch.map fun (c : Channel) => { c.move d (·.timed) with lastRead := moved d c.lastRead } }
  t.moveArray d

/-- A station resumes in the current cycle, at its issue group or in its recorded trap (R210). -/
def State.resumeStation (s : State) (k : Stn) : State :=
  let img := s.imageOf k
  let d : Int := (s.cyc : Int) - img.nom
  let s := { s with txns := s.txns ++ img.txns.map fun (x : Txn) => { x with k := k, nom := moved d x.nom } }
  let s := s.moveQueues img.qset k.val
  let s := s.onStn k fun t => { t.rebase d with pre := { t.pre with st := .run, rp := 0, loaded := false, resumeAt := none, image := none, roll := false, kept := none } }
  match (s.stn k).trap.taking with
  | some (t, n) => s.enterOrHalt k t (moved d n) false
  | none => s

/-- `TEAM_RESUME`: R210. A team whose load waits resumes at a later frame (R396, R408; log entry 153). -/
def execTeamResume (p team : Nat) (s : State) : Res :=
  let ks := s.restoring p team
  .next (if ks.all fun k => (s.stn k).pre.loaded && (s.stn k).pre.resumeAt.any fun c => decide (c ≤ s.cyc) then
      (if ks.any s.parked then s.noteLoaded p team else ks.foldl State.resumeStation s)
    else s)

/-! ### Recovery points -/

/-- A station held for a recovery point may write its image (R390). -/
def State.mayPoint (s : State) (k : Stn) : Bool :=
  let t := s.stn k
  t.pre.rp == 1 && t.pendingBays == 0 && s.mayWrite k t.pre.rpFull

/-- The area that holds the committed point, or the other one (R389). -/
def TrapRegs.pointArea (r : TrapRegs) (other : Bool) : Nat :=
  if bitOf r.rpst 63 != other then bitsOf r.rpcfg 25 13 else bitsOf r.rpcfg 12 0

/-- The image of a recovery point is written: the station resumes at the group at which it held (R390). -/
def Station.endPoint (t : Station) : Station :=
  { t with
    run := { t.run with stall := 0 }, pre := { t.pre with rp := 2, stage := 0 }
    trap := { t.trap with rpst := putBit t.trap.rpst 61 false } }

/-- The image of a recovery point begins to be written; a matrix operation in flight at an unclean checkpoint is abandoned (R305, R390). -/
def State.beginPoint (s : State) (k : Stn) : State :=
  let t := s.stn k
  let m := if t.pre.rpFull then none else s.manifest k t.pre.rpFrame
  (if t.pre.rpFull then s.abandonArray k else s).beginImage k t.pre.rpFrame (t.trap.pointArea true) t.pre.rpNom m

/-- A recovery point's save may go on. -/
def State.pointGoes (s : State) (k : Stn) : Bool :=
  (s.stn k).pre.rp == 1 && s.jobsDone (.station k) && ((s.stn k).pre.stage == writing || s.mayPoint k)

/-- `RECOVERY_POINT_SAVE`: R390. -/
def execRecoveryPointSave (k : Stn) (s : State) : Res :=
  let t := s.stn k
  .next (if s.pointGoes k = false then s
    else if t.pre.stage = writing then (s.dropJobs (.station k)).onStn k Station.endPoint
    else (s.readManifest k t.pre.rpFrame t.pre.rpFull).getD (s.beginPoint k))

/-- The stations of a team that take recovery points. -/
def State.pointTeam (s : State) (p t : Nat) : List Stn := (s.team p t).filter fun k => bitOf (s.stn k).trap.rpcfg 63

/-- Every station of a team has written its image of one frame (R390). -/
def State.mayCommit (s : State) (p t : Nat) : Bool :=
  match s.pointTeam p t with
  | [] => false
  | k :: r => (k :: r).all fun j => (s.stn j).pre.rp == 2 && (s.stn j).pre.rpFrame == (s.stn k).pre.rpFrame

/-- `RECOVERY_POINT_COMMIT`: R390. -/
def execRecoveryPointCommit (p team : Nat) (s : State) : Res :=
  .next (if s.mayCommit p team = false then s
    else (s.pointTeam p team).foldl (fun s k => s.onStn k fun t =>
      { t with
        pre := { t.pre with rp := 0 }
        trap := { t.trap with
          exlst := 0
          rpst := putBits (putBit (putBit t.trap.rpst 63 (!bitOf t.trap.rpst 63)) 62 true) 31 0 t.pre.rpFrame } }) s)

/-! ### Rollback -/

/-- A packet or a host request of an operation is unanswered (R361, R392). -/
def State.unanswered (s : State) (id : Nat) : Bool :=
  s.pkg.fab.unacked.any (·.op == id) || s.pkg.hostl.waiting.any (·.op == id)

/-- The replays that a station started are aborted as by `gabort`, and one that it left pending never starts (R349, R392). -/
def State.abortReplays (s : State) (k : Stn) : State :=
  let mine := fun (s : State) (c : Option Nat) => (c.bind s.fcmd).any fun c => c.k == k
  (List.range 64).foldl (fun s n =>
    let g := s.slot n
    let s := if g.own.any fun x => x.1 == k then s.onSlot n fun g => { g with own := none } else s
    let s := if mine s g.pend then s.onSlot n fun g => { g with pend := none } else s
    if mine s g.runner then s.abortReplay n 1 0 4 0 else s) s

/-- A station's fabric commands send nothing further, and end by their write-back: aborted, where no other outcome is known (R340, R341,
R392). -/
def State.abortCmds (s : State) (k : Stn) : State :=
  let ids := (s.pkg.fab.cmds.filter fun c => c.k == k).map (·.id)
  (ids.foldl (fun s id => s.endFCmd id 4 0) s).killOps fun u => match u.owner with
    | .fabric c => ids.contains c
    | _ => false

/-- A station's commands and untimed operations end: what was not sent is discarded (R392). -/
def State.stopWork (s : State) (k : Stn) : State :=
  let s := [0, 1].foldl (fun s i => (s.chan k i).cmds.foldl (fun s (m : CopyCmd) => s.abandon k i m.id 2 0) s) s
  let s := (s.abortReplays k).abortCmds k
  let busy := s.unanswered
  { s with
    uops := s.uops.filter fun (u : UOp) => u.dead || !(u.qset == k.val && u.ownWork && !busy u.id)
    markers := s.markers.filter fun m => m.qset != k.val }

/-- A team that stops waits for answers, for its commands' write-backs and for what its exposure logs have still to write (R340, R391,
R392). -/
def State.teamQuiet (s : State) (ks : List Stn) : Bool :=
  (s.uops.all fun u => !(ks.any (·.val == u.qset) && u.ownWork)) && (s.pkg.fab.cmds.all fun c => !ks.contains c.k) &&
    ks.all fun k => s.jobsDone (.log k)

/-- The rows that the team's stations have boarded, or are to board, are skipped as displaced (R392). -/
def State.dropRows (s : State) (p t : Nat) : State :=
  let lo := (s.team p t).foldl (fun m k => min m (s.frameOf (s.nom k))) (s.frameOf s.cyc)
  (s.framesFrom p t lo).foldl (fun s f => s.skipRows p t f true) s

/-- A station begins to load its committed point (R209, R389, R392): a save in progress ends, and the exposure log is read from its first
entry. -/
def State.rollStation (s : State) (team : Nat) (k : Stn) : State :=
  let s := { s with txns := s.txns.filter (·.k != k) }
  (s.dropJobs (.station k)).onStn k fun t => { t with
    sigs := [], flagStores := [], run := { t.run with stall := 6 }
    trap := { t.trap with
      rpst := putBit t.trap.rpst 61 false
      exlst := putBits (putBit t.trap.exlst 62 (bitsOf t.trap.exlst 20 0 != 0)) 41 21 0 }
    pre := { t.pre with
      st := .restore, area := t.trap.pointArea false, rp := 0, loaded := false, loadAt := s.cyc, resumeAt := none
      stage := 0, team := team, image := none, roll := true, kept := none } }

/-- A record about a team (R384). -/
def State.teamRecord (s : State) (p t kind : Nat) (k : Stn) : State := s.faultRecord p ⟨kind, 0, false, k.val, 0, if t < 1024 then t else 0, 0, 0, 0, 0⟩

/-- No save is in progress any more (R389). -/
def Station.endSaves (t : Station) : Station :=
  { t with pre := { t.pre with rp := 0, stage := 0 }, trap := { t.trap with rpst := putBit t.trap.rpst 61 false } }

/-- A stopped team is restored, or halts where it has no point that it may use (R392). -/
def State.rollTeam (s : State) (p t : Nat) (ks : List Stn) : State :=
  let k0 := ks.headD 0
  let bad := ks.any fun k => bitOf (s.stn k).trap.rpst 62 = false ∨ bitOf (s.stn k).trap.exlst 63 = true
  let s := s.dropRows p t
  if bad then
    (ks.foldl (fun s k => let s := s.dropJobs (.station k); { s.onStn k (Station.halt ·.endSaves) with out := s.out ++ [.halted k] }) s).teamRecord p t 6 k0
  else (ks.foldl (State.rollStation · t) s).teamRecord p t 5 k0

/-- `ROLLBACK_RESTORE`: R392. The team's work is stopped; once every packet that it sent is answered, the team is restored. -/
def execRollbackRestore (p team : Nat) (s : State) : Res :=
  let ks := s.team p team
  .next (if s.pkg.rollbacks.contains (p, team) = false then s
    else
      let s := ks.foldl State.stopWork s
      if s.teamQuiet ks then
        (if ks = [] then s else s.rollTeam p team ks) |> fun s =>
          { s with pkg := { s.pkg with rollbacks := s.pkg.rollbacks.filter (· != (p, team)) } }
      else s)

end Sys2Proof.Machine
end

