-- ==== Sys2Proof/Machine/ConductorAlu.lean ====
section
/-!
DEFINITION. Conductor arithmetic, logic and immediates (R236 to R239).
-/

namespace Sys2Proof.Machine

/-! ### What each instruction computes -/

/-- Bits [127:64] of the signed product (R236). -/
def mulHigh (a b : DWord) : DWord := BitVec.ofInt 64 (a.toInt * b.toInt / 2 ^ 64)

/-- Bits [127:64] of the unsigned product (R236). -/
def mulHighU (a b : DWord) : DWord := BitVec.ofNat 64 (a.toNat * b.toNat / 2 ^ 64)

/-- Signed quotient rounded toward zero; all ones for a zero divisor (R237). -/
def quotS (a b : DWord) : DWord := if b = 0 then BitVec.allOnes 64 else BitVec.ofInt 64 (a.toInt.tdiv b.toInt)

/-- Unsigned quotient; 2^64 - 1 for a zero divisor (R237). -/
def quotU (a b : DWord) : DWord := if b = 0 then BitVec.allOnes 64 else BitVec.ofNat 64 (a.toNat / b.toNat)

/-- Signed remainder with the dividend's sign; the dividend for a zero divisor (R237). -/
def remS (a b : DWord) : DWord := if b = 0 then a else BitVec.ofInt 64 (a.toInt.tmod b.toInt)

/-- Unsigned remainder; the dividend for a zero divisor (R237). -/
def remU (a b : DWord) : DWord := if b = 0 then a else BitVec.ofNat 64 (a.toNat % b.toNat)

/-- The shift amount sB[5:0] (R236). -/
def shamt (b : DWord) : Nat := b.toNat % 64

/-- 1 or 0 as a scalar. -/
def flag64 (b : Bool) : DWord := if b then 1 else 0

/-- Leading zero bits, 0 to 64 (R236). -/
def clz64 (a : DWord) : DWord := BitVec.ofNat 64 (if a = 0 then 64 else 63 - a.toNat.log2)

/-- Bits set, 0 to 64 (R236). -/
def popCount (a : DWord) : Nat := (List.range 64).countP fun i => a.getLsbD i

/-! ### The shapes -/

/-- A CR instruction: sD from sA and sB after a latency (R233, R236). -/
def State.alu (s : State) (f : DWord → DWord → DWord) (lat : Nat) (d a b : BitVec 5) : Res :=
  .next (s.putS d (f (s.rs a) (s.rs b)) lat)

/-- A CI instruction: sD from sA and the sign-extended immediate (R238). -/
def State.aluI (s : State) (f : DWord → DWord → DWord) (d a : BitVec 5) (i : BitVec 9) : Res :=
  .next (s.putS d (f (s.rs a) (sext64 i)) 1)

/-- A CI shift by an amount of 0 to 63 (R238). -/
def State.aluSh (s : State) (f : DWord → Nat → DWord) (d a : BitVec 5) (i : BitVec 6) : Res :=
  .next (s.putS d (f (s.rs a) i.toNat) 1)

/-! ### The instructions -/

/-- `add`: R236. -/
def execAdd (d a b : BitVec 5) (s : State) : Res := s.alu (· + ·) 1 d a b
/-- `sub`: R236. -/
def execSub (d a b : BitVec 5) (s : State) : Res := s.alu (· - ·) 1 d a b
/-- `mul`: R236. -/
def execMul (d a b : BitVec 5) (s : State) : Res := s.alu (· * ·) 3 d a b
/-- `mulh`: R236. -/
def execMulh (d a b : BitVec 5) (s : State) : Res := s.alu mulHigh 3 d a b
/-- `mulhu`: R236. -/
def execMulhu (d a b : BitVec 5) (s : State) : Res := s.alu mulHighU 3 d a b
/-- `div`: R236, R237. -/
def execDiv (d a b : BitVec 5) (s : State) : Res := s.alu quotS 24 d a b
/-- `divu`: R236, R237. -/
def execDivu (d a b : BitVec 5) (s : State) : Res := s.alu quotU 24 d a b
/-- `rem`: R236, R237. -/
def execRem (d a b : BitVec 5) (s : State) : Res := s.alu remS 24 d a b
/-- `remu`: R236, R237. -/
def execRemu (d a b : BitVec 5) (s : State) : Res := s.alu remU 24 d a b
/-- `and`: R236. -/
def execAnd (d a b : BitVec 5) (s : State) : Res := s.alu (· &&& ·) 1 d a b
/-- `or`: R236. -/
def execOr (d a b : BitVec 5) (s : State) : Res := s.alu (· ||| ·) 1 d a b
/-- `xor`: R236. -/
def execXor (d a b : BitVec 5) (s : State) : Res := s.alu (· ^^^ ·) 1 d a b
/-- `andn`: R236. -/
def execAndn (d a b : BitVec 5) (s : State) : Res := s.alu (fun x y => x &&& ~~~y) 1 d a b
/-- `shl`: R236. -/
def execShl (d a b : BitVec 5) (s : State) : Res := s.alu (fun x y => x <<< shamt y) 1 d a b
/-- `shr`: R236. -/
def execShr (d a b : BitVec 5) (s : State) : Res := s.alu (fun x y => x >>> shamt y) 1 d a b
/-- `sra`: R236. -/
def execSra (d a b : BitVec 5) (s : State) : Res := s.alu (fun x y => x.sshiftRight (shamt y)) 1 d a b
/-- `rotl`: R236. -/
def execRotl (d a b : BitVec 5) (s : State) : Res := s.alu (fun x y => x.rotateLeft (shamt y)) 1 d a b
/-- `min`: R236. -/
def execMin (d a b : BitVec 5) (s : State) : Res := s.alu (fun x y => if x.toInt ≤ y.toInt then x else y) 1 d a b
/-- `max`: R236. -/
def execMax (d a b : BitVec 5) (s : State) : Res := s.alu (fun x y => if x.toInt ≤ y.toInt then y else x) 1 d a b
/-- `minu`: R236. -/
def execMinu (d a b : BitVec 5) (s : State) : Res := s.alu (fun x y => if x.toNat ≤ y.toNat then x else y) 1 d a b
/-- `maxu`: R236. -/
def execMaxu (d a b : BitVec 5) (s : State) : Res := s.alu (fun x y => if x.toNat ≤ y.toNat then y else x) 1 d a b
/-- `clz`: R236. -/
def execClz (d a : BitVec 5) (s : State) : Res := s.alu (fun x _ => clz64 x) 1 d a 0
/-- `popc`: R236. -/
def execPopc (d a : BitVec 5) (s : State) : Res := s.alu (fun x _ => BitVec.ofNat 64 (popCount x)) 1 d a 0
/-- `seq`: R236. -/
def execSeq (d a b : BitVec 5) (s : State) : Res := s.alu (fun x y => flag64 (x == y)) 1 d a b
/-- `slt`: R236. -/
def execSlt (d a b : BitVec 5) (s : State) : Res := s.alu (fun x y => flag64 (decide (x.toInt < y.toInt))) 1 d a b
/-- `sltu`: R236. -/
def execSltu (d a b : BitVec 5) (s : State) : Res := s.alu (fun x y => flag64 (decide (x.toNat < y.toNat))) 1 d a b
/-- `sel`: R236; the old sD is the one of the issue cycle. -/
def execSel (d a b : BitVec 5) (s : State) : Res := s.alu (fun x y => if s.rs d ≠ 0 then x else y) 1 d a b

/-- `addi`: R238. -/
def execAddi (d a : BitVec 5) (i : BitVec 9) (s : State) : Res := s.aluI (· + ·) d a i
/-- `andi`: R238. -/
def execAndi (d a : BitVec 5) (i : BitVec 9) (s : State) : Res := s.aluI (· &&& ·) d a i
/-- `ori`: R238. -/
def execOri (d a : BitVec 5) (i : BitVec 9) (s : State) : Res := s.aluI (· ||| ·) d a i
/-- `xori`: R238. -/
def execXori (d a : BitVec 5) (i : BitVec 9) (s : State) : Res := s.aluI (· ^^^ ·) d a i
/-- `shli`: R238. -/
def execShli (d a : BitVec 5) (i : BitVec 6) (s : State) : Res := s.aluSh (fun x n => x <<< n) d a i
/-- `shri`: R238. -/
def execShri (d a : BitVec 5) (i : BitVec 6) (s : State) : Res := s.aluSh (fun x n => x >>> n) d a i
/-- `srai`: R238. -/
def execSrai (d a : BitVec 5) (i : BitVec 6) (s : State) : Res := s.aluSh (fun x n => x.sshiftRight n) d a i

/-- `li`, W = 0: R239. -/
def execLi (d : BitVec 5) (i : BitVec 13) (s : State) : Res := .next (s.putS d (sext64 i) 1)
/-- `li`, W = 1: R239. -/
def execLiWide (d : BitVec 5) (v : BitVec 32) (s : State) : Res := .next (s.putS d (sext64 v) 1)

/-- sD with bits [63:32] replaced (R239). -/
def highHalf (old : DWord) (imm : BitVec 32) : DWord := imm ++ old.extractLsb' 0 32

/-- `lih`, W = 0: R239; imm[31:0] is the sign-extended immediate. -/
def execLih (d : BitVec 5) (i : BitVec 13) (s : State) : Res := .next (s.putS d (highHalf (s.rs d) (i.signExtend 32)) 1)
/-- `lih`, W = 1: R239. -/
def execLihWide (d : BitVec 5) (v : BitVec 32) (s : State) : Res := .next (s.putS d (highHalf (s.rs d) v) 1)

end Sys2Proof.Machine
end

