-- ==== Sys2Proof/Machine/ConductorMem.lean ====
section
/-!
DEFINITION. Conductor loads, stores, remote loads, bay reads, fences, atomics, and capabilities (R244 to R255).
-/

namespace Sys2Proof.Machine

/-! ### Loads and stores -/

/-- Access size of SZ (R244). -/
def szBytes (sz : BitVec 3) : Nat :=
  match sz.toNat with
  | 0 => 1
  | 1 => 2
  | 2 => 4
  | 3 => 8
  | 4 => 1
  | 5 => 2
  | 6 => 4
  | _ => 16

/-- The displacement in bytes (R244). -/
def disp7 (i : BitVec 7) (n : Nat) : Int := i.toInt * n

/-- The format check of a conductor access on each page that it touches: padding takes precedence (R74, R245). -/
def scalarFormat (segs : List Seg) : Nat := segs.foldl (fun m g => max m (scalarSpan g.page.fmt g.page.geom g.page.po g.len)) 0

/-- A conductor access whose format check passes, or a format-alignment trap (R245). -/
def State.formatted (s : State) (segs : List Seg) (t : State) : State :=
  if scalarFormat segs = 0 then t else s.formatTrap (scalarFormat segs)

/-- Every page has format raw, as a capability form needs (R31). -/
def rawPages (segs : List Seg) : Bool := segs.all (·.page.fmt == 0)

/-- `lds`: R244, R245. -/
def execLds (d : BitVec 5) (c : BitVec 4) (sz : BitVec 3) (i : BitVec 7) (s : State) : Res :=
  let n := szBytes sz
  let p := s.rc c
  .next (s.checked p (disp7 i n) n Right.read false (sz == 7) fun o => s.pinned p.obj o n fun segs =>
    if sz = 7 then
      (if rawPages segs then s.send (.loadCap (d.truncate 4)) (readSegs segs) else s.capViolation 5)
    else s.formatted segs (s.send (.load d n (decide (sz.toNat < 4))) (readSegs segs)))

/-- The store of a capability: an export check outside the station's own bank, then the 16 bytes with the tag (R22, R23). A store that fails
the raw-format check (R31) too reports that one: the manual gives the two no order (log entry 146). -/
def State.storeCap (s : State) (v : Cap) (segs : List Seg) : State :=
  if rawPages segs = false then s.capViolation 5
  else if v.tag = true ∧ v.rights &&& Right.exported = 0 ∧ segs.any (·.page.bank != some s.cur.k) = true then s.capViolation 9
  else s.send .none (writeSegs segs (leBytes 16 v.bits.toNat) (some v.tag))

/-- `sts`: R244, R245; the data are fixed at issue (R102). -/
def execSts (d : BitVec 5) (c : BitVec 4) (sz : BitVec 3) (i : BitVec 7) (s : State) : Res :=
  let n := szBytes sz
  let p := s.rc c
  .next (s.checked p (disp7 i n) n Right.write false (sz == 7) fun o => s.pinned p.obj o n fun segs =>
    if sz = 7 then s.storeCap (s.rc (d.truncate 4)) segs
    else s.formatted segs (s.send .none (writeSegs segs (leBytes n (s.rs d).toNat) none)))

/-- `rld`: R246; the request enters the conductor's load queue. One to a peer is one packet; one to an own object is read in
16-byte parts (R100). -/
def execRld (d c : BitVec 4) (sz : BitVec 3) (i : BitVec 7) (s : State) : Res :=
  let n := 16 * 2 ^ sz.toNat
  let p := s.rc c
  .next (s.checked p (disp7 i n) n Right.read true false fun o => s.need (o % n = 0) (s.claimBay d.toNat fun s =>
    s.enqueue { s.newUOp (.rld d.toNat n) with
      rq := 0
      src := some ⟨p.node, p.obj, o⟩
      pieces :=
        if p.node = s.nodeId then (parts16 17 o n).map fun (a, m) => UPiece.plain a 0 m (a - o) []
        else [UPiece.plain o 0 n 0 []] }))

/-- The value that `bayrd` reads: n bytes at an offset, extended (R247). -/
def bayValue (b : Bay) (off n : Nat) (unsigned : Bool) : DWord :=
  let v := b.data.toNat / 2 ^ (8 * off) % 2 ^ (8 * n)
  if unsigned ∨ v < 2 ^ (8 * n - 1) then BitVec.ofNat 64 v else BitVec.ofInt 64 ((v : Int) - 2 ^ (8 * n))

/-- `bayrd`: R247. It issues only when the bay is not PENDING, which ISSUE_GROUP awaits (R173). -/
def execBayrd (d : BitVec 5) (a : BitVec 4) (b : BitVec 5) (u : BitVec 1) (z : BitVec 2) (s : State) : Res :=
  let n := 2 ^ z.toNat
  let off := (s.rs b).toNat
  .next (s.need (off < 256 ∧ off % n = 0) (s.putS d (bayValue (s.here.bay a.toNat) off n (u == 1)) 1))

/-- `align`: R106, R248; one marker in the load queue and one in the store queue. -/
def execAlign (s : State) : Res := .next (s.mark 3 0 true)

/-- `fence`: R108, R248. -/
def execFence (k : BitVec 3) (m : BitVec 9) (s : State) : Res := .next (s.fence k m)

/-! ### Atomics -/

/-- A format on which bits are not taken as stored (R249). -/
def blockFormat (f : Nat) : Bool := isBfp f || f == 9

/-- A conductor atomic (R249 to R252): timed on a bank frame of APLACE 00, otherwise in the conductor's store queue. -/
def State.atomic (s : State) (bay : Option Nat) (c : Cap) (a : Atom) : State :=
  s.checked c 0 a.size Right.atomic false false fun o => s.pinned c.obj o a.size fun segs =>
    s.need (o % a.size = 0) <|
    s.need (bay.all fun b => (s.here.bay b).st != .pending) <|
    match segs with
    | g :: _ =>
      if blockFormat g.page.fmt then s.formatTrap (scalarFormat segs)
      else
        let s' := match bay with
          | some b => s.onHere fun t => t.pendBay b
          | none => s
        match g.page.bank with
        | some j =>
          if g.page.aplace = 0 then s'.send ((bay.map TUse.bay).getD .none) [(g, g.offs, .atomic a)]
          else s'.enqueue { s'.newUOp (.atom a bay) with
            wq := 1, dst := some ⟨c.node, c.obj, o⟩, pinned := some (.bank j.val g.addr, g.page.aplace, g.page.ord)
            pieces := [UPiece.plain 0 o a.size 0 []] }
        | none => s'.enqueue { s'.newUOp (.atom a bay) with
            wq := 1, dst := some ⟨c.node, c.obj, o⟩, pinned := some (.stack g.addr, g.page.aplace, g.page.ord)
            pieces := [UPiece.plain 0 o a.size 0 []] }
    | [] => s

/-- 4 or 8 bytes (R249). -/
def amoSize (z : BitVec 1) : Nat := if z = 1 then 8 else 4

/-- `amo`: R249, R252. -/
def execAmo (d a : BitVec 4) (b : BitVec 5) (z : BitVec 1) (o : BitVec 3) (s : State) : Res :=
  .next (s.atomic (some d.toNat) (s.rc a) ⟨o.toNat, amoSize z, false, s.rs b, 0⟩)

/-- `acas`: R250, R252; b is half the register number, so s(B) is the expected value and s(B + 1) the new one. -/
def execAcas (d a b : BitVec 4) (z : BitVec 1) (s : State) : Res :=
  .next (s.atomic (some d.toNat) (s.rc a) ⟨0, amoSize z, true, s.rs (b ++ 0#1), s.rs (b ++ 1#1)⟩)

/-- `ared`: R251, R252. -/
def execAred (a : BitVec 4) (b : BitVec 5) (z : BitVec 1) (o : BitVec 3) (s : State) : Res :=
  .next (s.atomic none (s.rc a) ⟨o.toNat, amoSize z, false, s.rs b, 0⟩)

/-! ### Capabilities -/

/-- The result of a `cderive` mode that needs an unsealed, tagged register (R253). -/
def Cap.derived (c : Cap) (m : BitVec 4) (b : DWord) : Cap :=
  match m.toNat with
  | 0 => Cap.make c.node c.obj c.rights c.limit b.toNat true
  | 1 => Cap.make c.node c.obj c.rights c.limit (c.cursor + b.toNat) true
  | 2 => Cap.make c.node c.obj (c.rights &&& (b.toNat % 256)) c.limit c.cursor true
  | 3 => Cap.make c.node c.obj (c.rights ||| 128) c.limit c.cursor true
  | _ => Cap.make c.node c.obj (c.rights % 128) c.limit c.cursor true

/-- `cderive`: R20, R253. Only `.unseal` and `.mov` take a sealed register, and only `.mov` one without a tag. -/
def execCderive (d a : BitVec 4) (b : BitVec 5) (m : BitVec 4) (s : State) : Res :=
  let c := s.rc a
  .next (if m = 4 ∧ s.here.run.level = .task then s.capViolation 0xB
    else if m = 5 then s.putC d c
    else if c.tag = false then s.capViolation 1
    else if c.sealed = true ∧ m ≠ 4 then s.capViolation 2
    else if 2 ≤ m.toNat ∧ c.rights &&& Right.derive = 0 then s.capViolation 0xA
    else s.putC d (c.derived m (s.rs b)))

/-- `cbound`: R254. -/
def execCbound (d a : BitVec 4) (b : BitVec 5) (s : State) : Res :=
  let c := s.rc a
  let v := (s.rs b).toNat
  .next (if c.tag = false then s.capViolation 1
    else if c.sealed then s.capViolation 2
    else if c.rights &&& Right.derive = 0 ∨ c.limit < v ∨ 2 ^ 40 ≤ v then s.capViolation 0xA
    else s.putC d (Cap.make c.node c.obj c.rights v c.cursor true))

/-- The field that `cfield` names (R255). -/
def Cap.field (c : Cap) (f : BitVec 4) : DWord :=
  match f.toNat with
  | 0 => BitVec.ofNat 64 c.node
  | 1 => BitVec.ofNat 64 c.obj
  | 2 => BitVec.ofNat 64 c.rights
  | 3 => BitVec.ofNat 64 c.limit
  | 4 => BitVec.ofNat 64 c.cursor
  | 5 => BitVec.ofNat 64 (b2n c.tag)
  | 6 => c.bits.extractLsb' 0 64
  | _ => c.bits.extractLsb' 64 64

/-- `cfield`: R255. -/
def execCfield (d : BitVec 5) (a f : BitVec 4) (s : State) : Res := .next (s.putS d ((s.rc a).field f) 1)

end Sys2Proof.Machine
end

