-- ==== Sys2Proof/Machine/Sample.lean ====
section
/-!
DEFINITION. Program-counter samples (R401, R402).
-/

namespace Sys2Proof.Machine

/-- The current cycle is a sample cycle of a partition (R401). -/
def State.sampleDue (s : State) (p : Nat) : Bool :=
  let c := (s.part p).smpcfg
  let per := bitsOf c 31 0
  bitOf c 63 && decide (0 < per) && decide (s.phase ≤ s.cyc) && (s.cyc - s.phase) % per == 0

/-- The engine code that is sampled: the one named, or the engines in turn (R401). -/
def State.sampledEngine (s : State) (c : DWord) : Nat :=
  if bitsOf c 34 32 = 0 then 1 + (s.cyc - s.phase) / bitsOf c 31 0 % 7 else bitsOf c 34 32

/-- The stall reason of a station (R402): the nominal cycles that a `resync` released at n reserves, n + 1 to n + P, have a reason of their
own where nothing else stalls (R175). -/
def State.stallOf (s : State) (k : Stn) : Nat :=
  let t := s.stn k
  let r := t.run
  if r.stall ≠ 0 then r.stall
  else if r.resyncAt < s.nom k ∧ s.nom k ≤ r.resyncEnd then 8 else 0

/-- What a stream reports: the next instruction that it will release, or the last one that it released (R401). -/
def State.samplePoint (s : State) (k : Stn) (e : Engine) : Nat × Nat :=
  let t := s.stn k
  let x := t.stream e
  match s.releaseAt k e with
  | some r => if t.trap.halted || t.pre.st == .halted then (x.lastPc, x.lastStamp) else (x.pc, r - t.run.base)
  | none => (x.lastPc, x.lastStamp)

/-- The record of a running station (R400 to R402). -/
def State.sample (s : State) (k : Stn) (code : Nat) : State :=
  match Engine.all.find? (·.code == code) with
  | none => s
  | some e =>
    let (pc, stamp) := s.samplePoint k e
    s.stnRecord k 1 0 code pc (s.frameOf (s.nom k) % 2 ^ 32 * 2 ^ 32 + s.stallOf k) (stamp % 2 ^ 40)

/-- `TELEMETRY_SAMPLE`: R399, R401. -/
def execTelemetrySample (p : Nat) (s : State) : Res :=
  let code := s.sampledEngine (s.part p).smpcfg
  .next (if s.sampleDue p = false then s
    else (allStns.filter fun k => (s.stn k).run.part == p && s.running k).foldl (fun s k => s.sample k code) s)

end Sys2Proof.Machine
end

