-- ==== Sys2Proof/Machine/Group.lean ====
section
/-!
DEFINITION. The issue group of a nominal cycle: which instructions are due, what they wait for, and the frozen cycle (R138, R151, R169 to
R173, R181, R243, R383, R403).
-/

namespace Sys2Proof.Machine

/-! ### What is due -/

/-- A station may issue: it runs, and no hold, trap, rollback or coming start stands before its next group (R173, R188, R202, R377, R390,
R392). -/
def State.mayIssue (s : State) (k : Stn) : Bool :=
  let t := s.stn k
  t.running && t.pre.st != .hold && t.pre.rp != 1 && t.trap.taking.isNone && !t.trap.entering && t.run.startAt.isNone &&
    !s.pkg.rollbacks.contains (s.partOf k, s.teamNo k)

/-- The streams whose next release falls due, in ascending engine code (R169, R170). -/
def State.dueStreams (s : State) (k : Stn) : List Engine :=
  Engine.all.filter fun e => (s.releaseAt k e).any fun n => decide (n ≤ s.nom k)

/-- The release of a stream's next instruction, or of the next iteration of its repeat (R169, R223). -/
def State.releaseAct (s : State) (k : Stn) (e : Engine) : Act :=
  if ((s.stn k).stream e).rep.isSome then .ev (.repeatIteration k e) else .issue k e

/-- What a stream releases next, with the state in which `cur` names it: of a repeat, its next iteration (R216, R223). -/
def State.dueInstr (s : State) (k : Stn) (e : Engine) : Option (Instr × State) :=
  let iter := match s.iteration k e with
    | .ok d => some (d.instr, s.beginIteration k e)
    | .error _ => none
  if ((s.stn k).stream e).rep.isSome then iter
  else match s.nextInstr k e with
    | .error _ => none
    | .ok d => match d.instr with
      | .rpt _ n a b c => if n ≠ 0 ∧ s.stridesOk k e ((s.stn k).stream e).pc n.toNat a b c then iter else none
      | i => some (i, s.beginInstr k e d)

/-! ### What is waited for -/

/-- A bay that an instruction reads is PENDING (R173). -/
def State.bayWaits (s : State) (a : BitVec 4) : Bool := (s.here.bay a.toNat).st == .pending

/-- The join of `rdv` fails: a copy command issued in an earlier cycle of the block has not completed, or a fabric command has not been
accepted (R171). -/
def State.joinWaits (s : State) (k : Stn) : Bool :=
  let t := s.stn k
  t.ch.any (fun c => c.cmds.any fun m => m.hand == t.trap.inHandler && decide (t.run.base ≤ m.issueNom) && decide (m.issue < s.cyc)) ||
    s.pkg.fab.cmds.any fun c =>
      c.k == k && !c.accepted && c.level == t.run.level && decide (t.run.base ≤ c.issueNom) && decide (c.issue < s.cyc)

/-- The unmet wait of an instruction that `cur` names, with its stall reason and the route tag waited on; an instruction whose operand
checks fail waits for nothing (R138, R171, R173, R181, R247, R266, R271). -/
def State.unmet (s : State) (i : Instr) : Option (Nat × Option Nat) :=
  let on := fun (b : Bool) (r : Nat) => if b then some (r, none) else none
  let res := s.here.run.level == .resident
  match i with
  | .bayrd _ a b _ z =>
    let off := (s.rs b).toNat
    on (decide (off < 256) && off % 2 ^ z.toNat == 0 && s.bayWaits a) 1
  | .mbpost a b =>
    let m := (s.rs a).toNat
    on (res && decide (m < 131072) && bitsOf (s.mailbox m) 62 59 == s.partOf s.cur.k && s.bayWaits b) 1
  | .bcfg a _ t =>
    let x := s.tag t
    on (res && (!bitOf x.ctl 63 || bitsOf x.ctl 61 58 == s.partOf s.cur.k) && s.bayWaits a) 1
  | .cwait c m x => on (s.here.copyWaits c.toNat m.toNat x) 2
  | .cmwait n _ t h v => on (t == 0 && s.here.bitmapWaits n.toNat h v) 2
  | .rdv => on (!s.othersBusy s.cur.k && s.joinWaits s.cur.k) 3
  | .bwait a t => if (s.tag t).waits s.cur.k (s.rs a) false then some (4, some t.toNat) else none
  | .bwaitP a t => if (s.tag t).waits s.cur.k (s.rs a) true then some (4, some t.toNat) else none
  | _ => none

/-- A tap that `cur` names waits for a slack read that has not landed: the read, begun if it was not (R151). -/
def State.slackWaits (s : State) (i : Instr) : Option SlackWait :=
  let after := fun (r : Res) => match r with
    | .next t => if t.stay && t.here.trap.taking.isNone then t.here.tap.slack.bind fun w => if w.ready.isNone then some w else none else none
    | _ => none
  match i with
  | .ltap l n d x => after (execLtap l n d x s)
  | .lfwd l o h => after (execLfwd l o h s)
  | _ => none

/-- The state after a copy command that `cur` names. -/
def State.copyIssued (s : State) (i : Instr) : Option State := match i with
  | .cpy d => some (s.copyCommand 0 none d)
  | .cpyf d x => some (s.copyCommand 1 x d)
  | .cpyt d => some (s.copyCommand 2 none d)
  | .cpyw d => some (s.copyCommand 3 none d)
  | .cpyr d => some (s.copyCommand 4 none d)
  | _ => none

/-- What a stream's wait is tested on: a command that channel 0 would accept in the same cycle counts for copy engine 1 as earlier (R170,
R328). -/
def State.lowerIssued (s : State) (k : Stn) (e : Engine) : State :=
  if e = .copy1 ∧ (s.dueStreams k).contains .copy0 = true then
    match (s.dueInstr k .copy0).bind fun (i, t) => t.copyIssued i with
    | some u => s.onChan k 0 fun _ => u.chan k 0
    | none => s
  else s

/-- The wait of what a stream releases next (R173). -/
def State.waitOf (s : State) (k : Stn) (e : Engine) : Option (Nat × Option Nat) :=
  ((s.lowerIssued k e).dueInstr k e).bind fun (i, t) => if (t.slackWaits i).isSome then some (7, none) else t.unmet i

/-- The slack read that what a stream releases next waits for. -/
def State.slackOf (s : State) (k : Stn) (e : Engine) : Option SlackWait := (s.dueInstr k e).bind fun (i, t) => t.slackWaits i

/-! ### The group -/

/-- A frozen cycle: LAG rises by one (R173). -/
def Station.frozen (t : Station) : Station := { t with run := { t.run with lag := t.run.lag + 1 } }

/-- A station frozen in a wait (R173). -/
def Station.waiting (t : Station) (reason : Nat) (tag : Option Nat) (w : Option SlackWait) : Station :=
  let t := t.frozen
  { t with run := { t.run with stall := reason, waitTag := tag }, tap := if w.isSome then { t.tap with slack := w } else t.tap }

/-- The fault station's next group at task level takes the trap that a record of the fault queue asks for (R383). -/
def State.faultDue (s : State) (k : Stn) : Bool :=
  let q := s.part (s.partOf k)
  bitOf q.fqcfg 63 && bitOf q.fqhead 62 && bitsOf q.fqcfg 46 45 * 96 + bitsOf q.fqcfg 44 38 == k.val && (s.stn k).run.level == .task

/-- The group issues: its instructions are left to be released, and counted (R170, R403). -/
def State.release (s : State) (k : Stn) (es : List Engine) : State :=
  let s := s.onStn k fun t => { t with run := { t.run with stall := 0, waitTag := none } }
  let s := es.foldl (fun s e => if 2 ≤ e.code then s.count (s.partOf k) (8 + e.code) 1 else s) s
  { s with todo := es.map (s.releaseAct k) ++ s.todo }

/-- `ISSUE_GROUP`: R170, R172, R173, R383. The whole group issues, or the station is frozen in this cycle. -/
def execIssueGroup (k : Stn) (s : State) : Res :=
  .next (if (s.stn k).stands then s.onStn k Station.frozen
    else if s.gated k ∧ (s.stn k).pre.st = .saved then (s.onStn k Station.frozen).waitLines k
    else if s.mayIssue k = false then
      (if (s.stn k).held ∨ (s.stn k).pre.st = .restore then s else s.onStn k fun t => { t with run := { t.run with stall := 0 } })
    else if s.faultDue k then
      (s.onPart (s.partOf k) fun q => { q with fqhead := putBit q.fqhead 62 false }).lateTrap k 0x12 0 (s.groupAt k)
    else
      let es := s.dueStreams k
      let t := s.release k es
      match es.filterMap (t.waitOf k) with
      | [] => t
      | (r, tag) :: _ => (s.onStn k fun x => x.waiting r tag (es.findSome? (t.slackOf k))).waitLines k)

end Sys2Proof.Machine
end

