-- ==== Sys2Proof/Machine/Migration.lean ====
section
/-!
DEFINITION. Migration of pages between nodes: the epoch and the parts of a move that concern this package (R117 to R119).
-/

namespace Sys2Proof.Machine

/-- `MIGRATION_EPOCH_START`: R118; counts are cleared. -/
def execMigrationEpochStart (s : State) : Res := .next { s with pkg := { s.pkg with counts := [] } }

/-! ### Leaf entries -/

/-- The address of the leaf entry of a page of an object (R35). -/
def State.leafOf (s : State) (p obj page : Nat) : Option Nat :=
  if bitsOf (s.part p).otcfg 55 34 ≤ obj then none
  else match s.leafAddr (s.descriptor p obj) page with
    | .ok a => some a
    | .error _ => none

/-- A leaf entry is written where its channel does no other access in this cycle, with what goes with it; otherwise nothing happens yet
(R56). -/
def State.putLeaf (s : State) (a e : Nat) (f : State → State) : State :=
  if s.placeTaken (.stack a) then s else f ((s.poke (stackKey (a % 2 ^ 34)) (leBytes 16 e)).serve (.stack a))

/-- A leaf entry that counts n moves in the current epoch: the fourth sets SETTLED (R118, R119). -/
def State.countedLeaf (s : State) (e n : Nat) : Nat := nput (nput (nput e 119 117 n) 116 113 s.epoch) 112 112 (b2n (decide (4 ≤ n)))

/-- The origin leaf after a move to a place (R119). -/
def State.movedLeaf (s : State) (e kind frame : Nat) : Nat :=
  nput (nput (nput (s.countedLeaf e (leafMoves (s.renewed e) + 1)) 109 108 1) 57 56 kind) 55 0 frame

/-- A leaf entry that lets its page start to move (R117, R118). -/
def State.mayMove (s : State) (e : Nat) : Bool :=
  leafPlace e == 2 && leafRes e == 1 && decide (leafMoves e < 4) && !leafSettled e && leafEpoch e == s.epoch

/-- Migration is enabled for a partition here (R117). -/
def State.migrates (s : State) (p : Nat) : Bool := bitOf (s.part p).migcfg 63

/-- The frame address of a page of a peer's migration object (R30). -/
def peerFrame (node obj page : Nat) : Nat := node % 1024 * 2 ^ 46 + obj % 2 ^ 22 * 2 ^ 24 + page % 2 ^ 24

/-! ### Moves under way -/

/-- The move of a page that has come as far as given. -/
def State.moveAt (s : State) (p obj page : Nat) (x : MoveState) : Option PageMove :=
  s.pkg.moves.find? fun v => v.isFor p obj page && v.st == x

/-- A move that has been carried out, or that ended without moving, is no longer under way. -/
def State.moveOver (s : State) (p obj page : Nat) : State :=
  let s := s.dropJobs (.page p obj page)
  { s with pkg := { s.pkg with moves := s.pkg.moves.filter fun v => !v.isFor p obj page } }

/-- Every access that was sent towards the frame of a leaf entry has been answered (R119). -/
def State.frameQuiet (s : State) (e : Nat) : Bool :=
  leafKind e != 3 || s.pkg.fab.unacked.all fun u =>
    u.pkt.dst != leafFrame e / 2 ^ 46 || u.pkt.obj != leafFrame e / 2 ^ 24 % 2 ^ 22 || u.pkt.off / 65536 != leafFrame e % 2 ^ 24

/-- No access to a page is under way here: no part of one has been performed whose others have not (R119). -/
def State.pageQuiet (s : State) (p obj page : Nat) : Bool :=
  s.uops.all fun u => [false, true].all fun w => ((if w then u.dst else u.src).all fun (l : Loc) =>
    let at_ := fun (o : Nat) => (o + descBase (s.descriptor p obj)) / 65536
    u.part != p || l.node != s.nodeId || l.obj != obj || u.pieces.all fun q =>
      let (o, n) := if w then (q.dst, q.dstLen) else (q.src, q.srcLen)
      q.sent == 0 || !u.open_ q w || w != (q.st == .held || q.st == .writing) || decide (page < at_ o) || decide (at_ (o + n - 1) < page))

/-- The reads of a page's frame here, line by line (R48, R56). -/
def State.pageReads (s : State) (e : Nat) : List (Phys × Nat × JobUse) :=
  (List.range 256).map fun i => match leafPhys e (256 * i) with
    | .bank k off => (.bank k (s.remap (stnOf k) .task off), 256, .gather (256 * i))
    | ph => (ph, 256, .gather (256 * i))

/-- The page is in transit: its accesses are held, the ports forget where it lay, and its data are read (R35, R119). -/
def State.startMove (s : State) (p obj page a e : Nat) (reads : List (Phys × Nat × JobUse)) : State :=
  s.putLeaf a (nput e 109 108 3) fun s =>
    let s := { s with pkg := { s.pkg with
      cache := s.pkg.cache.filter fun c => !(c.part == p && c.obj == obj && c.page == page)
      moves := s.pkg.moves.map fun (v : PageMove) => if v.isFor p obj page then { v with st := .leaving } else v } }
    s.addJobs (.page p obj page) (homePort (leafPhys e 0)) p reads

/-- A page stays where it was (R117). -/
def State.endMove (s : State) (p obj page a e : Nat) : State := s.putLeaf a (nput e 109 108 1) fun s => s.moveOver p obj page

/-- The data of a page that have been read go to the node that will hold it (R119). -/
def State.sendPage (s : State) (node p obj page count : Nat) : State :=
  { s with out := s.out ++ [.page node p obj page count (s.gathered (.page p obj page) 0 65536)] }

/-- The oldest free page of MOBJ drawn, with its leaf entry where the page is as R117 wants it. -/
def State.drawPage (s : State) (p : Nat) : Option (Nat × Nat) × State :=
  match (s.part p).migfree with
  | [] => (none, s)
  | page :: r =>
    let s := s.onPart p fun q => { q with migfree := r }
    match s.leafOf p (bitsOf (s.part p).migcfg 53 32) page with
    | none => (none, s)
    | some a =>
      let e := s.stackNat a 16
      (if leafRes e ≠ 0 ∨ leafKind e ≠ 1 ∨ s.leafBad p e = true then none else some (page, a), s)

/-- The data of a page that comes here are written into a stack frame, line by line (R119). -/
def State.fillFrame (s : State) (p obj page node frame count : Nat) (st : MoveState) (data : List Byte) : State :=
  let m : PageMove := ⟨p, obj, page, node, st, frame, count⟩
  let s := { s with pkg := { s.pkg with moves := s.pkg.moves.filter (fun (v : PageMove) => !v.isFor p obj page) ++ [m] } }
  s.addJobs (.page p obj page) (homePort (.stack (frame * 65536))) p (storeJobs (frame * 65536) (data.take 65536) false)

/-! ### The parts of a move -/

/-- A page of this package's own table moves from a frame here to a peer: first it is in transit and its data are read; then they go, and
the vacated frame is reported. A move to this node itself is one that ended without moving (R119, R400). -/
def State.moveOut (s : State) (p obj page node dobj dpage : Nat) : State :=
  match s.leafOf p obj page with
  | none => s.moveOver p obj page
  | some a =>
    let e := s.stackNat a 16
    if (s.moveAt p obj page .leaving).isSome then
      if s.jobsDone (.page p obj page) = false then s
      else if node = s.nodeId then s.endMove p obj page a e
      else s.putLeaf a (s.movedLeaf e 3 (peerFrame node dobj dpage)) fun s =>
        (((s.sendPage node p obj page (leafMoves (s.movedLeaf e 3 0))).telemetry p 0 s.cyc (telWord 7 0 0 0x7F 0 0) (leafFrame e)
          s.nodeId)).moveOver p obj page
    else if (s.moveAt p obj page .due).isNone then s
    else if 2 ≤ leafKind e ∨ s.migrates p = false ∨ s.mayMove e = false then s.moveOver p obj page
    else if s.pageQuiet p obj page then s.startMove p obj page a e (s.pageReads e)
    else s

/-- A page arrives: its data go into the oldest free page of MOBJ, where that page is as R117 wants it, and otherwise nothing moves; once
they are written, the page is resident there, and its leaf entry shows the moves of the epoch as the origin's does and keeps every other
field (R118, R119; log entry 67). -/
def State.moveIn (s : State) (p obj page node count : Nat) (data : List Byte) : State :=
  let mobj := bitsOf (s.part p).migcfg 53 32
  if data = [] then
    match s.moveAt p obj page .arriving, s.leafOf p obj page with
    | some v, some a =>
      if s.jobsDone (.page p obj page) then
        s.putLeaf a (nput (s.countedLeaf (s.stackNat a 16) v.count) 109 108 1) fun s => s.moveOver p obj page
      else s
    | _, _ => s
  else if s.migrates p = false then s
  else match s.drawPage p with
    | (none, s) => s
    | (some (free, a), s) => s.fillFrame p mobj free node (leafFrame (s.stackNat a 16)) (min count 4) .arriving data

/-- A page that this package holds for a peer, and whose counts have triggered a move, moves away: it is in transit while its data are
read; then they go, and its MOBJ page is free again (R117 to R119). -/
def State.moveAway (s : State) (p obj page node : Nat) : State :=
  match s.leafOf p obj page with
  | none => s.moveOver p obj page
  | some a =>
    let e := s.stackNat a 16
    if (s.moveAt p obj page .leaving).isSome then
      if s.jobsDone (.page p obj page) = false then s
      else s.putLeaf a (nput e 109 108 0) fun s =>
        let s := (s.sendPage node p obj page (leafMoves (s.renewed e) + 1)).moveOver p obj page
        s.onPart p fun q => if 64 ≤ q.migfree.length then { q with migovf := true } else { q with migfree := q.migfree ++ [page] }
    else if (s.moveAt p obj page .due).isNone then s
    else if s.migrates p = false ∨ s.mayMove e = false then s.moveOver p obj page
    else if s.pageQuiet p obj page then s.startMove p obj page a e (s.pageReads e)
    else s

/-- A page of this package's own table moves from one peer to another, or returns to the frame of a free page here: first it is in transit;
then, once every access sent to its holder is answered, it has moved, or its data are written here first (R118, R119). -/
def State.moveElsewhere (s : State) (p obj page node dobj dpage : Nat) (data : List Byte) : State :=
  match s.leafOf p obj page with
  | none => s.moveOver p obj page
  | some a =>
    let e := s.stackNat a 16
    if leafKind e ≠ 3 then s
    else match s.moveAt p obj page .returning with
    | some v =>
      if s.jobsDone (.page p obj page) then s.putLeaf a (s.movedLeaf e 1 v.frame) fun s => s.moveOver p obj page else s
    | none =>
      if leafRes e = 3 then
        if s.frameQuiet e = false then s
        else if node ≠ s.nodeId then s.putLeaf a (s.movedLeaf e 3 (peerFrame node dobj dpage)) fun s => s.moveOver p obj page
        else if data = [] then s
        else match s.drawPage p with
          | (none, s) => s.endMove p obj page a e
          | (some (_, b), s) => s.fillFrame p obj page node (leafFrame (s.stackNat b 16)) 0 .returning data
      else if s.mayMove (s.renewed e) && (node != s.nodeId || s.migrates p) then s.startMove p obj page a (s.renewed e) []
      else s

/-- `MIGRATION_MOVE`: R117 to R119. The part of a move that concerns this package: 0 from the origin here, 1 to here, 2 away from the
holder here, 3 between other places, for a page whose origin is here. Each takes two such steps and the line accesses between them; of a
page that arrives, dobj is the number of its moves in the epoch, and a step without data goes on with what is under way (log entry
67). -/
def execMigrationMove (role p obj page node dobj dpage : Nat) (data : List Byte) (s : State) : Res :=
  .next (match role with
    | 0 => s.moveOut p obj page node dobj dpage
    | 1 => s.moveIn p obj page node dobj data
    | 2 => s.moveAway p obj page node
    | _ => s.moveElsewhere p obj page node dobj dpage data)

/-! ### Steps of moves under way -/

/-- The next step of each move under way here, with the leaf entry that it writes; the other node, and the page that it draws there, are
free (R119). -/
def State.moveSteps (s : State) : List (Instr × Option Nat) × State :=
  let (x, t) := s.draw
  (s.pkg.moves.map fun v =>
    let home := v.st != .arriving && v.obj == bitsOf (s.part v.part).migcfg 53 32
    let role := match v.st with
      | .arriving => 1
      | .returning => 3
      | _ => if home then 2 else 0
    (.migrationMove role v.part v.obj v.page (if role = 0 ∧ x / 2 ^ 46 % 2 = 1 then s.nodeId else v.node) (x % 2 ^ 22) (x / 2 ^ 22 % 2 ^ 24) [],
      s.leafOf v.part v.obj v.page), t)

end Sys2Proof.Machine
end

