-- ==== Sys2Proof/Machine/Signals.lean ====
section
/-!
DEFINITION. The signal unit: when a signal may fire, what it does, and its flag store (R112, R192, R264, R391, R393).
-/

namespace Sys2Proof.Machine

/-! ### When a signal may fire -/

/-- The place of a line access as a translation finds it. -/
def TPart.place (p : TPart) : Walked := .at_ (if p.stack then .stack p.line else .bank p.bank.val p.line) 0 0

/-- A line access writes. -/
def TOp.writes : TOp → Bool
  | .write .. => true
  | .atomic _ => true
  | _ => false

/-- A timed write issued in a cycle before c, and not performed, lies in the home region of a scope (R112). -/
def State.timedWrites (s : State) (k : Stn) (scope c : Nat) : Bool :=
  s.txns.any fun x => x.k == k && decide (x.issue < c) &&
    x.parts.any fun p => p.op.writes && (p.st == .sent || p.st == .atPort) && inRegion k scope p.place

/-- A store-queue operation issued in a cycle before c has a write to be performed in the home region of a scope (R112). -/
def State.untimedWrites (s : State) (k : Stn) (scope c : Nat) : Bool :=
  s.uops.any fun u => u.k == k && decide (u.wq < 8) && decide (u.issue < c) && (s.pendingPlaces u true).any fun x => inRegion k scope x.1

/-- The oldest signal of a station may fire: it was issued in an earlier cycle, R112 holds it no longer, and the channel of its entry in
the exposure log is free (R59, R391). -/
def State.sigReady (s : State) (k : Stn) : Option Sig :=
  match (s.stn k).sigs with
  | [] => none
  | g :: _ =>
    if g.issue < s.cyc ∧ !(s.timedWrites k g.scope g.issue || s.untimedWrites k g.scope g.issue || s.logTaken k) then
      some g
    else none

/-! ### Firing -/

/-- A task-done slot rises by one; predecessor checks see it from the 24th cycle on (R192). -/
def Partition.fire (q : Partition) (slot cyc : Nat) : Partition :=
  let n := ((q.done.find? (·.1 == slot)).map (·.2)).getD 0
  { q with
    done := q.done.filter (·.1 != slot) ++ [(slot, n + 1)]
    doneDue := (q.doneDue.filter fun x => decide (cyc < x.1)) ++ [(cyc + 24, slot)] }

/-- The exposed operation of a completion (R391, log entry 33). -/
def State.sigExposed (s : State) (g : Sig) : Exposed := ⟨s.nodeId, 0, 0, 0, 0x1A, g.scope, false, crc32 []⟩

/-- The exposed operation with which a flag store of a count leaves the package, where it does (R264, R391). -/
def State.flagExposed (s : State) (k : Stn) (c : Cap) (n : Nat) : Option Exposed :=
  let crc := crc32 (leBytes 8 n)
  if c.node ≠ s.nodeId then some ⟨c.node, c.cursor, c.obj, 8, 3, 4, false, crc⟩
  else match s.look (s.partOf k) c.obj c.cursor 8 with
    | .at_ (.peer node obj off) _ _ => some ⟨node, off, obj, 8, 3, 4, false, crc⟩
    | .at_ (.host a) _ _ => some ⟨s.nodeId, a, 0, 8, 1, 4, true, crc⟩
    | _ => none

/-- The count with which a flag store stands in what is left of the log during replay: the count of its first firing (R393; log entry
135). -/
def State.loggedCount (s : State) (k : Stn) (c : Cap) : Option Nat :=
  let v := (s.stn k).trap.exlst
  (List.range (bitsOf v 20 0 - bitsOf v 41 21)).findSome? fun i =>
    let a := s.logAt k (bitsOf v 41 21 + i)
    let w1 := s.stackNat (a + 8) 8
    (List.range 65536).find? fun n => (s.flagExposed k c n).any fun x =>
      x.words == (s.stackNat a 8, w1 - nbits w1 31 16 * 2 ^ 16, s.stackNat (a + 16) 8)

/-- What a replayed completion repeats: its flag store to a peer or to the host, as it was logged, or, where the log does not hold it and
has ended, with the count as it stands (R393; log entry 135). -/
def State.replayFlag (s : State) (k : Stn) (g : Sig) (now : Nat) : State :=
  let put := fun (n : Nat) => s.onStn k fun t => { t with flagStores := t.flagStores ++ [(g, n)] }
  if g.form ≠ 2 ∨ (s.flagExposed k g.cap 0).isNone then s
  else match s.loggedCount k g.cap with
    | some n => put n
    | none => if bitOf (s.stn k).trap.exlst 62 then s else put now

/-- A signal fires: the slot rises, the semaphore is raised, and a flag store follows; a completion that is replayed counts as fired
(R264, R393). -/
def State.fireSig (s : State) (k : Stn) (g : Sig) : State :=
  let p := s.partOf k
  let slot := bitsOf (s.stn k).sys.tskcur 11 0
  let s := s.onStn k fun t => { t with sigs := t.sigs.drop 1 }
  let (x, s) := s.expose k (s.sigExposed g) 0
  let count := fun (s : State) => (((s.part p).done.find? (·.1 == slot)).map (·.2)).getD 0
  match x with
  | .diverged => s
  | .again .. => s.replayFlag k g (count s).toNat
  | .fresh _ =>
    let s := s.onPart p fun q => q.fire slot s.cyc
    let n := count s
    if g.form = 1 then s.onStn k fun t => t.raise (g.n % 64)
    else if g.form = 2 then s.onStn k fun t => { t with flagStores := t.flagStores ++ [(g, n.toNat)] }
    else s

/-- `SIG_FIRE`: R112, R192, R264, R391, R393. -/
def execSigFire (k : Stn) (s : State) : Res :=
  .next (match s.sigReady k with
    | none => s
    | some g => s.fireSig k g)

/-! ### Flag stores -/

/-- The flag store at the head of a station's list may start: the one before it has been performed. -/
def State.flagReady (s : State) (k : Stn) : Option (Sig × Nat) :=
  if s.uops.any fun u => u.k == k && u.owner == .flag then none else (s.stn k).flagStores.head?

/-- `SIG_FLAG_STORE`: R264. The store is left to the memory port or to the fabric engine, at the level of the `sig` (R195). -/
def execSigFlagStore (k : Stn) (s : State) : Res :=
  .next (match s.flagReady k with
    | none => s
    | some (g, n) =>
      let s := s.onStn k fun t => { t with flagStores := t.flagStores.drop 1 }
      let s := { s with cur := ⟨k, .conductor, 0, 0, 1, none⟩ }
      let c := g.cap
      s.enqueue { s.newUOp .flag with
        issue := g.issue, level := g.level, dst := some ⟨c.node, c.obj, 0⟩
        pieces := [{ UPiece.plain 0 c.cursor 8 0 (leBytes 8 n) with st := .held }] })

end Sys2Proof.Machine
end

