-- ==== Sys2Proof/Machine/Service.lean ====
section
/-!
DEFINITION. What the service processor does: measured boot, attestation, firmware, power, fencing, and the start and the end of a
partition (R17, R39, R67 to R69, R188, R396, R404 to R409).
-/

namespace Sys2Proof.Machine

/-! ### SHA-256 (FIPS 180-4), which R404 and R405 name -/

/-- The round constants. -/
def shaK : List Nat :=
  [0x428A_2F98, 0x7137_4491, 0xB5C0_FBCF, 0xE9B5_DBA5, 0x3956_C25B, 0x59F1_11F1, 0x923F_82A4, 0xAB1C_5ED5] ++
  [0xD807_AA98, 0x1283_5B01, 0x2431_85BE, 0x550C_7DC3, 0x72BE_5D74, 0x80DE_B1FE, 0x9BDC_06A7, 0xC19B_F174] ++
  [0xE49B_69C1, 0xEFBE_4786, 0x0FC1_9DC6, 0x240C_A1CC, 0x2DE9_2C6F, 0x4A74_84AA, 0x5CB0_A9DC, 0x76F9_88DA] ++
  [0x983E_5152, 0xA831_C66D, 0xB003_27C8, 0xBF59_7FC7, 0xC6E0_0BF3, 0xD5A7_9147, 0x06CA_6351, 0x1429_2967] ++
  [0x27B7_0A85, 0x2E1B_2138, 0x4D2C_6DFC, 0x5338_0D13, 0x650A_7354, 0x766A_0ABB, 0x81C2_C92E, 0x9272_2C85] ++
  [0xA2BF_E8A1, 0xA81A_664B, 0xC24B_8B70, 0xC76C_51A3, 0xD192_E819, 0xD699_0624, 0xF40E_3585, 0x106A_A070] ++
  [0x19A4_C116, 0x1E37_6C08, 0x2748_774C, 0x34B0_BCB5, 0x391C_0CB3, 0x4ED8_AA4A, 0x5B9C_CA4F, 0x682E_6FF3] ++
  [0x748F_82EE, 0x78A5_636F, 0x84C8_7814, 0x8CC7_0208, 0x90BE_FFFA, 0xA450_6CEB, 0xBEF9_A3F7, 0xC671_78F2]

/-- The initial hash value. -/
def shaH : List Nat := [0x6A09_E667, 0xBB67_AE85, 0x3C6E_F372, 0xA54F_F53A, 0x510E_527F, 0x9B05_688C, 0x1F83_D9AB, 0x5BE0_CD19]

/-- A word turned right by n bits. -/
def rotr (w : Word) (n : Nat) : Word := w.rotateRight n

/-- The number that some bytes spell, the first byte highest. -/
def beNat (bs : List Byte) : Nat := leNat bs.reverse

/-- The message padded to whole blocks of 64 bytes. -/
def shaPad (bs : List Byte) : List Byte :=
  bs ++ [0x80] ++ List.replicate ((119 - bs.length % 64) % 64) 0 ++ (leBytes 8 (bs.length * 8)).reverse

/-- The message schedule with n further words; the last 16 words of the list decide the next. -/
def shaSchedule : Nat → List Word → List Word
  | 0, w => w
  | n + 1, w =>
    let at_ := fun (i : Nat) => w.getD (w.length - i) 0
    let s0 := rotr (at_ 15) 7 ^^^ rotr (at_ 15) 18 ^^^ (at_ 15 >>> 3)
    let s1 := rotr (at_ 2) 17 ^^^ rotr (at_ 2) 19 ^^^ (at_ 2 >>> 10)
    shaSchedule n (w ++ [at_ 16 + s0 + at_ 7 + s1])

/-- The working variables after a round. -/
def shaRound (v : List Word) (kw : Word) : List Word :=
  let x := fun (i : Nat) => v.getD i 0
  let s1 := rotr (x 4) 6 ^^^ rotr (x 4) 11 ^^^ rotr (x 4) 25
  let ch := (x 4 &&& x 5) ^^^ (~~~(x 4) &&& x 6)
  let t1 := x 7 + s1 + ch + kw
  let s0 := rotr (x 0) 2 ^^^ rotr (x 0) 13 ^^^ rotr (x 0) 22
  let maj := (x 0 &&& x 1) ^^^ (x 0 &&& x 2) ^^^ (x 1 &&& x 2)
  [t1 + s0 + maj, x 0, x 1, x 2, x 3 + t1, x 4, x 5, x 6]

/-- The hash value after a block. -/
def shaBlock (h : List Word) (blk : List Byte) : List Word :=
  let w := shaSchedule 48 ((List.range 16).map fun i => BitVec.ofNat 32 (beNat ((blk.drop (4 * i)).take 4)))
  let v := ((shaK.zip w).map fun (k, x) => BitVec.ofNat 32 k + x).foldl shaRound h
  h.zipWith (· + ·) v

/-- The hash value after n blocks. -/
def shaBlocks : Nat → List Word → List Byte → List Word
  | 0, h, _ => h
  | n + 1, h, bs => shaBlocks n (shaBlock h (bs.take 64)) (bs.drop 64)

/-- The SHA-256 digest of some bytes: 32 bytes. -/
def sha256 (bs : List Byte) : List Byte :=
  let m := shaPad bs
  (shaBlocks (m.length / 64) (shaH.map (BitVec.ofNat 32)) m).flatMap fun w => (leBytes 4 w.toNat).reverse

/-! ### Boot, attestation and firmware -/

/-- The service processor changed. -/
def State.onSvc (s : State) (f : Service → Service) : State := { s with pkg := { s.pkg with svc := f s.pkg.svc } }

/-- A measurement register extended by the digest of an image (R404). -/
def extend (m img : List Byte) : List Byte := sha256 (m ++ sha256 img)

/-- Register i of the service processor extended by an image. -/
def Service.measure (v : Service) (i : Nat) (img : List Byte) : Service :=
  { v with
    measures := v.measures.zipIdx.map fun (m, j) => if j = i then extend m img else m
    images := v.images ++ [(i, img)] }

/-- A power state entered and reported to the host (R408, R409). -/
def State.toPower (s : State) (n : Nat) : State :=
  let s := s.onSvc fun v => { v with power := BitVec.ofNat 64 n }
  { s with out := s.out ++ [.power n] }

/-- `BOOT`: R187, R358, R404, R409. The images of the chain are measured in order, M0 first, each register from 32 zero bytes on; NODEID and
the planes that come up are set; a power state that ends is reported. -/
def execBoot (images : List (List Byte)) (node planes : Nat) (s : State) : Res :=
  let v : Service := { s.pkg.svc with node := node % 1024, measures := List.replicate 18 (List.replicate 32 0), images := [] }
  let v := images.zipIdx.foldl (fun (v : Service) (img, i) => v.measure i img) v
  let s := (s.onSvc fun _ => v).onFab fun f => { f with fplane := putBits f.fplane 15 0 planes }
  .next (if s.pkg.svc.power = 0 then s else s.toPower 0)

/-- The report of an attestation (R405). -/
def Service.report (v : Service) (nonce : List Byte) (parts : List Nat) : List Byte :=
  let m := fun (i : Nat) => v.measures.getD i []
  nonce ++ m 0 ++ m 1 ++ parts.flatMap (fun p => m (2 + p % 16)) ++ Config.serial

/-- `ATTESTATION_REQUEST`: R405. -/
def execAttestationRequest (nonce : List Byte) (parts : List Nat) (s : State) : Res :=
  let r := s.pkg.svc.report nonce parts
  .next { s with out := s.out ++ [.attest r (Config.sign (sha256 r))] }

/-- Every team of a cluster is pre-empted (R396). -/
def State.clusterQuiet (s : State) (cl : Nat) : Bool := allStns.all fun k => clusterOf k != cl || s.stopped k

/-- The memory port of a cluster is fenced: what other clusters ask of it is held (R396). -/
def State.portFenced (s : State) (cl : Nat) : Bool := s.pkg.svc.fenced.contains (1, cl) && s.clusterQuiet cl

/-- A fenced unit does nothing any more, so that an image may be activated on it: its team has stopped, its cluster's teams are pre-empted,
its plane is down, or the package has left the ring (R396, R406; log entry 153). -/
def State.unitStopped (s : State) (u : Nat × Nat) : Bool := match u.1 with
  | 0 => (s.team (u.2 / 2048) (u.2 % 2048)).all s.stopped
  | 1 => s.clusterQuiet u.2
  | 2 => !bitOf s.pkg.fab.fplane (u.2 % 16)
  | 3 => !s.pkg.ring.up
  | _ => true

/-- The fence of a unit ends: a plane is up again, and the stations of a team that have saved their image are restored (R396). -/
def State.unfence (s : State) (kind unit : Nat) : State :=
  let s := s.onSvc fun v => { v with fenced := v.fenced.filter (· != (kind, unit)) }
  match kind with
  | 0 => ((s.team (unit / 2048) (unit % 2048)).filter fun k => (s.stn k).pre.st == .saved).foldl (fun s k =>
      s.startRestore k (BitVec.ofNat 64 (bitsOf (s.stn k).sys.savcfg 12 0 + bitsOf (s.stn k).sys.banksel 1 1 * 2 ^ 62))) s
  | 2 => s.onFab fun f => { f with fplane := putBit f.fplane (unit % 16) true }
  | _ => s

/-- `FIRMWARE_ACTIVATION`: R406. An image is staged and measured; then it is activated on one fenced unit at a time, once that unit has
stopped. A unit that fails stays
fenced until an image is staged again. -/
def execFirmwareActivation (image : Firmware) (failed : Bool) (s : State) : Res :=
  .next (match image.unit with
    | none => s.onSvc fun v => { v.measure 0 image.image with pendingFw := some image.image, failedFw := [] }
    | some u =>
      let v := s.pkg.svc
      if v.fenced.contains u = false ∨ s.unitStopped u = false ∨ v.pendingFw ≠ some image.image ∨ v.failedFw.contains u = true then s
      else if failed then s.onSvc fun v => { v with failedFw := v.failedFw ++ [u] }
      else s.unfence u.1 u.2)

/-! ### Power -/

/-- The teams of the package that run, each with its partition (R186). -/
def State.allTeams (s : State) : List (Nat × Nat) :=
  ((allStns.filter fun k => (s.stn k).run.on).map fun k => (s.partOf k, s.teamNo k)).eraseDups

/-- Every running team that a test picks is pre-empted (R201, R408). -/
def State.preemptTeams (s : State) (f : Nat → Bool) : State :=
  (s.allTeams.filter fun x => (s.team x.1 x.2).any fun k => (s.stn k).pre.st == .run).zipIdx.foldl
    (fun s ((p, t), i) => if f i then s.requestPreempt p t false else s) s

/-- The power state that a temperature asks for (R409). -/
def powerAt (temp : Nat) : Nat := if 115 ≤ temp then 4 else if 105 ≤ temp then 2 else if 95 ≤ temp then 1 else 0

/-- The power state after a reading: it rises to what the temperature asks for. Where it falls to again, from CAPPED only below 92 °C,
and whether IDLE turns into RETAIN, is a free choice; RETAIN and OFF end at boot (R408, R409; log entry 39). -/
def powerNext (old temp x : Nat) : Nat :=
  let lo := if old ≠ 0 ∧ 92 ≤ temp then max 1 (powerAt temp) else powerAt temp
  if old < lo then lo
  else if 3 ≤ old then old
  else if old = 2 ∧ x % 2 = 1 then 3
  else lo + x / 2 % (old - lo + 1)

/-- The package leaves the ring by bypass, at a frame boundary that the service processors choose (R163, R396, R408, R409; log entry
39). -/
def State.leaveRing (s : State) : State :=
  if s.pkg.ring.up then
    let (x, s) := s.draw
    let f := s.nextFrame + 1 + x
    let s := s.onRing fun g => { g with transition := some (6, f) }
    { s with out := s.out ++ [.bypass 0 f] }
  else s

/-- The stations off, and the package out of the ring (R408, R409). -/
def State.turnOff (s : State) : State :=
  let off := fun (t : Station) => { t with run := { t.run with on := false } }
  ({ s with stns := s.stns.map off, txns := [], uops := [], markers := [], pkg := { s.pkg with jobs := [], lines := [] } } : State).leaveRing

/-- `THERMAL_THRESHOLD`: R408, R409. In CAPPED each reading of 92 °C or more lowers the cap by a step; which teams are above it is a free
choice. -/
def execThermalThreshold (temp : Nat) (s : State) : Res :=
  let old := s.pkg.svc.power.toNat
  let (x, s) := s.draw
  let new := powerNext old temp x
  let s := if new = old then s else s.toPower new
  .next (match new with
    | 0 => s
    | 1 => if 92 ≤ temp then s.preemptTeams (x / 2 ^ 16).testBit else s
    | 2 => s.preemptTeams fun _ => true
    | _ => if new = old then s else s.turnOff)

/-! ### Fencing -/

/-- A unit noted as fenced (R396). -/
def State.fence_ (s : State) (kind unit : Nat) : State := s.onSvc fun v => { v with fenced := v.fenced.filter (· != (kind, unit)) ++ [(kind, unit)] }

/-- `UNIT_FENCING`: R396. Kind 0 pre-empts team `unit % 2048` of partition `unit / 2048`; 1 holds a memory port while its cluster's teams are
pre-empted; 2 takes a fabric plane down; 3 is this ring member: the package leaves the ring by bypass. -/
def execUnitFencing (kind unit : Nat) (s : State) : Res :=
  let s' := s.fence_ kind unit
  .next (match kind with
    | 0 => s'.requestPreempt (unit / 2048) (unit % 2048) false
    | 1 => if s.clusterQuiet unit then s' else s
    | 2 => s'.onFab fun f => { f with fplane := putBit f.fplane (unit % 16) false }
    | _ => s'.leaveRing)

/-! ### The start of a partition -/

/-- The clusters that a partition holds wholly (R67). -/
def ownedClusters (stns : List Stn) : List Nat :=
  (List.range 4).filter fun c => allStns.all fun k => clusterOf k != c || stns.contains k

/-- The physical clusters of the owned clusters, drawn from the pool (R69). -/
def drawClusters : Nat → List Nat → List Nat → List (Nat × Nat)
  | _, [], _ => []
  | m, c :: r, pool =>
    let j := m % pool.length
    (c, pool.getD j 0) :: drawClusters (m / pool.length) r (pool.eraseIdx j)

/-- `placement` (R69): pcl and rot of the four clusters. -/
def placement (seed ctl : DWord) (owned : List Nat) : List Nat × List Nat :=
  let task := bitsOf ctl 15 0
  let g := fun (e : Nat) => (cg seed 0xFFFF task e).toNat / 2 ^ 40
  if bitOf ctl 63 then
    let l := drawClusters (g 0) owned owned
    ((List.range 4).map fun c => ((l.find? (·.1 == c)).map (·.2)).getD c,
     (List.range 4).map fun c => if owned.contains c then g (1 + c) % 8 else 0)
  else ([0, 1, 2, 3], [0, 0, 0, 0])

/-- f0: the first frame that starts at least 4,096 cycles from now (R188). -/
def State.firstFrame (s : State) : Nat := (s.cyc + 4096 + 2047 - s.phase) / 2048

/-- A station of a partition that starts: its reset state, its root capability in c0, CODECFG with its reserved bits zero, and the cycle in
which block 0 starts. How the first object table comes to stand in the stack the manual does not say: c0's LIMIT is the LENGTH of
whatever descriptor 1 stands there (R4, R17, R165, R188; log entry 115). -/
def State.freshStation (s : State) (p : Nat) (cfg : PartCfg) : Station :=
  let t := Station.reset
  let root := Cap.make s.nodeId 1 0x7F (descLen (s.descriptor p 1)) 0 true
  { t.setCreg 0 root with
    sys := { t.sys with codecfg := cfg.codecfg &&& 0xFFFF_0000_000F_FFF8#64 }
    run := { t.run with on := true, part := p, startAt := some (s.fs s.firstFrame - 1) } }

/-- The resident program loaded, and block 0 fetched into the standby half at resident level (R188, R189). -/
def State.loadProgram (s : State) (p : Nat) (cfg : PartCfg) (k : Stn) : State :=
  let s := s.setStn k (s.freshStation p cfg)
  let s := cfg.program.foldl (fun s (o, b) => s.poke (bankKey k.val (o % 2 ^ 20)) [b]) s
  let s := s.readEntry k 0
  if s.blockOk k 0 then
    let s := (s.beginFetch k 0).onStn k fun t =>
      { t with run := { t.run with fetch := t.run.fetch.map fun (f : Fetch) => { f with res := true } } }
    s.fetchAll k 4097
  else s

/-- The registers of a partition that starts, their reserved bits zero (R4, R25, R39, R68, R69). -/
def State.freshPart (s : State) (cfg : PartCfg) : Partition :=
  let (pcl, rot) := placement cfg.plseed cfg.plctl (ownedClusters cfg.stns)
  { Partition.reset with
    on := true, otcfg := cfg.otcfg &&& 0x00FF_FFFF_FFFF_8000#64, pstk := cfg.pstk &&& 0x0003_FFFF_0003_FFFF#64, plseed := cfg.plseed
    plctl := cfg.plctl &&& 0x8000_0000_0000_FFFF#64, pcl := pcl, rot := rot, bindings := cfg.bindings, f0 := s.firstFrame }

/-- A partition other than p that runs and that a test picks holds a unit. -/
def State.heldByOther (s : State) (p : Nat) (f : Nat → Bool) : Bool := (List.range 16).any fun q => q != p && (s.part q).on && f q

/-- The package's units given to a partition, but for those that another running partition holds (R4, R132, R190, R346, R372, R407). -/
def State.giveUnits (s : State) (p : Nat) (cfg : PartCfg) : State :=
  let chs := cfg.channels.filter fun ch => !s.heldByOther p fun q => (s.part q).channels.contains ch
  let slots := cfg.slots.filter fun n => !s.heldByOther p fun q => (s.slot n).part == some q
  let boxes := cfg.mailboxes.filter fun m =>
    !s.heldByOther p fun q => s.pkg.boxes.any fun b => b.idx == m && bitsOf b.cfg 62 59 == q
  let s := s.onPart p fun q => { q with channels := chs }
  let s := chs.foldl (fun s ch => s.onBt ch fun _ => { BtChan.reset with ctl := putBits 0 59 56 p }) s
  let s := slots.foldl (fun s n => s.onSlot n fun _ => { GSlot.reset with part := some p }) s
  let s := boxes.foldl (fun s m => s.setMailbox m (putBits 0 62 59 p)) s
  let s := if cfg.ringManager then s.onRing fun g => { g with manager := some p } else s
  if bitOf cfg.hwin 63 then s.onHost fun h => { h with hwin := cfg.hwin &&& 0x8F00_0000_003F_FFFF#64 } else s

/-- The image of a resident program measured before control is handed to it, unless it has been since boot (R404; log entry 152). -/
def Service.measureProgram (v : Service) (p : Nat) (cfg : PartCfg) : Service :=
  let img := cfg.program.map (·.2)
  if v.images.contains (2 + p, img) then v else v.measure (2 + p) img

/-- `PARTITION_START`: R17, R39, R67 to R69, R188, R190, R404, R407. A package at or above CAPPED starts no partition (R408). -/
def execPartitionStart (p : Nat) (cfg : PartCfg) (s : State) : Res :=
  .next (if (s.part p).on ∨ s.pkg.svc.power ≠ 0 then s
    else
      let s := s.onSvc fun v => v.measureProgram (p % 16) cfg
      let s := (s.onPart p fun _ => s.freshPart cfg).giveUnits (p % 16) cfg
      (cfg.stns.filter fun k => !(s.stn k).run.on).foldl (fun s k => s.loadProgram (p % 16) cfg k) s)

/-! ### The end of a partition -/

/-- The stations of a partition. -/
def State.stnsOf (s : State) (p : Nat) : List Stn := allStns.filter fun k => (s.stn k).run.on && (s.stn k).run.part == p

/-- The coachman's entries of a partition's teams dropped (R154, R155). -/
def State.dropTables (s : State) (p : Nat) : State :=
  (List.range 4).foldl (fun s cl => s.onCoachman cl fun c =>
    { c with
      waybill := c.waybill.filter fun x => c.wayPart x.1 != p || !wbV x.2
      records := c.records.filter fun x => c.recPart x.1 != p || !crV x.2
      writes := c.writes.filter (·.part != p), frames := c.frames.filter (·.part != p) }) s

/-- A unit's line accesses are for a partition, or for one of its stations (R407). -/
def JobOwner.isOf (p : Nat) (ks : List Stn) : JobOwner → Bool
  | .station k => ks.contains k
  | .log k => ks.contains k
  | .page q _ _ => q == p

/-- The units of a partition taken back, and the records that await their append for it dropped (R132, R179, R190, R346, R372, R407). -/
def State.takeUnits (s : State) (p : Nat) : State :=
  { s with pkg := { s.pkg with
      bt := s.pkg.bt.mapFinIdx fun i (b : BtChan) _ => if (s.part p).channels.contains i then BtChan.reset else b
      graphs := s.pkg.graphs.map fun (g : GSlot) => if g.part = some p then GSlot.reset else g
      tags := s.pkg.tags.map fun (x : RouteTag) => if bitOf x.ctl 63 && bitsOf x.ctl 61 58 == p then RouteTag.reset else x
      boxes := s.pkg.boxes.filter fun (b : Mailbox) => bitsOf b.cfg 62 59 != p
      posts := s.pkg.posts.filter fun x => bitsOf (s.mailbox x.1) 62 59 != p
      records := s.pkg.records.filter (·.part != p)
      ring := { s.pkg.ring with manager := if s.pkg.ring.manager = some p then none else s.pkg.ring.manager }
      hostl := if bitsOf s.pkg.hostl.hwin 59 56 = p then { s.pkg.hostl with hwin := 0 } else s.pkg.hostl
      rollbacks := s.pkg.rollbacks.filter (·.1 != p), moves := s.pkg.moves.filter (·.part != p)
      counts := s.pkg.counts.filter (·.part != p), cache := s.pkg.cache.filter (·.part != p) } }

/-- The work of some stations dropped. -/
def State.dropWork (s : State) (p : Nat) (ks : List Stn) : State :=
  let mine := fun (k : Stn) => ks.contains k
  { s with
    txns := s.txns.filter fun x => !mine x.k
    uops := s.uops.filter fun (u : UOp) => u.part != p
    markers := s.markers.filter fun m => !mine m.k
    pkg := { s.pkg with
      redirects := s.pkg.redirects.filter fun (r : Redirect) => !mine r.stn
      jobs := s.pkg.jobs.filter fun j => j.part != p && !j.owner.isOf p ks
      lines := s.pkg.lines.filter fun g => !g.owner.isOf p ks
      fab := { s.pkg.fab with
        cmds := s.pkg.fab.cmds.filter fun c => !mine c.k
        serving := s.pkg.fab.serving.filter fun x => s.uops.any fun u => u.id == x.1 && u.part != p } } }

/-- `PARTITION_END`: R39, R188. Its stations run no more, its bindings end, and its units are free. -/
def execPartitionEnd (p : Nat) (s : State) : Res :=
  let q := p % 16
  .next (if (s.part q).on = false then s
    else
      let ks := s.stnsOf q
      let s := ((s.dropTables q).takeUnits q).dropWork q ks
      (ks.foldl (fun s k => s.setStn k Station.reset) s).onPart q fun _ => Partition.reset)

end Sys2Proof.Machine
end

