-- ==== Sys2Proof/Machine/Dispatch.lean ====
section
/-! DEFINITION. The meaning of every row of the opcode table: one arm per constructor of Instr, each one direct call. -/

namespace Sys2Proof.Machine

def exec (i : Instr) (s : State) : Host.Outcome State Fault Refusal :=
  match i with
  | .add d a b => Sys2Proof.Machine.execAdd d a b s
  | .sub d a b => Sys2Proof.Machine.execSub d a b s
  | .mul d a b => Sys2Proof.Machine.execMul d a b s
  | .mulh d a b => Sys2Proof.Machine.execMulh d a b s
  | .mulhu d a b => Sys2Proof.Machine.execMulhu d a b s
  | .div d a b => Sys2Proof.Machine.execDiv d a b s
  | .divu d a b => Sys2Proof.Machine.execDivu d a b s
  | .rem d a b => Sys2Proof.Machine.execRem d a b s
  | .remu d a b => Sys2Proof.Machine.execRemu d a b s
  | .and d a b => Sys2Proof.Machine.execAnd d a b s
  | .or d a b => Sys2Proof.Machine.execOr d a b s
  | .xor d a b => Sys2Proof.Machine.execXor d a b s
  | .andn d a b => Sys2Proof.Machine.execAndn d a b s
  | .shl d a b => Sys2Proof.Machine.execShl d a b s
  | .shr d a b => Sys2Proof.Machine.execShr d a b s
  | .sra d a b => Sys2Proof.Machine.execSra d a b s
  | .rotl d a b => Sys2Proof.Machine.execRotl d a b s
  | .min d a b => Sys2Proof.Machine.execMin d a b s
  | .max d a b => Sys2Proof.Machine.execMax d a b s
  | .minu d a b => Sys2Proof.Machine.execMinu d a b s
  | .maxu d a b => Sys2Proof.Machine.execMaxu d a b s
  | .clz d a => Sys2Proof.Machine.execClz d a s
  | .popc d a => Sys2Proof.Machine.execPopc d a s
  | .seq d a b => Sys2Proof.Machine.execSeq d a b s
  | .slt d a b => Sys2Proof.Machine.execSlt d a b s
  | .sltu d a b => Sys2Proof.Machine.execSltu d a b s
  | .sel d a b => Sys2Proof.Machine.execSel d a b s
  | .addi d a im => Sys2Proof.Machine.execAddi d a im s
  | .andi d a im => Sys2Proof.Machine.execAndi d a im s
  | .ori d a im => Sys2Proof.Machine.execOri d a im s
  | .xori d a im => Sys2Proof.Machine.execXori d a im s
  | .shli d a im => Sys2Proof.Machine.execShli d a im s
  | .shri d a im => Sys2Proof.Machine.execShri d a im s
  | .srai d a im => Sys2Proof.Machine.execSrai d a im s
  | .li d im => Sys2Proof.Machine.execLi d im s
  | .liWide d v => Sys2Proof.Machine.execLiWide d v s
  | .lih d im => Sys2Proof.Machine.execLih d im s
  | .lihWide d v => Sys2Proof.Machine.execLihWide d v s
  | .beq a b o => Sys2Proof.Machine.execBeq a b o s
  | .bne a b o => Sys2Proof.Machine.execBne a b o s
  | .blt a b o => Sys2Proof.Machine.execBlt a b o s
  | .bge a b o => Sys2Proof.Machine.execBge a b o s
  | .bltu a b o => Sys2Proof.Machine.execBltu a b o s
  | .bgeu a b o => Sys2Proof.Machine.execBgeu a b o s
  | .jmp a t => Sys2Proof.Machine.execJmp a t s
  | .call d a t => Sys2Proof.Machine.execCall d a t s
  | .ret a => Sys2Proof.Machine.execRet a s
  | .lpset a l t => Sys2Proof.Machine.execLpset a l t s
  | .lpbrk a l t => Sys2Proof.Machine.execLpbrk a l t s
  | .lds d c sz im => Sys2Proof.Machine.execLds d c sz im s
  | .sts d c sz im => Sys2Proof.Machine.execSts d c sz im s
  | .rld d c sz im => Sys2Proof.Machine.execRld d c sz im s
  | .bayrd d a b u z => Sys2Proof.Machine.execBayrd d a b u z s
  | .align => Sys2Proof.Machine.execAlign s
  | .fence k m => Sys2Proof.Machine.execFence k m s
  | .amo d a b z o => Sys2Proof.Machine.execAmo d a b z o s
  | .acas d a b z => Sys2Proof.Machine.execAcas d a b z s
  | .ared a b z o => Sys2Proof.Machine.execAred a b z o s
  | .cderive d a b m => Sys2Proof.Machine.execCderive d a b m s
  | .cbound d a b => Sys2Proof.Machine.execCbound d a b s
  | .cfield d a f => Sys2Proof.Machine.execCfield d a f s
  | .fork r im => Sys2Proof.Machine.execFork r im s
  | .forkPf r im => Sys2Proof.Machine.execForkPf r im s
  | .rdv => Sys2Proof.Machine.execRdv s
  | .barr t => Sys2Proof.Machine.execBarr t s
  | .bwait a t => Sys2Proof.Machine.execBwait a t s
  | .bwaitP a t => Sys2Proof.Machine.execBwaitP a t s
  | .hsig n => Sys2Proof.Machine.execHsig n s
  | .hsigLo n => Sys2Proof.Machine.execHsigLo n s
  | .hchk k n => Sys2Proof.Machine.execHchk k n s
  | .pause im => Sys2Proof.Machine.execPause im s
  | .resync im => Sys2Proof.Machine.execResync im s
  | .board d a b m => Sys2Proof.Machine.execBoard d a b m s
  | .wbset d a b m => Sys2Proof.Machine.execWbset d a b m s
  | .sig k f n => Sys2Proof.Machine.execSig k f n s
  | .mbrecv d => Sys2Proof.Machine.execMbrecv d s
  | .mbpost a b => Sys2Proof.Machine.execMbpost a b s
  | .csr d o n => Sys2Proof.Machine.execCsr d o n s
  | .trap im => Sys2Proof.Machine.execTrap im s
  | .eret => Sys2Proof.Machine.execEret s
  | .halt => Sys2Proof.Machine.execHalt s
  | .rcsnap d a => Sys2Proof.Machine.execRcsnap d a s
  | .smark k im => Sys2Proof.Machine.execSmark k im s
  | .bcfg a b t => Sys2Proof.Machine.execBcfg a b t s
  | .rpt p n d a b => Sys2Proof.Machine.execRpt p n d a b s
  | .vadd d a b x => Sys2Proof.Machine.execVadd d a b x s
  | .vsub d a b x => Sys2Proof.Machine.execVsub d a b x s
  | .vmul d a b x => Sys2Proof.Machine.execVmul d a b x s
  | .vfma d a b x => Sys2Proof.Machine.execVfma d a b x s
  | .vfms d a b x => Sys2Proof.Machine.execVfms d a b x s
  | .vmax d a b x => Sys2Proof.Machine.execVmax d a b x s
  | .vmin d a b x => Sys2Proof.Machine.execVmin d a b x s
  | .vabs d a x => Sys2Proof.Machine.execVabs d a x s
  | .vneg d a x => Sys2Proof.Machine.execVneg d a x s
  | .vand d a b x => Sys2Proof.Machine.execVand d a b x s
  | .vor d a b x => Sys2Proof.Machine.execVor d a b x s
  | .vxor d a b x => Sys2Proof.Machine.execVxor d a b x s
  | .vshl d a b x => Sys2Proof.Machine.execVshl d a b x s
  | .vshr d a b x => Sys2Proof.Machine.execVshr d a b x s
  | .vsra d a b x => Sys2Proof.Machine.execVsra d a b x s
  | .vcmp d a b x => Sys2Proof.Machine.execVcmp d a b x s
  | .vsel d a b x => Sys2Proof.Machine.execVsel d a b x s
  | .pand d a b => Sys2Proof.Machine.execPand d a b s
  | .por d a b => Sys2Proof.Machine.execPor d a b s
  | .pxor d a b => Sys2Proof.Machine.execPxor d a b s
  | .pnot d a => Sys2Proof.Machine.execPnot d a s
  | .vcvt d a x => Sys2Proof.Machine.execVcvt d a x s
  | .vquant d a x => Sys2Proof.Machine.execVquant d a x s
  | .vdeq d a x => Sys2Proof.Machine.execVdeq d a x s
  | .vscale d a b x => Sys2Proof.Machine.execVscale d a b x s
  | .vexp2 d a x => Sys2Proof.Machine.execVexp2 d a x s
  | .vrcp d a x => Sys2Proof.Machine.execVrcp d a x s
  | .vrsq d a x => Sys2Proof.Machine.execVrsq d a x s
  | .vlog2 d a x => Sys2Proof.Machine.execVlog2 d a x s
  | .vredsum d a b x => Sys2Proof.Machine.execVredsum d a b x s
  | .vredmax d a x => Sys2Proof.Machine.execVredmax d a x s
  | .vscan d a b x => Sys2Proof.Machine.execVscan d a b x s
  | .vperm d a b x => Sys2Proof.Machine.execVperm d a b x s
  | .vbcast d a x => Sys2Proof.Machine.execVbcast d a x s
  | .vslide d a b x => Sys2Proof.Machine.execVslide d a b x s
  | .vpack d a b x => Sys2Proof.Machine.execVpack d a b x s
  | .vld d c im x => Sys2Proof.Machine.execVld d c im x s
  | .vst d c im x => Sys2Proof.Machine.execVst d c im x s
  | .vgat d c im x => Sys2Proof.Machine.execVgat d c im x s
  | .vsct d c im x => Sys2Proof.Machine.execVsct d c im x s
  | .vrng d a b x => Sys2Proof.Machine.execVrng d a b x s
  | .vdrop d a b x => Sys2Proof.Machine.execVdrop d a b x s
  | .vtopk d a b x => Sys2Proof.Machine.execVtopk d a b x s
  | .vmov d a x => Sys2Proof.Machine.execVmov d a x s
  | .vli d im x => Sys2Proof.Machine.execVli d im x s
  | .vlse d a b x => Sys2Proof.Machine.execVlse d a b x s
  | .vpush a x => Sys2Proof.Machine.execVpush a x s
  | .vpop d x => Sys2Proof.Machine.execVpop d x s
  | .mfmt w => Sys2Proof.Machine.execMfmt w s
  | .mzero t u => Sys2Proof.Machine.execMzero t u s
  | .mma t u f w c x => Sys2Proof.Machine.execMma t u f w c x s
  | .mmaw t u f r w c x => Sys2Proof.Machine.execMmaw t u f r w c x s
  | .mmat t u f w c x => Sys2Proof.Machine.execMmat t u f w c x s
  | .mwait t n => Sys2Proof.Machine.execMwait t n s
  | .mrd t v r x => Sys2Proof.Machine.execMrd t v r x s
  | .mwr t v r x => Sys2Proof.Machine.execMwr t v r x s
  | .mvoc t u f l w c x => Sys2Proof.Machine.execMvoc t u f l w c x s
  | .mvocbFwd t u f l w c x => Sys2Proof.Machine.execMvocbFwd t u f l w c x s
  | .mvocbBwd t u f p w c x => Sys2Proof.Machine.execMvocbBwd t u f p w c x s
  | .hmerge lo v row => Sys2Proof.Machine.execHmerge lo v row s
  | .hread v row => Sys2Proof.Machine.execHread v row s
  | .mapld sl gen mw c rse sem => Sys2Proof.Machine.execMapld sl gen mw c rse sem s
  | .mnorm m v row => Sys2Proof.Machine.execMnorm m v row s
  | .cpy d => Sys2Proof.Machine.execCpy d s
  | .cpyf d x => Sys2Proof.Machine.execCpyf d x s
  | .cpyt d => Sys2Proof.Machine.execCpyt d s
  | .cpyw d => Sys2Proof.Machine.execCpyw d s
  | .cpyr d => Sys2Proof.Machine.execCpyr d s
  | .cwp c h m x => Sys2Proof.Machine.execCwp c h m x s
  | .cwait c m x => Sys2Proof.Machine.execCwait c m x s
  | .chead h a => Sys2Proof.Machine.execChead h a s
  | .cmap k a n => Sys2Proof.Machine.execCmap k a n s
  | .cmwait k hs t h v => Sys2Proof.Machine.execCmwait k hs t h v s
  | .cfence k m => Sys2Proof.Machine.execCfence k m s
  | .cabort c => Sys2Proof.Machine.execCabort c s
  | .cabortBt h => Sys2Proof.Machine.execCabortBt h s
  | .ltap l k im x => Sys2Proof.Machine.execLtap l k im x s
  | .ldrive l k im h => Sys2Proof.Machine.execLdrive l k im h s
  | .lfwd l o h => Sys2Proof.Machine.execLfwd l o h s
  | .lsel im c x => Sys2Proof.Machine.execLsel im c x s
  | .lidle n => Sys2Proof.Machine.execLidle n s
  | .lcfg w => Sys2Proof.Machine.execLcfg w s
  | .fput d => Sys2Proof.Machine.execFput d s
  | .fget d => Sys2Proof.Machine.execFget d s
  | .famo d => Sys2Proof.Machine.execFamo d s
  | .facas d => Sys2Proof.Machine.execFacas d s
  | .fmcast d => Sys2Proof.Machine.execFmcast d s
  | .fred d => Sys2Proof.Machine.execFred d s
  | .gload d => Sys2Proof.Machine.execGload d s
  | .grun d => Sys2Proof.Machine.execGrun d s
  | .gpatch d => Sys2Proof.Machine.execGpatch d s
  | .gstat h d => Sys2Proof.Machine.execGstat h d s
  | .gabort h => Sys2Proof.Machine.execGabort h s
  | .fbar h m => Sys2Proof.Machine.execFbar h m s
  | .ringcfg k f v => Sys2Proof.Machine.execRingcfg k f v s
  | .ringbyp k sl f => Sys2Proof.Machine.execRingbyp k sl f s
  | .ringinj d => Sys2Proof.Machine.execRinginj d s
  | .fsync k m => Sys2Proof.Machine.execFsync k m s
  | .repeatIteration k e => Sys2Proof.Machine.execRepeatIteration k e s
  | .arrayOperationComplete k => Sys2Proof.Machine.execArrayOperationComplete k s
  | .mapTableLatch k slot => Sys2Proof.Machine.execMapTableLatch k slot s
  | .mapInstall k slot => Sys2Proof.Machine.execMapInstall k slot s
  | .fetchLine k => Sys2Proof.Machine.execFetchLine k s
  | .issueGroup k => Sys2Proof.Machine.execIssueGroup k s
  | .scalarResultWrite k => Sys2Proof.Machine.execScalarResultWrite k s
  | .vectorResultWrite k => Sys2Proof.Machine.execVectorResultWrite k s
  | .timedAccessPerform id => Sys2Proof.Machine.execTimedAccessPerform id s
  | .timedReplyDeliver id => Sys2Proof.Machine.execTimedReplyDeliver id s
  | .timedStackRequest id => Sys2Proof.Machine.execTimedStackRequest id s
  | .untimedPartPerform id part => Sys2Proof.Machine.execUntimedPartPerform id part s
  | .bayReplyLand k bay r => Sys2Proof.Machine.execBayReplyLand k bay r s
  | .copyTimedPiece k ch => Sys2Proof.Machine.execCopyTimedPiece k ch s
  | .fifoLineAppend k ch => Sys2Proof.Machine.execFifoLineAppend k ch s
  | .slackRead k => Sys2Proof.Machine.execSlackRead k s
  | .btChainRecord ch => Sys2Proof.Machine.execBtChainRecord ch s
  | .btHandBack ch => Sys2Proof.Machine.execBtHandBack ch s
  | .transportHeadRead line => Sys2Proof.Machine.execTransportHeadRead line s
  | .tailWrite line => Sys2Proof.Machine.execTailWrite line s
  | .segmentCrcVerdict line frame => Sys2Proof.Machine.execSegmentCrcVerdict line frame s
  | .linkLost line => Sys2Proof.Machine.execLinkLost line s
  | .ringStateTransition kind qm lnk trim toff => Sys2Proof.Machine.execRingStateTransition kind qm lnk trim toff s
  | .ringConfigEffective => Sys2Proof.Machine.execRingConfigEffective s
  | .ringInjectionStaged entry data => Sys2Proof.Machine.execRingInjectionStaged entry data s
  | .coachmanFrame cl => Sys2Proof.Machine.execCoachmanFrame cl s
  | .coachmanTableUpdate cl => Sys2Proof.Machine.execCoachmanTableUpdate cl s
  | .coachmanPresent k => Sys2Proof.Machine.execCoachmanPresent k s
  | .timetableSlipCheck k => Sys2Proof.Machine.execTimetableSlipCheck k s
  | .teamSlipTrap k => Sys2Proof.Machine.execTeamSlipTrap k s
  | .barrierPhaseComplete tag => Sys2Proof.Machine.execBarrierPhaseComplete tag s
  | .budgetExpiry k => Sys2Proof.Machine.execBudgetExpiry k s
  | .checkpoint k => Sys2Proof.Machine.execCheckpoint k s
  | .preemptHalt k => Sys2Proof.Machine.execPreemptHalt k s
  | .saveImage k => Sys2Proof.Machine.execSaveImage k s
  | .redirectedReply ctx k bay r => Sys2Proof.Machine.execRedirectedReply ctx k bay r s
  | .restoreLoad k => Sys2Proof.Machine.execRestoreLoad k s
  | .teamResume p team => Sys2Proof.Machine.execTeamResume p team s
  | .recoveryPointSave k => Sys2Proof.Machine.execRecoveryPointSave k s
  | .recoveryPointCommit p team => Sys2Proof.Machine.execRecoveryPointCommit p team s
  | .rollbackRestore p team => Sys2Proof.Machine.execRollbackRestore p team s
  | .trapEntry k => Sys2Proof.Machine.execTrapEntry k s
  | .sigFire k => Sys2Proof.Machine.execSigFire k s
  | .sigFlagStore k => Sys2Proof.Machine.execSigFlagStore k s
  | .fabricCommandAccept => Sys2Proof.Machine.execFabricCommandAccept s
  | .fabricWriteBack id => Sys2Proof.Machine.execFabricWriteBack id s
  | .fabricResend idx => Sys2Proof.Machine.execFabricResend idx s
  | .fabricTimeout idx => Sys2Proof.Machine.execFabricTimeout idx s
  | .graphBarrierArrival rank group phase => Sys2Proof.Machine.execGraphBarrierArrival rank group phase s
  | .graphSignal group op => Sys2Proof.Machine.execGraphSignal group op s
  | .graphReplayStart slot => Sys2Proof.Machine.execGraphReplayStart slot s
  | .graphOperationStart slot op => Sys2Proof.Machine.execGraphOperationStart slot op s
  | .graphOperationFinish slot op => Sys2Proof.Machine.execGraphOperationFinish slot op s
  | .graphReplayEnd slot => Sys2Proof.Machine.execGraphReplayEnd slot s
  | .graphStallTimeout slot => Sys2Proof.Machine.execGraphStallTimeout slot s
  | .migrationEpochStart => Sys2Proof.Machine.execMigrationEpochStart s
  | .migrationMove role p obj page node dobj dpage data => Sys2Proof.Machine.execMigrationMove role p obj page node dobj dpage data s
  | .hostMailboxPost mb aligned data => Sys2Proof.Machine.execHostMailboxPost mb aligned data s
  | .telemetrySample p => Sys2Proof.Machine.execTelemetrySample p s
  | .pinFillComplete k => Sys2Proof.Machine.execPinFillComplete k s
  | .otinvComplete p => Sys2Proof.Machine.execOtinvComplete p s
  | .partitionStart p cfg => Sys2Proof.Machine.execPartitionStart p cfg s
  | .ringBringUp cfg => Sys2Proof.Machine.execRingBringUp cfg s
  | .ringBeatArrival line beat good => Sys2Proof.Machine.execRingBeatArrival line beat good s
  | .fabricRequestArrival pkt => Sys2Proof.Machine.execFabricRequestArrival pkt s
  | .fabricReplyArrival pkt => Sys2Proof.Machine.execFabricReplyArrival pkt s
  | .planeDown plane => Sys2Proof.Machine.execPlaneDown plane s
  | .hostWindowAccess a => Sys2Proof.Machine.execHostWindowAccess a s
  | .hostAtomic a => Sys2Proof.Machine.execHostAtomic a s
  | .hostPostWindowRead mb => Sys2Proof.Machine.execHostPostWindowRead mb s
  | .thermalThreshold temp => Sys2Proof.Machine.execThermalThreshold temp s
  | .boot images node planes => Sys2Proof.Machine.execBoot images node planes s
  | .attestationRequest nonce parts => Sys2Proof.Machine.execAttestationRequest nonce parts s
  | .firmwareActivation image failed => Sys2Proof.Machine.execFirmwareActivation image failed s
  | .pinFill k v => Sys2Proof.Machine.execPinFill k v s
  | .otinv k v => Sys2Proof.Machine.execOtinv k v s
  | .btheadWrite ch bits tag => Sys2Proof.Machine.execBtheadWrite ch bits tag s
  | .pkretry p => Sys2Proof.Machine.execPkretry p s
  | .cfstResume k ch => Sys2Proof.Machine.execCfstResume k ch s
  | .ssstatWrite k u v => Sys2Proof.Machine.execSsstatWrite k u v s
  | .sscfgWrite k u v => Sys2Proof.Machine.execSscfgWrite k u v s
  | .migfreePush p v => Sys2Proof.Machine.execMigfreePush p v s
  | .mbcfgWrite k v => Sys2Proof.Machine.execMbcfgWrite k v s
  | .tdqWrite k v => Sys2Proof.Machine.execTdqWrite k v s
  | .tskcurWrite k v => Sys2Proof.Machine.execTskcurWrite k v s
  | .hcfgWrite k v => Sys2Proof.Machine.execHcfgWrite k v s
  | .prereq k v => Sys2Proof.Machine.execPrereq k v s
  | .prrst k v => Sys2Proof.Machine.execPrrst k v s
  | .rbreq k v => Sys2Proof.Machine.execRbreq k v s
  | .hostSnoop addr => Sys2Proof.Machine.execHostSnoop addr s
  | .hostCompletion c => Sys2Proof.Machine.execHostCompletion c s
  | .fabricBringUp node => Sys2Proof.Machine.execFabricBringUp node s
  | .unitFencing kind unit => Sys2Proof.Machine.execUnitFencing kind unit s
  | .partitionEnd p => Sys2Proof.Machine.execPartitionEnd p s

end Sys2Proof.Machine
end

