-- ==== Sys2Proof/Machine/Tick.lean ====
section
/-!
DEFINITION. The order of a cycle: which steps each of its phases leaves to be done (R48, R51, R58, R59, R102, R129, R138, R154, R170,
R173, R185, R233, R305, R340, R377, R401, R403). A step whose time no rule fixes is a free choice in each cycle in which it may happen.
-/

namespace Sys2Proof.Machine

/-! ### Choices -/

/-- Some of the steps of a list, by a free value. -/
def State.pick (s : State) (l : List Instr) : List Instr × State :=
  match l with
  | [] => ([], s)
  | _ => ((l.zipIdx.filter fun (_, i) => (s.draw).1.testBit i).map (·.1), (s.draw).2)

/-- The stations that satisfy a test. -/
def State.those (_s : State) (f : Stn → Bool) (g : Stn → List Instr) : List Instr := (allStns.filter f).flatMap g

/-- Steps of stations that satisfy a test, one each. -/
def State.each (s : State) (f : Station → Bool) (g : Stn → Instr) : List Instr := s.those (fun k => f (s.stn k)) fun k => [g k]

/-! ### Replies and results -/

/-- The outcome of a line access is delivered: when the station's nominal time has come, or, for a bay and for the pieces of a held
station, when it has come back (R44, R55, R173, R204). -/
def State.replyDue (s : State) (x : Txn) (p : TPart) : Bool :=
  !p.delivered && decide (x.usable p ≤ s.cyc) && (decide (x.nom + p.due ≤ s.workNom x.k) || match x.use with
    | .bay _ => true
    | .copyRead .. => (s.stn x.k).stands
    | .copyWrite .. => (s.stn x.k).stands
    | _ => false)

/-- Deliveries of timed accesses. -/
def State.replies (s : State) : List Instr :=
  s.txns.flatMap fun x => (x.parts.filter (s.replyDue x)).map fun p => .timedReplyDeliver p.id

/-- The reply of an operation to its bay, which may land in any cycle once the operation has its answer; an overdue one that has none is
void (R44, R208, R246, R342). -/
def State.landing (s : State) (u : UOp) : Option Instr :=
  (s.bayOf u).bind fun b =>
    let good := match u.owner with
      | .fabric c => (s.fcmd c).any (·.status == 0) && u.pieces.all (·.st != .failed)
      | _ => true
    if (u.answered || s.overdue u) && good then
      let r := if u.answered then u.reply else ⟨0, true, false⟩
      some (if (s.redirect u.ctx u.k b).isSome then .redirectedReply u.ctx u.k b r else .bayReplyLand u.k b r)
    else none

/-- The reply of an operation goes to a bay section of an image in memory (R208). -/
def State.toImage (s : State) (u : UOp) : Option Nat :=
  ((s.bayOf u).bind (s.redirect u.ctx u.k)).bind fun r => if r.live.isNone then some r.image else none

/-- Replies to bays: those that are overdue, and a free choice of the others (R44, R246). -/
def State.landings (s : State) : List Instr × State :=
  let us := s.uops.filter fun u => (s.toImage u).isNone
  let (l, t) := s.pick ((us.filter fun u => !s.overdue u).filterMap s.landing)
  ((us.filter s.overdue).filterMap s.landing ++ l, t)

/-- No read of `mapld` is outstanding for a slot whose table is pending: the table is latched (R312). -/
def State.latchDue (s : State) (k : Stn) (slot : Nat) : Bool :=
  let m := (s.stn k).mapSlot slot
  m.pv && !m.latched && s.txns.all fun x => x.k != k || match x.use with
    | .map i .. => i != slot
    | _ => true

/-- Results and array operations of a station that are due, in the order of their engines; tables are installed before lines are
appended. What a restored image holds waits until its station resumes (R210, R233, R273, R305, R312, R313). -/
def State.results (s : State) : List Instr :=
  s.those (fun k => (s.stn k).run.on && (s.stn k).pre.st != .restore) fun k =>
    let t := s.stn k
    (if s.resultDue k (Pend.of fun e => e != 2 && e != 3) then [Instr.scalarResultWrite k] else []) ++
    (if s.resultDue k (Pend.of fun e => e == 2 || e == 3) then [Instr.vectorResultWrite k] else []) ++
    (if t.mat.ops.isEmpty && t.mat.heapOwned.isEmpty then [] else [Instr.arrayOperationComplete k]) ++
    ((List.range 4).filter (s.latchDue k)).map (fun i => Instr.mapTableLatch k i) ++
    ((List.range 4).filter fun i => (t.mapSlot i).pv).map fun i => Instr.mapInstall k i

/-- Lines for operand FIFOs: of the copy channels, then of the lane tap (R131, R336). -/
def State.fills (s : State) : List Instr :=
  s.those (fun k => (s.stn k).run.on) fun k =>
    ((List.range 2).filter fun i => (s.chan k i).cmds.any (·.dkind != 0)).map (fun i => Instr.fifoLineAppend k i) ++
      if (s.stn k).pend.any fun p => decide (p.due ≤ s.workNom k) && match p.eff with
        | .tapFifo .. => true
        | _ => false
      then [Instr.fifoLineAppend k 2] else []

/-! ### Units of the package -/

/-- The ring's verdicts, changes and transitions, and the coachmen; a transition's Q, LNK, TRIM and TOFF are free within R146 and R147. -/
def State.ringSteps (s : State) : List Instr × State :=
  let g := s.pkg.ring
  let lost := (List.range 2).filter fun l => g.up && decide (64 ≤ (s.rline l).badRun) && (s.rline l).inSel != 2
  let verdicts := (List.range 2).flatMap fun l => ((s.rline l).judged.filter fun x => decide (x.2.2 ≤ s.cyc)).map fun x => Instr.segmentCrcVerdict l x.1
  let changes := if g.changes.any fun c => decide (s.fs c.2.1 ≤ s.cyc) then [Instr.ringConfigEffective] else []
  let staged := g.buffer.filterMap fun x => (s.injectionRead x.1).map fun bs => Instr.ringInjectionStaged x.1 bs
  let steps := lost.map Instr.linkLost ++ verdicts ++ changes ++ staged
  match g.transition with
  | some (kind, f) =>
    if s.fs f ≤ s.cyc then
      let (x, s) := s.draw
      let r := s.rline g.side
      let qm := if kind = 2 then g.qm else 1 + x % 2 ^ 13 % max 1 (if kind = 0 then r.segs_ - r.hop - s.slackS - 1 else r.hop - 1)
      let q := if kind = 0 then qm + r.hop else r.hop - qm
      let lnk := x / 2 ^ 13 % min 2048 (max 1 (2048 * q - 165))
      let good := fun (t : Nat) => let d := 2048 * q - 6 - lnk - t; 1 ≤ d % 32 && d % 32 ≤ 15
      let trims := (List.range 32).filter good
      let toff := if x / 2 ^ 24 % 2 = 1 then some (x / 2 ^ 25 % max 1 r.k) else none
      (steps ++ [.ringStateTransition kind qm lnk (trims.getD (x / 2 ^ 50 % max 1 trims.length) 0) toff], s)
    else (steps, s)
  | none => (steps, s)

/-- The coachmen's tables: the updates of the last snapshot and the writes that are due (R154, R262). -/
def State.tableSteps (s : State) : List Instr :=
  ((List.range 4).filter fun cl => let c := s.coachman cl
    !c.updates.isEmpty || !c.arrived.isEmpty || c.writes.any fun w => decide (w.at_ ≤ s.cyc)).map .coachmanTableUpdate

/-- The coachmen's snapshot (R154, R156). -/
def State.frameSteps (s : State) : List Instr :=
  if s.phase ≤ s.cyc + 64 ∧ (s.cyc + 64 - s.phase) % 2048 = 0 then (List.range 4).map Instr.coachmanFrame else []

/-- The results of the coachmen that stations may see, after the checkpoints of the cycle (R157, R202, R378). -/
def State.presentSteps (s : State) : List Instr :=
  s.those (fun k => !(s.stn k).boardings.isEmpty) fun k => (s.stn k).boardings.map fun _ => Instr.coachmanPresent k

/-- The teams that load an image (R210). -/
def State.loadingTeams (s : State) : List (Nat × Nat) :=
  ((allStns.filter fun k => (s.stn k).run.on && (s.stn k).pre.st == .restore && (s.stn k).pre.loaded).map fun k =>
    (s.partOf k, (s.stn k).pre.team)).eraseDups

/-- REM falls by 1 in each cycle in which a task runs, but for the fall to 0, which is a step of its own (R194). -/
def State.spend (s : State) : State :=
  { s with stns := s.stns.map fun t => if t.budgeted ∧ 1 < bitsOf t.sys.budget 47 0 then
      { t with sys := { t.sys with budget := putBits t.sys.budget 47 0 (bitsOf t.sys.budget 47 0 - 1) } } else t }

/-- Loads that end, resumptions, and budgets that run out: they come before the snapshot and before the checkpoints of the cycle (R194,
R202, R209, R210). -/
def State.resumeSteps (s : State) : List Instr :=
  s.those s.loadGoes (fun k => [Instr.restoreLoad k]) ++
  s.loadingTeams.map (fun x => Instr.teamResume x.1 x.2) ++
  s.each (fun t => t.budgeted && bitsOf t.sys.budget 47 0 == 1) Instr.budgetExpiry

/-- Barriers, checkpoints, slips, traps and halts, whose cycles the rules fix (R177, R180, R198, R202, R377, R390, R392). -/
def State.stationSteps (s : State) : List Instr :=
  ((List.range 8).filter fun t => (s.tag (BitVec.ofNat 3 t)).due.any fun c => decide (c ≤ s.cyc)).map Instr.barrierPhaseComplete ++
  s.those (fun k => (s.stn k).run.on && (s.ckptAct k).isSome) (fun k => [Instr.checkpoint k]) ++
  s.those (fun k => (s.slips k).isSome) (fun k => [Instr.timetableSlipCheck k]) ++
  s.those (fun k => s.slipDue k) (fun k => [Instr.teamSlipTrap k]) ++
  s.those (fun k => (s.stn k).trap.entering || s.entryDue k) (fun k => [Instr.trapEntry k]) ++
  s.each (fun t => t.pre.st == .hold && decide (t.pre.haltAt ≤ s.cyc)) Instr.preemptHalt ++
  ((s.allTeams.filter fun x => s.mayCommit x.1 x.2).map fun x => Instr.recoveryPointCommit x.1 x.2) ++
  s.pkg.rollbacks.map (fun x => Instr.rollbackRestore x.1 x.2) ++
  s.each (fun t => t.pinDue.any fun x => decide (x.1 ≤ s.cyc)) Instr.pinFillComplete ++
  ((List.range 16).filter fun p => !(s.part p).otbusy.isEmpty).map Instr.otinvComplete ++
  if s.cyc % 2 ^ 22 = 0 then [Instr.migrationEpochStart] else []

/-- Graph operations whose counters reached 0 in an earlier cycle start (R369). -/
def State.graphStarts (s : State) : List Instr :=
  ((List.range 64).filter fun n => (s.slot n).st == .running).flatMap fun n =>
    ((List.range (s.slot n).ops.length).filter (s.slot n).startable).map (fun i => Instr.graphOperationStart n i)

/-- Further steps of a graph slot whose replay runs (R347, R369). -/
def State.graphSteps (s : State) : List Instr :=
  ((List.range 64).filter fun n => (s.slot n).st == .running).flatMap fun n =>
    let g := s.slot n
    let ops := List.range g.ops.length
    (if g.startAt.any fun c => decide (c ≤ s.cyc) then [Instr.graphReplayStart n] else []) ++
    (ops.filter fun i => (s.gopDone n i).isSome).map (fun i => Instr.graphOperationFinish n i) ++
    (if g.complete then [Instr.graphReplayEnd n] else []) ++
    if g.waiting.isSome && decide (g.progress + s.fabTO ≤ s.cyc) then [Instr.graphStallTimeout n] else []

/-- Fabric commands that are accepted, resends and time-outs (R340, R361). -/
def State.fabricSteps (s : State) : List Instr :=
  let f := s.pkg.fab
  let new := f.cmds.filter fun c => !c.accepted && c.status == 0 && decide (c.issue < s.cyc)
  let old := f.unacked.zipIdx
  new.map (fun _ => Instr.fabricCommandAccept) ++
  ((old.filter fun (u, _) => decide (u.resent < 3) && decide (u.last + s.fabTO / 4 ≤ s.cyc)).map fun x => Instr.fabricResend x.2) ++
  ((old.filter fun (u, _) => decide (u.first + s.fabTO ≤ s.cyc)).reverse.map fun x => Instr.fabricTimeout x.2)

/-- Steps whose time no rule fixes and that access no place: stages of saves, and hand-backs that begin or end (R134, R135, R204, R390). -/
def State.freeSteps (s : State) : List Instr × State :=
  let saves := s.those (fun k => s.saveGoes k) (fun k => [Instr.saveImage k]) ++ s.those (fun k => s.pointGoes k) fun k => [Instr.recoveryPointSave k]
  let bt := (List.range 64).flatMap fun ch =>
    match (s.btc ch).recs with
    | [] => []
    | r :: _ => if (s.recordStatus ch r).isSome then [Instr.btHandBack ch] else []
  s.pick (saves ++ bt)

/-! ### Accesses -/

/-- Line accesses that satisfy a test. -/
def State.accesses (s : State) (f : TPart → Bool) : List Instr :=
  s.txns.flatMap fun x => (x.parts.filter f).map fun p => .timedAccessPerform p.id

/-- A line access reads, or performs `rcsnap`; an atomic reads with the reads of its cycle, and writes with the writes (R49). -/
def TOp.readsFirst (o : TOp) : Bool := match o with
  | .write .. => false
  | _ => true

/-- Requests driven in this cycle (R55). -/
def State.requestDrives (s : State) : List Instr := s.accesses fun p => !p.own && p.st == .sent && p.drive == s.cyc

/-- A line access reaches its place in this cycle. -/
def State.reaches (s : State) (p : TPart) : Bool := p.arr == s.cyc && (p.st == .sent || p.st == .atPort)

/-- Replies driven, requests at the memory port, reads, fetch lines and the head of the ring (R55, R58, R147, R213). -/
def State.readSteps (s : State) : List Instr :=
  s.accesses (fun p => !p.own && p.reply == s.cyc) ++
  (s.txns.flatMap fun x => (x.parts.filter fun p => p.stack && p.st == .sent && decide (p.arr ≤ s.cyc + 4)).map fun p => Instr.timedStackRequest p.id) ++
  s.accesses (fun p => s.reaches p && p.op.readsFirst) ++
  s.each (fun t => t.run.fetch.any fun f => !f.fault && (decide (f.next < f.lines) || !f.buf.isEmpty)) Instr.fetchLine ++
  if s.pkg.ring.up then [.transportHeadRead 0, .transportHeadRead 1] else []

/-- A part of an untimed operation may be performed, and no fence of its memory port holds it (R102, R396). -/
def State.mayPerform (s : State) (u : UOp) (p : UPiece) (i : Nat) (w : Bool) : Bool :=
  u.next_ p w && s.partReady u i w && match (s.partAt u p w).1 with
    | .at_ (.bank k o) _ _ => !s.portFenced (homePort (.bank k o))
    | .at_ (.stack a) _ _ => !s.portFenced (homePort (.stack a))
    | _ => true

/-- Work of a memory port that may be done in this cycle: the act, the port, the place it accesses, and whether it is done now rather than
in some later cycle. -/
structure PortWork where
  act : Act
  port : Nat
  place : Option Phys
  now : Bool

/-- Parts of untimed operations that may be performed in this cycle (R102). -/
def State.untimedWork (s : State) : List PortWork :=
  s.uops.flatMap fun u => u.pieces.zipIdx.flatMap fun (p, i) => [false, true].filterMap fun w =>
    if s.mayPerform u p i w then
      some ⟨.ev (.untimedPartPerform u.id (2 * i + b2n w)), u.port, match (s.partAt u p w).1 with
        | .at_ ph _ _ => some ph
        | _ => none, false⟩
    else none

/-- Slack reads (R151). -/
def State.slackWork (s : State) : List PortWork :=
  (allStns.filter fun k => (s.slackPlace k).isSome).map fun k => ⟨.ev (.slackRead k), clusterOf k, s.slackPlace k, false⟩

/-- Replies that go to a save image: they write its header and a bay section (R208). -/
def State.imageWork (s : State) : List PortWork :=
  s.uops.filterMap fun u => match s.toImage u, s.landing u with
    | some a, some i => some ⟨.ev i, u.port, some (.stack (a * 2 ^ 21)), s.overdue u⟩
    | _, _ => none

/-- Line accesses of saves and loads, of exposure logs and of pages that move (R48, R59, R119, R206, R391). -/
def State.jobWork (s : State) : List PortWork :=
  let held := fun (j : LineJob) => homePort j.ph != j.port && s.portFenced (homePort j.ph)
  (s.pkg.jobs.filter fun j => s.jobReady j && !held j).map fun j => ⟨.job j.id, j.port, some j.ph, false⟩

/-- The steps of moves of pages; each writes a leaf entry (R119). -/
def State.moveWork (s : State) : List PortWork × State :=
  let (l, t) := s.moveSteps
  (l.map fun (i, a) => ⟨.ev i, 0, a.map Phys.stack, false⟩, t)

/-- Write-backs of fabric commands, and records of block-transfer chains (R134, R340). -/
def State.engineWork (s : State) : List PortWork :=
  ((s.pkg.fab.cmds.filter fun c => (s.cmdEnd c).isSome).map fun c => ⟨.ev (.fabricWriteBack c.id), 0, none, false⟩) ++
  ((List.range 64).filter fun ch => (s.btc ch).follows).map fun ch =>
    ⟨.ev (.btChainRecord ch), 0, match s.look (s.btc ch).part (s.btc ch).cur.obj (s.btc ch).cur.cursor 16 with
      | .at_ ph _ _ => some ph
      | _ => none, false⟩

/-- The rings of the partitions for which a record of an earlier cycle awaits its append: it is appended, in the order of the records, or
dropped at once (R383, R399). -/
def State.recordWork (s : State) : List PortWork :=
  let old := s.pkg.records.filter fun r => decide (r.cyc < s.cyc)
  ((old.map fun r => (r.part, r.fault)).eraseDups).filterMap fun (p, f) =>
    (old.find? fun r => r.part == p && r.fault == f).map fun r =>
      ⟨.append p f, r.port, (s.recordAt r).map Phys.stack, (s.recordAt r).isNone⟩

/-- The place of a port in the order in which an unclaimed cycle of a channel is offered (R59). -/
def PortWork.rank (x : PortWork) (cyc : Nat) : Nat :=
  match x.place with
  | some (.stack a) => (x.port + 4 - (cyc + channelOf a) % 4) % 4
  | _ => 0

/-- Some elements of a list, by a free value. -/
def State.pickWork (s : State) (l : List PortWork) : List PortWork × State :=
  match l with
  | [] => ([], s)
  | _ => ((l.zipIdx.filter fun (_, i) => (s.draw).1.testBit i).map (·.1), (s.draw).2)

/-- The untimed work of a cycle: which work has reached its port is a free choice; of the ports with work for a channel the first in
R59's order takes the cycle, and the work of the others finds it taken. -/
def State.untimedSteps (s : State) : List Act × State :=
  let (moves, s) := s.moveWork
  let l := s.untimedWork ++ s.slackWork ++ s.engineWork ++ s.recordWork ++ s.imageWork ++ s.jobWork ++ moves
  let (x, t) := s.pickWork (l.filter fun w => !w.now)
  let x := l.filter (·.now) ++ x
  (((List.range 4).flatMap fun r => x.filter fun w => w.rank s.cyc == r).map (·.act), t)

/-- The oldest record of a ring is appended in a channel cycle that nothing has claimed, or dropped (R59, R383, R399). -/
def State.appendNext (s : State) (p : Nat) (f : Bool) : State :=
  match s.pkg.records.find? fun r => r.part == p && r.fault == f && decide (r.cyc < s.cyc) with
  | none => s
  | some r =>
    let t := { s with pkg := { s.pkg with records := s.pkg.records.erase r } }
    match s.recordAt r with
    | none => t.append r
    | some a => if s.placeTaken (.stack a) then s else (t.serve (.stack a)).append r

/-- Writes, increments of routing counters, the tail of the ring, and the signals that these writes let fire (R60, R112, R147, R264,
R269). -/
def State.writeSteps (s : State) : List Instr :=
  s.those (fun k => (s.stn k).run.on && s.resultDue k fun p => p.eff.counts_) (fun k => [Instr.vectorResultWrite k]) ++
  s.accesses (fun p => s.reaches p && p.op.writes) ++
  (if s.pkg.ring.up then [.tailWrite 0, .tailWrite 1] else []) ++
  s.those (fun k => !(s.stn k).sigs.isEmpty) (fun k => (s.stn k).sigs.map fun _ => Instr.sigFire k) ++
  s.those (fun k => (s.flagReady k).isSome) fun k => [Instr.sigFlagStore k]

/-! ### Issue and the end of a cycle -/

/-- The lane taps' drives or writes that are due (R336, R338). -/
def State.tapSteps (s : State) (drives : Bool) : State :=
  (allStns.filter fun k => (s.stn k).pend.any fun p => p.eff.ofTap).foldl (fun s k => s.tapOutputs k drives) s

/-- The blocks of untimed copies of a channel that wait for a scale-selection unit (R78). -/
def State.unitSteps (s : State) (k : Stn) (i : Nat) : List Instr :=
  (s.uops.filter fun u => u.k == k && match u.owner with
    | .copy c _ => c == i
    | _ => false).flatMap fun u =>
    (u.pieces.zipIdx.filter fun x => x.1.waitsUnit).map fun x => Instr.untimedPartPerform u.id (2 * x.2)

/-- A copy channel has a timed command that stands at its place in nominal time: its pieces go on in every cycle that is not frozen
(R127, R173). Blocks of untimed copies reach their scale-selection units after those of the engines with lower codes (R78). -/
def State.pieceSteps (s : State) : List Instr :=
  let goes := fun (k : Stn) => (s.stn k).run.stall == 0 || (s.stn k).noPieces
  s.those (fun k => (s.stn k).run.on) fun k => (List.range 2).flatMap fun i =>
    (if goes k && (s.chan k i).timedBusy then [Instr.copyTimedPiece k i] else []) ++ s.unitSteps k i

/-- Posts to mailboxes that the host makes in this cycle: they are visible from the next cycle on (R191, R374). -/
def isPost : Instr → Bool
  | .hostMailboxPost .. => true
  | _ => false

/-- After the groups have issued: pieces of timed copies, posts of the host, samples (R127, R374, R401). -/
def State.lateSteps (s : State) : List Instr × State :=
  let posts := s.inbox.filter fun x => decide (x.1 ≤ s.cyc) && isPost x.2
  (s.pieceSteps ++ posts.map (·.2) ++ ((List.range 16).filter s.sampleDue).map Instr.telemetrySample,
    { s with inbox := s.inbox.filter fun x => !(decide (x.1 ≤ s.cyc) && isPost x.2) })

/-- Block 0 of a partition's station starts in cycle fs(f0) - 1 (R188, R189). -/
def State.startFirst (s : State) (k : Stn) : State :=
  let s := if (s.stn k).run.fetch.any fun f => !f.fault then s.startBlock k (s.cyc + 1) (some .resident) else s
  s.onStn k fun t => { t with run := { t.run with startAt := none } }

/-- Traps that cannot be entered halt their stations, and first blocks start (R188, R378). -/
def State.settle (s : State) : State :=
  let s := (allStns.filter fun k => let t := s.stn k; t.trap.taking.isSome && !t.held && t.pre.st != .restore).foldl State.settleTrap s
  (allStns.filter fun k => (s.stn k).run.startAt.any fun c => decide (c ≤ s.cyc)).foldl State.startFirst s

/-- The per-cycle events of the partitions (R403). -/
def State.countCycle (s : State) : State :=
  ((List.range 16).filter fun p => (s.part p).on && (s.part p).pm.toList.any fun x => bitOf x.1 63).foldl (fun s p =>
    let ks := allStns.filter fun k => s.running k && (s.stn k).run.part == p
    let why := ks.map s.stallOf
    (List.range 8).foldl (fun s i => s.count p (2 + i) (why.count (i + 1))) ((s.count p 0 1).count p 1 ks.length)) s

/-- A fence's marker holds nothing any more: what stood before it in its queues, and the timed accesses it names, are performed (R106,
R108). -/
def State.markerDone (s : State) (m : Marker) : Bool :=
  decide (m.qset < 384) && !(m.tm && s.timedBefore m.k m.issue) && s.uops.all fun e => e.qset != m.qset || decide (m.seq ≤ e.seq) ||
    !([e.rq, e.wq].any fun q => decide (q < 8) && m.mask.testBit q)

/-- The end of a cycle: beats that have left their lanes, and markers that hold nothing (R51, R106). -/
def State.endCycle (s : State) : State :=
  { s with
    beats := s.beats.filter fun b => decide (s.cyc < b.start + b.span)
    markers := s.markers.filter fun m => !s.markerDone m
    served := [], cyc := s.cyc + 1 }

/-- In a cycle one error, or none, may show: a word of memory comes to hold a correctable one, or one that is not, which poisons it; a beat
on a lane is poisoned; or a station reads a register, a bay, a FIFO line, a heap word or an accumulator whose parity fails. Which and
when is free (R386, R387; log entry 136). -/
def State.decay (s : State) : State :=
  let (x, s) := s.draw
  let w := x / 8 % ((2 ^ 34 + 384 * 2 ^ 20) / 8)
  let k := stnOf (x / 8 % 384)
  match x % 8 with
  | 1 => { s with mem := { s.mem with soft := setAdd s.mem.soft w } }
  | 2 => { s with mem := { s.mem with poison := setAdd s.mem.poison w } }
  | 3 => { s with beats := s.beats.zipIdx.map fun (b, i) => if i = x / 8 % s.beats.length then { b with poison := true } else b }
  | 4 => if (s.stn k).run.on then s.machineCheck k 1 else s
  | _ => s

/-- The start of a cycle: raises of the last one are seen, the counters written take their values, the fabric engine's deferred acts are
done, and what it performs for peers goes
on; an error may show; then graph operations start, and then come the steps of the outside world (R185, R369, R386, R403). -/
def State.startCycle (s : State) : List Instr × State :=
  let s := (({ s with stns := s.stns.map Station.commitHs }).writeCounts.lateActs.pumpAll).decay
  let due := fun (x : Nat × Instr) => decide (x.1 ≤ s.cyc) && !isPost x.2
  (s.graphStarts ++ (s.inbox.filter due).map (·.2), { s with inbox := s.inbox.filter fun x => !due x })

/-! ### Phases -/

/-- The phases of a cycle, in order: outside steps; replies; results; lines; the ring and the coachmen; stations; engines of the package;
free steps; request drives; reads; untimed work; writes; issue groups; what follows them. Of drives of one lane stage in one cycle the
first in this order stands and the others are refused (R51): of `ldrive`, of requests, of `lfwd`, of replies (log entries 97 and
119). -/
def State.phaseSteps (s : State) (n : Nat) : List Act × State :=
  let evs := fun (l : List Instr) => l.map Act.ev
  match n with
  | 0 => let (l, t) := s.startCycle; (evs l, t)
  | 1 => let (l, t) := s.landings; (evs (s.replies ++ l), t)
  | 2 => (evs s.results, s)
  | 3 => (evs s.fills, s)
  | 4 => let (l, t) := s.ringSteps; (evs (s.resumeSteps ++ s.tableSteps ++ l ++ s.frameSteps), t.spend)
  | 5 => (evs (s.stationSteps ++ s.presentSteps), s)
  | 6 => (evs (s.graphSteps ++ s.fabricSteps), s)
  | 7 => let (l, t) := s.freeSteps; (evs l, t)
  | 8 => (evs s.requestDrives, s)
  | 9 => let t := s.tapSteps true; (evs t.readSteps, t)
  | 10 => s.untimedSteps
  | 11 => (evs s.writeSteps, s)
  | 12 => (evs (s.each (·.run.on) .issueGroup), s)
  | _ => let (l, t) := (s.tapSteps false).retryPosts.lateSteps; (evs l, t)

/-- The phase that settles the cycle once the issue groups and what follows them are done. -/
def settlePhase : Nat := 14

/-- A phase: its steps and then the next phase come before what was deferred; after the settling, deferred acts are done, and then the
cycle ends. -/
def State.runPhase (s : State) (n : Nat) : State :=
  if n < settlePhase then
    let (l, t) := s.phaseSteps n
    { t with todo := l ++ .phase (n + 1) :: t.todo }
  else if n = settlePhase then
    let t := s.settle.countCycle
    { t with todo := t.todo ++ [.phase (n + 1)] }
  else if s.todo ≠ [] then { s with todo := s.todo ++ [.phase n] }
  else s.endCycle

end Sys2Proof.Machine
end

