-- ==== Sys2Proof/Machine/Step.lean ====
section
/-!
DEFINITION. One step: the next act of the cycle is done; when none is left, the next cycle begins.
-/

namespace Sys2Proof.Machine

/-- A stream releases its next instruction: the instruction is decoded and executed, and the stream advances (R169, R216). -/
def issueNext (s : State) (k : Stn) (e : Engine) : Res :=
  match s.nextInstr k e with
  | .error x => .next (s.decodeTrap k e x)
  | .ok d =>
    match exec d.instr (s.beginInstr k e d) with
    | .next t => .next t.finishInstr
    | .fault x => .fault x
    | .refused x => .refused x

/-- One step of the machine. -/
def step (s : State) : Host.Outcome State Fault Refusal :=
  match s.todo with
  | [] => .next { s with todo := [.phase 0] }
  | a :: r =>
    let s := { s with todo := r }
    match a with
    | .phase n => .next (s.runPhase n)
    | .ev i => exec i s
    | .issue k e => issueNext s k e
    | .finish _ _ => .next s.finishIteration
    | .start k base => .next (s.startBlock k base none)
    | .resume k => .next (s.resumeTask k)
    | .relag k lag => .next (s.onStn k fun t => { t with run := { t.run with lag := lag } })
    | .append p f => .next (s.appendNext p f)
    | .job id => .next (s.runJob id)

/-- The words of a table word put into a ring from index i on. -/
def State.putWords (s : State) (k : Stn) (e : Engine) : Nat → List (Word × Bool) → State
  | _, [] => s
  | i, (w, c) :: r => (s.putRingWord k e i w c).putWords k e (i + 1) r

/-- The state with a table word as the only words of its stream's running half on station 0, about to be released as the first
instruction of a block (log entry 8). -/
def State.withFetchWord (s : State) (nbits w : Nat) : State :=
  let e := ((tableStream nbits w).map (·.1)).getD .conductor
  let ws := tableWords e.space nbits w
  let s := s.putWords 0 e 0 ws
  let s := s.onStn 0 fun t =>
    let t := { t with run := { t.run with on := true, half := false } }
    t.setStream e { t.stream e with pc := 0, stamp := 0, first := true, rep := none, len0 := ws.length }
  { s with todo := [.issue 0 e] }

end Sys2Proof.Machine
end

