-- ==== Sys2Proof/Safety.lean ====
section
/-!
DEFINITION. What statements call a safe state, and the words in which they say what an instruction leaves.
-/

namespace Sys2Proof.Machine

/-! ### The invariant -/

/-- A safe state: memory is in its canonical form, so that every byte has one value and equal memories are equal lists. -/
def State.Inv (s : State) : Prop := s.mem.wf = true

/-! ### What an instruction leaves -/

/-- An instruction completes with a state that P describes. -/
def State.Completes (s : State) (i : Instr) (P : State → Prop) : Prop := ∃ t, exec i s = .next t ∧ P t

/-- t is s but for results that the issuing station has come to owe: no register, no byte of memory, no other station and no unit
of the package differs, and the stream advances as it would have. -/
def State.Owes (s t : State) (ps : List Pend) : Prop :=
  t.here.pend.Perm (ps ++ s.here.pend) ∧ (t = s.onHere fun x => { x with pend := t.here.pend }) ∧ ∀ a, t.byteAt a = s.byteAt a

/-- An effect owed by the issuing engine a number of nominal cycles after its issue. -/
def State.owed (s : State) (lat : Nat) (e : Eff) : Pend := ⟨s.now + lat, s.now, s.cur.e.code, e⟩

/-- The one thing that an instruction does is to owe an effect. -/
def State.Yields (s : State) (i : Instr) (lat : Nat) (e : Eff) : Prop := s.Completes i fun t => s.Owes t [s.owed lat e]

/-- An instruction traps with a cause and a subcode, and does nothing else. -/
def State.TrapsWith (s : State) (i : Instr) (cause sub : Nat) : Prop := exec i s = .next (s.trap cause sub)

/-- No byte of memory, no station but the issuing one, no register file, no system register and no trap register differs. -/
def State.Quiet (s t : State) : Prop :=
  (∀ a, t.byteAt a = s.byteAt a) ∧ (∀ k, k ≠ s.cur.k → t.stn k = s.stn k) ∧
    t.here.regs = s.here.regs ∧ t.here.sys = s.here.sys ∧ t.here.trap = s.here.trap

/-- A vector register is owed a number of nominal cycles after issue: the first word that f gives in each lane that q sets, the other
lanes kept, and in the same cycle the flags that f gives in the lanes that q sets (R85, R272, R273). Nothing else differs. -/
def State.OwesLanes (s t : State) (lat : Nat) (d : BitVec 6) (q : DWord) (f : Nat → Word × Flags) : Prop :=
  ∃ (mask data : Line) (fl : Flags),
    (∀ i, i < 64 → laneOf mask i = if q.getLsbD i then 0xFFFF_FFFF#32 else 0) ∧
    (∀ i, i < 64 → q.getLsbD i = true → laneOf data i = (f i).1) ∧
    (∀ j, j < 7 → (fl.getLsbD j = true ↔ ∃ i, i < 64 ∧ q.getLsbD i = true ∧ (f i).2.getLsbD j = true)) ∧
    s.Owes t (s.owed lat (.vreg d mask data) :: if fl = 0 then [] else [s.owed lat (.flags fl)])

/-- An instruction owes lanes of a vector register, and does nothing else. -/
def State.Lanes (s : State) (i : Instr) (lat : Nat) (d : BitVec 6) (q : DWord) (f : Nat → Word × Flags) : Prop :=
  s.Completes i fun t => s.OwesLanes t lat d q f

/-- A predicate register is owed, with flags set in the same cycle where there are any, and nothing else. -/
def State.OwesPred (s : State) (i : Instr) (lat : Nat) (d : BitVec 3) (v : Nat → Bool) (f : Flags) : Prop :=
  s.Completes i fun t => ∃ w : DWord, (∀ k, k < 64 → w.getLsbD k = v k) ∧
    s.Owes t (s.owed lat (.qreg d (BitVec.allOnes 64) w) :: if f = 0 then [] else [s.owed lat (.flags f)])

/-- t has one timed access more than s: what it is for, and for each run of bytes the bank or the stack, the line, the first
byte and the length, with what it does there. Nothing else is changed but the count of accesses. -/
def State.Sends (s t : State) (use : TUse) (segs : List Seg) (ops : List TOp) : Prop :=
  (t = { s with txns := t.txns, nextId := s.nextId + segs.length }) ∧ (∀ a, t.byteAt a = s.byteAt a) ∧
  ∃ x : Txn, t.txns = s.txns ++ [x] ∧ x.k = s.cur.k ∧ x.nom = s.now ∧ x.use = use ∧
    x.parts.map (fun p => (p.stack, p.bank, p.line, p.lo, p.len)) =
      segs.map (fun g => (g.page.bank.isNone, g.page.bank.getD 0, g.addr / 256 * 256, g.addr % 256, g.len)) ∧
    x.parts.map (·.op) = ops

/-- t has one timed access more than s: what it is for, and for each line access the bank, or none for the stack, the line, the offsets
of the bytes that it touches and what it does there. Nothing else is changed but the count of accesses. -/
def State.SendsTo (s t : State) (use : TUse) (ps : List (Option Stn × Nat × List Nat × TOp)) : Prop :=
  (t = { s with txns := t.txns, nextId := s.nextId + ps.length }) ∧ (∀ a, t.byteAt a = s.byteAt a) ∧
  ∃ x : Txn, t.txns = s.txns ++ [x] ∧ x.k = s.cur.k ∧ x.nom = s.now ∧ x.use = use ∧
    x.parts.map (fun p => (if p.stack then none else some p.bank, p.line, p.offs, p.op)) = ps

/-- t is z with results owed: none where there are no flags, or the flags of a store. -/
def State.WithFlags (z t : State) (f : Flags) : Prop := (f = 0 → t = z) ∧ (f ≠ 0 → ∃ lat, z.Owes t [z.owed lat (.flags f)])

end Sys2Proof.Machine
end

