-- ==== Sys2Proof/Certificates/Slice0/Obligations.lean ====
section
/-! DEFINITION. The statements for the provers. -/

section

open Sys2Proof Sys2Proof.Machine

/-! ### Conductor arithmetic -/

/-- R236, R233: the sums, products, minima and maxima of two scalars, kept mod 2^64, each owed after its latency, and nothing else. R236:
quotient and remainder for a divisor that is not zero: the signed quotient is rounded toward zero, and the signed remainder has the
sign of the dividend. R236: bitwise operations, shifts and the rotation by sB[5:0], and the bit counts. R236: the comparisons, whose
value is 1 or 0, and the selection by the old destination. R238, R239: the immediate forms; `li` gives the sign-extended immediate,
and `lih` replaces bits [63:32] and keeps bits [31:0]. -/
def Obligations.conductor_results : Prop :=
  (∀ (s : State) (d a b : BitVec 5), let x := s.rs a; let y := s.rs b
    s.Yields (.add d a b) 1 (.sreg d (BitVec.ofNat 64 (x.toNat + y.toNat))) ∧
    s.Yields (.sub d a b) 1 (.sreg d (BitVec.ofInt 64 (x.toInt - y.toInt))) ∧
    s.Yields (.mul d a b) 3 (.sreg d (BitVec.ofInt 64 (x.toInt * y.toInt))) ∧
    s.Yields (.mulh d a b) 3 (.sreg d (BitVec.ofInt 64 (x.toInt * y.toInt / 2 ^ 64))) ∧
    s.Yields (.mulhu d a b) 3 (.sreg d (BitVec.ofNat 64 (x.toNat * y.toNat / 2 ^ 64))) ∧
    s.Yields (.min d a b) 1 (.sreg d (BitVec.ofInt 64 (min x.toInt y.toInt))) ∧
    s.Yields (.max d a b) 1 (.sreg d (BitVec.ofInt 64 (max x.toInt y.toInt))) ∧
    s.Yields (.minu d a b) 1 (.sreg d (BitVec.ofNat 64 (min x.toNat y.toNat))) ∧
    s.Yields (.maxu d a b) 1 (.sreg d (BitVec.ofNat 64 (max x.toNat y.toNat)))) ∧
  (∀ (s : State) (d a b : BitVec 5), let x := s.rs a; let y := s.rs b
    y ≠ 0 → ¬(x.toInt = -2 ^ 63 ∧ y.toInt = -1) →
    ∃ q r qu ru : DWord,
      s.Yields (.div d a b) 24 (.sreg d q) ∧ s.Yields (.rem d a b) 24 (.sreg d r) ∧
      s.Yields (.divu d a b) 24 (.sreg d qu) ∧ s.Yields (.remu d a b) 24 (.sreg d ru) ∧
      x.toInt = q.toInt * y.toInt + r.toInt ∧ r.toInt.natAbs < y.toInt.natAbs ∧ (0 ≤ x.toInt → 0 ≤ r.toInt) ∧
      (x.toInt ≤ 0 → r.toInt ≤ 0) ∧ x.toNat = qu.toNat * y.toNat + ru.toNat ∧ ru.toNat < y.toNat) ∧
  (∀ (s : State) (d a b : BitVec 5), let x := s.rs a; let y := s.rs b; let n := y.toNat % 64
    (∃ v : DWord, s.Yields (.and d a b) 1 (.sreg d v) ∧ ∀ i, v.getLsbD i = (x.getLsbD i && y.getLsbD i)) ∧
    (∃ v : DWord, s.Yields (.or d a b) 1 (.sreg d v) ∧ ∀ i, v.getLsbD i = (x.getLsbD i || y.getLsbD i)) ∧
    (∃ v : DWord, s.Yields (.xor d a b) 1 (.sreg d v) ∧ ∀ i, v.getLsbD i = (x.getLsbD i != y.getLsbD i)) ∧
    (∃ v : DWord, s.Yields (.andn d a b) 1 (.sreg d v) ∧ ∀ i, v.getLsbD i = (x.getLsbD i && !y.getLsbD i)) ∧
    s.Yields (.shl d a b) 1 (.sreg d (BitVec.ofNat 64 (x.toNat * 2 ^ n))) ∧
    s.Yields (.shr d a b) 1 (.sreg d (BitVec.ofNat 64 (x.toNat / 2 ^ n))) ∧
    s.Yields (.sra d a b) 1 (.sreg d (BitVec.ofInt 64 (x.toInt / 2 ^ n))) ∧
    (∃ v : DWord, s.Yields (.rotl d a b) 1 (.sreg d v) ∧ ∀ i, i < 64 → v.getLsbD ((i + n) % 64) = x.getLsbD i) ∧
    (∃ v : DWord, s.Yields (.clz d a) 1 (.sreg d v) ∧ v.toNat ≤ 64 ∧ x.toNat < 2 ^ (64 - v.toNat) ∧
      (v.toNat < 64 → x.getLsbD (63 - v.toNat) = true)) ∧
    s.Yields (.popc d a) 1 (.sreg d (BitVec.ofNat 64 ((List.range 64).filter fun i => x.getLsbD i).length))) ∧
  (∀ (s : State) (d a b : BitVec 5), let x := s.rs a; let y := s.rs b
    s.Yields (.seq d a b) 1 (.sreg d (if x = y then 1 else 0)) ∧
    s.Yields (.slt d a b) 1 (.sreg d (if x.toInt < y.toInt then 1 else 0)) ∧
    s.Yields (.sltu d a b) 1 (.sreg d (if x.toNat < y.toNat then 1 else 0)) ∧
    s.Yields (.sel d a b) 1 (.sreg d (if s.rs d = 0 then y else x))) ∧
  (∀ (s : State) (d a : BitVec 5) (i : BitVec 9) (h : BitVec 6) (j : BitVec 13) (w : BitVec 32), let x := s.rs a
    s.Yields (.addi d a i) 1 (.sreg d (BitVec.ofInt 64 (x.toInt + i.toInt))) ∧
    (∃ v : DWord, s.Yields (.andi d a i) 1 (.sreg d v) ∧
      ∀ k, k < 64 → v.getLsbD k = (x.getLsbD k && if k < 9 then i.getLsbD k else i.getLsbD 8)) ∧
    (∃ v : DWord, s.Yields (.ori d a i) 1 (.sreg d v) ∧
      ∀ k, k < 64 → v.getLsbD k = (x.getLsbD k || if k < 9 then i.getLsbD k else i.getLsbD 8)) ∧
    (∃ v : DWord, s.Yields (.xori d a i) 1 (.sreg d v) ∧
      ∀ k, k < 64 → v.getLsbD k = (x.getLsbD k != if k < 9 then i.getLsbD k else i.getLsbD 8)) ∧
    s.Yields (.shli d a h) 1 (.sreg d (BitVec.ofNat 64 (x.toNat * 2 ^ h.toNat))) ∧
    s.Yields (.shri d a h) 1 (.sreg d (BitVec.ofNat 64 (x.toNat / 2 ^ h.toNat))) ∧
    s.Yields (.srai d a h) 1 (.sreg d (BitVec.ofInt 64 (x.toInt / 2 ^ h.toNat))) ∧
    s.Yields (.li d j) 1 (.sreg d (BitVec.ofInt 64 j.toInt)) ∧
    s.Yields (.liWide d w) 1 (.sreg d (BitVec.ofInt 64 w.toInt)) ∧
    s.Yields (.lih d j) 1 (.sreg d (BitVec.ofInt 64 (j.toInt * 2 ^ 32 + (s.rs d).toNat % 2 ^ 32))) ∧
    s.Yields (.lihWide d w) 1 (.sreg d (BitVec.ofNat 64 (w.toNat * 2 ^ 32 + (s.rs d).toNat % 2 ^ 32))))

/-- R237: the two borderline cases of division, which neither trap nor set a flag. -/
def Obligations.division_borderline : Prop :=
  ∀ (s : State) (d a b : BitVec 5),
    (s.rs b = 0 →
      s.Yields (.div d a b) 24 (.sreg d 0xFFFF_FFFF_FFFF_FFFF#64) ∧
      s.Yields (.divu d a b) 24 (.sreg d (BitVec.ofNat 64 (2 ^ 64 - 1))) ∧
      s.Yields (.rem d a b) 24 (.sreg d (s.rs a)) ∧ s.Yields (.remu d a b) 24 (.sreg d (s.rs a))) ∧
    ((s.rs a).toInt = -2 ^ 63 ∧ (s.rs b).toInt = -1 →
      s.Yields (.div d a b) 24 (.sreg d (BitVec.ofInt 64 (-2 ^ 63))) ∧ s.Yields (.rem d a b) 24 (.sreg d 0))

/-! ### Conductor control flow -/

/-- R240: a taken branch continues at its target, one not taken does nothing, and a target outside the running half traps whether the
branch is taken or not. No register, flag or byte of memory changes. R241: `jmp` and `call` continue at (sA + TGT9) mod 512, `call`
also gives the index after its last word, and `ret` continues at sA, which traps beyond 511. R242: `lpset` writes one loop of one
stream from sA and TGT9, a conductor loop with a count of 0 continues after its last instruction, and a bad stream, a reserved bit or
an end below the start traps. R243: `lpbrk` is taken for A = 0 or sA other than 0; it clears the count and SKIP of a loop of the
conductor and continues at TGT9. One not taken does nothing. R243: loop 1 is examined first, so that a nested pair of loops may end on
one instruction: with loop 1 exhausted and loop 0 not, control goes to the start of loop 0. -/
def Obligations.transfers_and_loops : Prop :=
  (∀ (s : State) (a b : BitVec 5) (o : BitVec 9), let x := s.rs a; let y := s.rs b; let tgt : Int := (s.pcRel : Int) + o.toInt
    ∀ p ∈ [(Instr.beq a b o, x = y), (.bne a b o, x ≠ y), (.blt a b o, x.toInt < y.toInt), (.bge a b o, y.toInt ≤ x.toInt),
        (.bltu a b o, x.toNat < y.toNat), (.bgeu a b o, y.toNat ≤ x.toNat)],
      (0 ≤ tgt ∧ tgt ≤ 511 → (p.2 → exec p.1 s = .next { s with jump := some tgt.toNat }) ∧ (¬p.2 → exec p.1 s = .next s)) ∧
      (tgt < 0 ∨ 511 < tgt → s.TrapsWith p.1 0x02 0)) ∧
  (∀ (s : State) (d a : BitVec 5) (g : BitVec 9), let to_ := ((s.rs a).toNat + g.toNat) % 512
    exec (.jmp a g) s = .next { s with jump := some to_ } ∧
    (∃ t : State, exec (.call d a g) s = .next { t with jump := some to_ } ∧
      s.Owes t [s.owed 1 (.sreg d (BitVec.ofNat 64 (s.cur.pc - s.here.run.lo + s.cur.len)))]) ∧
    ((s.rs a).toNat ≤ 511 → exec (.ret a) s = .next { s with jump := some (s.rs a).toNat }) ∧
    (511 < (s.rs a).toNat → s.TrapsWith (.ret a) 0x02 0)) ∧
  (∀ (s : State) (a : BitVec 5) (l : BitVec 1) (g : BitVec 9),
    let v := s.rs a; let code := v.toNat / 2 ^ 32 % 16; let count := v.toNat % 2 ^ 32
    let after := s.cur.pc - s.here.run.lo + s.cur.len
    let start := if code ≤ 1 then after else v.toNat / 2 ^ 36 % 512
    (7 < code ∨ v.toNat / 2 ^ 45 ≠ 0 ∨ g.toNat < start → s.TrapsWith (.lpset a l g) 0x02 0) ∧
    (∀ e, v.toNat / 2 ^ 45 = 0 → start ≤ g.toNat → Engine.ofCode (max code 1) = some e →
      exec (.lpset a l g) s = .next { s with
        stns := s.stns.set s.cur.k.val (s.here.setLoop e l ⟨start, g.toNat, count, decide (count = 0)⟩)
        jump := if e = .conductor ∧ count = 0 then
          some (s.nextIndex s.cur.k .conductor (s.here.run.lo + g.toNat) - s.here.run.lo) else s.jump })) ∧
  (∀ (s : State) (a : BitVec 5) (l : BitVec 1) (g : BitVec 9), let old := (s.here.stream .conductor).loops[l.toNat]'(by omega)
    (a = 0 ∨ s.rs a ≠ 0 → exec (.lpbrk a l g) s = .next { s with
      stns := s.stns.set s.cur.k.val (s.here.setLoop .conductor l ⟨old.st, old.en, 0, false⟩), jump := some g.toNat }) ∧
    (a ≠ 0 → s.rs a = 0 → exec (.lpbrk a l g) s = .next s)) ∧
  (∀ (l0 l1 : Loop) (next : Nat) (idx : Nat → Nat), l0.en = l1.en → l1.ct = 1 → 1 < l0.ct → l0.skip = false → l1.skip = false →
    lpEnd #v[l0, l1] l1.en next idx = (#v[{ l0 with ct := l0.ct - 1 }, { l1 with ct := 0 }], l0.st))

/-- R169, R241, R243: a released instruction that completes leaves its stream with its stamp: the program counter is that of its
transfer's target, or the one that loop-end processing gives. R256, R167, R386: `fork.pf` begins the fetch of the block named by IMM16
or sR[15:0], which replaces any other and empties the standby half; a bad entry of the block table traps. Errors that the read of the
entry corrects are counted and reported before either. R168, R193, R256: `fork` of the block last fetched, whole in the rings, with
every other stream exhausted and every predecessor finished, ends the running block: the next block's start, with base n + 1, is the
last act of the cycle's issue group. R168, R176, R214: what a `fork` traps on: no fetched block, a fetch that a fault abandoned,
whichever block it names (log entry 6), another block, a block that is not whole, words of another stream, and a predecessor that has
not finished. -/
def Obligations.block_change : Prop :=
  (∀ (s : State), let c := s.cur; s.stay = false →
    let x := (s.here.stream c.e); let y := ((s.finishInstr.stn c.k).stream c.e); let lo := s.here.run.lo
    y.stamp = c.stamp ∧ y.first = false ∧ y.rep = none ∧
    (∀ i, s.jump = some i → y.pc = lo + i ∧ y.loops = x.loops) ∧
    (s.jump = none →
      let next := lpEnd x.loops (c.pc - lo) (c.pc - lo + c.len) fun i => s.nextIndex c.k c.e (lo + i) - lo
      y.pc = lo + next.2 ∧ y.loops = next.1) ∧
    s.finishInstr.mem = s.mem ∧ s.finishInstr.pkg = s.pkg ∧ (s.finishInstr.stn c.k).regs = s.here.regs ∧
    (∀ k, k ≠ c.k → s.finishInstr.stn k = s.stn k)) ∧
  (∀ (s : State) (r : BitVec 1) (i : BitVec 16), let b := if r = 1 then (s.rs (i.truncate 5)).toNat % 2 ^ 16 else i.toNat
    let e := s.blockEntry s.cur.k b; let read := s.readEntry s.cur.k b
    (bitsOf s.here.sys.codecfg 63 48 ≤ b ∨ s.mem.softIn (bankKey s.cur.k.val (bitsOf s.here.sys.codecfg 19 3 * 8 + b * 8)) 8 = false → read = s) ∧
    (s.blockOk s.cur.k b = false → exec (.forkPf r i) s = .next (read.trap 0x02 0)) ∧
    (s.blockOk s.cur.k b = true → s.Completes (.forkPf r i) fun t =>
      t.here.run.fetch = some ⟨b, s.cyc, bitsOf e 19 5 * 32, bitsOf e 43 32, bitOf e 62, 0, [], 0, false⟩ ∧
      (∀ g, (t.here.stream g).pc = (s.here.stream g).pc ∧ (t.here.stream g).loops = (s.here.stream g).loops ∧
        (if s.here.run.half then (t.here.stream g).len0 = 0 else (t.here.stream g).len1 = 0)) ∧
      t.here.regs = s.here.regs ∧ t.here.sys = s.here.sys ∧ t.here.pend = s.here.pend ∧ t.pkg = read.pkg ∧
      (∀ a, t.byteAt a = s.byteAt a) ∧ ∀ k, k ≠ s.cur.k → t.stn k = s.stn k)) ∧
  (∀ (s : State) (r : BitVec 1) (i : BitVec 16) (f : Fetch), let b := if r = 1 then (s.rs (i.truncate 5)).toNat % 2 ^ 16 else i.toNat
    s.here.run.fetch = some f → f.block = b → f.fault = false → f.whole s.cyc = true → s.othersBusy s.cur.k = false →
    (bitOf s.here.sys.tskcur 63 = true → s.predsDone s.cur.k = true) →
    s.Completes (.fork r i) fun t =>
      t.todo = s.todo ++ [.start s.cur.k (s.now + 1)] ∧ t.stay = true ∧ t.mem = s.mem ∧ t.pkg = s.pkg ∧
      t.here.regs = s.here.regs ∧ t.here.streams = s.here.streams ∧ t.here.run = s.here.run ∧
      (bitOf s.here.sys.tskcur 63 = true → bitOf t.here.sys.tskcur 63 = false ∧ bitOf t.here.sys.tskcur 62 = true) ∧
      (bitOf s.here.sys.tskcur 63 = false → t.here.sys = s.here.sys) ∧ ∀ k, k ≠ s.cur.k → t.stn k = s.stn k) ∧
  (∀ (s : State) (r : BitVec 1) (i : BitVec 16), let b := if r = 1 then (s.rs (i.truncate 5)).toNat % 2 ^ 16 else i.toNat
    (s.here.run.fetch = none → s.TrapsWith (.fork r i) 0x05 4) ∧
    (∀ f, s.here.run.fetch = some f → f.fault = true → s.TrapsWith (.fork r i) 0x01 6) ∧
    (∀ f, s.here.run.fetch = some f → f.fault = false → f.block ≠ b → s.TrapsWith (.fork r i) 0x05 4) ∧
    (∀ f, s.here.run.fetch = some f → f.block = b → f.fault = false → f.whole s.cyc = false → s.TrapsWith (.fork r i) 0x05 4) ∧
    (∀ f, s.here.run.fetch = some f → f.block = b → f.fault = false → f.whole s.cyc = true → s.othersBusy s.cur.k = true →
      s.TrapsWith (.fork r i) 0x05 5) ∧
    (∀ f, s.here.run.fetch = some f → f.block = b → f.fault = false → f.whole s.cyc = true → s.othersBusy s.cur.k = false →
      bitOf s.here.sys.tskcur 63 = true → s.predsDone s.cur.k = false → s.TrapsWith (.fork r i) 0x05 8))

/-! ### Blocks -/

/-- R171, R257: `rdv` with the join complete does nothing, and traps where another stream is not exhausted. R175, R261: `resync` with
padding that no stream uses and nothing timed in flight takes min(LAG, P) off the lag when its group has issued; with the lag 0 it
changes no lag; otherwise it is a schedule miss. R185, R259: `hsig` raises a semaphore, which later cycles see, and records the raise
of a raised one; `hsig.lo` lowers it at once; an await passes on a raised semaphore and lowers it unless it keeps it, and is a
schedule miss otherwise. -/
def Obligations.padding_and_semaphores : Prop :=
  (∀ (s : State), (s.othersBusy s.cur.k = false → exec .rdv s = .next s) ∧ (s.othersBusy s.cur.k = true → s.TrapsWith .rdv 0x05 5)) ∧
  (∀ (s : State) (i : BitVec 16), let k := s.cur.k; let lag := s.here.run.lag; let m := min lag i.toNat
    let pad := fun t : State => t.here.regs = s.here.regs ∧ t.here.sys = s.here.sys ∧ t.here.run.lag = lag ∧ t.mem = s.mem ∧
      t.pkg = s.pkg ∧ (∀ j, j ≠ k → t.stn j = s.stn j) ∧ t.here.run = { s.here.run with resyncAt := s.now, resyncEnd := s.now + i.toNat }
    (m = 0 → s.Completes (.resync i) fun t => pad t ∧ t.todo = s.todo) ∧
    (0 < m → s.paddingUsed k m = false → s.timedInFlight k = false →
      s.Completes (.resync i) fun t => pad t ∧ t.todo = s.todo ++ [.relag k (lag - m)]) ∧
    (0 < m → s.paddingUsed k m = true ∨ s.timedInFlight k = true → s.TrapsWith (.resync i) 0x05 6)) ∧
  (∀ (s : State) (n : BitVec 6),
    s.Completes (.hsig n) (fun t => t.here.regs.hs = s.here.regs.hs ∧ t.here.regs.hsNew.getLsbD n.toNat = true ∧
      (∀ j, j ≠ n.toNat → t.here.regs.hsNew.getLsbD j = s.here.regs.hsNew.getLsbD j) ∧
      (s.here.regs.hs.getLsbD n.toNat || s.here.regs.hsNew.getLsbD n.toNat → t.here.regs.hsovf.getLsbD n.toNat = true) ∧
      (∀ j, j ≠ n.toNat → t.here.regs.hsovf.getLsbD j = s.here.regs.hsovf.getLsbD j) ∧
      t = s.onHere fun x => { x with regs := { x.regs with hsNew := t.here.regs.hsNew, hsovf := t.here.regs.hsovf } }) ∧
    s.Completes (.hsigLo n) (fun t => t.here.regs.hs.getLsbD n.toNat = false ∧
      (∀ j, j ≠ n.toNat → t.here.regs.hs.getLsbD j = s.here.regs.hs.getLsbD j) ∧
      t = s.onHere fun x => { x with regs := { x.regs with hs := t.here.regs.hs } }) ∧
    (s.here.regs.hs.getLsbD n.toNat = true →
      exec (.hchk 1 n) s = .next s ∧ exec (.hchk 0 n) s = exec (.hsigLo n) s) ∧
    (s.here.regs.hs.getLsbD n.toNat = false → ∀ k, s.TrapsWith (.hchk k n) 0x05 1))

/-- R260: `pause n` has no architectural effect, for every n, `pause 0` among them: no state changes. Its word (opcode 0x56, K = 0) gives
n as IMM16, and any other K is reserved. It never delays an instruction: a step that issues it leaves the stream at its own stamp, to
which the next instruction's gap is added, and no other stream, register or byte of memory changes. -/
def Obligations.pause_does_nothing : Prop :=
  (∀ (s : State) (n : BitVec 16), exec (.pause n) s = .next s) ∧
  (∀ (first : Bool) (w : Word), let g := w.toNat / 2 ^ 27; w.toNat / 2 ^ 19 % 256 = 0x56 → 0 < g → g < 31 →
    decode .conductor first [(w, false)] = if w.toNat / 2 ^ 16 % 8 = 0 then .ok ⟨g, .pause (BitVec.ofNat 16 w.toNat), 1⟩ else .error .reserved) ∧
  (∀ (s : State) (k : Stn) (r : List Act) (g : Nat) (n : BitVec 16), s.todo = .issue k .conductor :: r → let x := (s.stn k).stream .conductor
    decode .conductor x.first ({ s with todo := r }.wordsAt k .conductor x.pc) = .ok ⟨g, .pause n, 1⟩ → ∃ t : State, step s = .next t ∧
      ((t.stn k).stream .conductor).stamp = x.stamp + g ∧ (t.stn k).regs = (s.stn k).regs ∧ t.mem = s.mem ∧
      (∀ e, e ≠ .conductor → (t.stn k).stream e = (s.stn k).stream e) ∧ ∀ j, j ≠ k → t.stn j = s.stn j)

/-! ### Barriers and semaphores -/

/-- R180, R183: `barr` counts an arrival of a member once a phase, and the last arrival sets the cycle of completion, 12 cycles on within
a cluster and 24 across clusters; a station outside the mask, or arriving twice, takes a barrier fault. R181 to R183: a `bwait` that
issues has its phase complete: one two or more phases behind counts STALE, a token two or more ahead takes a barrier fault, and so
does a station outside the mask; the parity form changes nothing. That `bwait.p` by a station outside the mask takes that fault too is
the model's choice: R181 gives it for `bwait` (log entry 7). R179, R271: `bcfg` at resident level of a tag that is free or its
partition's, over stations of its partition, sets the mask and CPH, V where the mask is not empty, SPAN where it has stations of two
clusters, and PART, clears the arrivals, and gives a barrier fault with subcode 4 to every station that waits on the tag, at its
`bwait`; else it traps. -/
def Obligations.barriers : Prop :=
  (∀ (s : State) (t : BitVec 3), let x := s.tag t; let k := s.cur.k
    (x.member k = false → s.TrapsWith (.barr t) 0x08 3) ∧
    (x.member k = true → x.arrived.getLsbD k.val = true → s.TrapsWith (.barr t) 0x08 2) ∧
    (x.member k = true → x.arrived.getLsbD k.val = false → s.Completes (.barr t) fun u =>
      (u.tag t).arrived = x.arrived ||| BitVec.ofNat 384 (2 ^ k.val) ∧ (u.tag t).mask = x.mask ∧
      bitsOf (u.tag t).ctl 8 0 = (bitsOf x.ctl 8 0 + 1) % 512 ∧ (∀ j, 9 ≤ j → bitOf (u.tag t).ctl j = bitOf x.ctl j) ∧
      (bitsOf x.ctl 8 0 + 1 = x.members → (u.tag t).due = some (s.cyc + if bitOf x.ctl 62 then 24 else 12)) ∧
      (bitsOf x.ctl 8 0 + 1 ≠ x.members → (u.tag t).due = x.due) ∧
      (∀ v, v ≠ t → u.tag v = s.tag v) ∧ u.stns = s.stns ∧ u.mem = s.mem ∧
      u = { s with pkg := { s.pkg with tags := u.pkg.tags } })) ∧
  (∀ (s : State) (a : BitVec 5) (t : BitVec 3), let x := s.tag t; let k := s.cur.k
    let d : Int := ((s.rs a).truncate 16 - (x.ctl.extractLsb' 32 16) : BitVec 16).toInt
    (x.member k = false → s.TrapsWith (.bwait a t) 0x08 3 ∧ s.TrapsWith (.bwaitP a t) 0x08 3) ∧
    (x.member k = true → 2 ≤ d → s.TrapsWith (.bwait a t) 0x08 1) ∧
    (x.member k = true → -2 < d → d < 2 → exec (.bwait a t) s = .next s) ∧
    (x.member k = true → d ≤ -2 → s.Completes (.bwait a t) fun u =>
      bitOf u.here.sys.stale 63 = true ∧
      bitsOf u.here.sys.stale 31 0 = min (bitsOf s.here.sys.stale 31 0 + 1) 0xFFFF_FFFF ∧
      u = s.onHere fun y => { y with sys := { y.sys with stale := u.here.sys.stale } }) ∧
    (x.member k = true → exec (.bwaitP a t) s = .next s)) ∧
  (∀ (s : State) (a : BitVec 4) (b : BitVec 5) (g : BitVec 3), s.here.run.level = .resident → let p := s.partOf s.cur.k
    let mask : BitVec 384 := (s.here.bay a.toNat).data.extractLsb' 0 384
    let own := bitOf (s.tag g).ctl 63 = false ∨ bitsOf (s.tag g).ctl 61 58 = p
    let inside := ∀ k : Stn, mask.getLsbD k.val = true → (s.stn k).run.on = true ∧ (s.stn k).run.part = p
    (own → inside → s.Completes (.bcfg a b g) fun t =>
      (t.tag g).mask = mask ∧ (t.tag g).arrived = 0 ∧ (t.tag g).due = none ∧ bitsOf (t.tag g).ctl 47 32 = (s.rs b).toNat % 2 ^ 16 ∧
      bitsOf (t.tag g).ctl 8 0 = 0 ∧ (∀ h, h ≠ g → t.tag h = s.tag h) ∧ t.mem = s.mem ∧
      (bitOf (t.tag g).ctl 63 = true ↔ mask ≠ 0) ∧
      (bitOf (t.tag g).ctl 62 = true ↔ ∃ j k : Stn, mask.getLsbD j.val = true ∧ mask.getLsbD k.val = true ∧ clusterOf j ≠ clusterOf k) ∧
      bitsOf (t.tag g).ctl 61 58 = p % 16 ∧
      (∀ k, (s.stn k).run.waitTag ≠ some g.toNat → t.stn k = s.stn k) ∧
      ∀ k, (s.stn k).run.waitTag = some g.toNat → let y := (s.stn k).stream .conductor
        let tr : Trap := ⟨0x08, 4, 0, true, 1, ⟨1, y.stamp + gapAt (s.wordsAt k .conductor y.pc), y.pc, none⟩⟩
        t.stn k = ((s.onStn k fun x => { x with run := { x.run with waitTag := none, stall := 0 } }).raiseTrap k tr).stn k ∧
        ((s.stn k).trap.halted = false → (s.stn k).trap.taking = none → (t.stn k).trap.taking = some (tr, s.nom k))) ∧
    (¬own ∨ ¬inside → s.TrapsWith (.bcfg a b g) 0x02 0))

/-! ### System instructions -/

/-- R234: the resident-only instructions take an illegal-operand trap at task level, and `cderive.unseal` a capability violation with
subcode 0xB (R20). R268, R376, R377: `trap n` raises a system-call trap with its immediate as the code and completes as an
instruction: its stream goes on at the index behind it. The first trap of a group is the one taken; a second one of the same group
joins it. R268, R382: `eret` at resident level, in the handler of a trap that may be resumed and that has not forked, leaves the
return as the last act of its group; elsewhere it traps. That an `eret` outside a handler is an illegal operand is the model's choice:
R382 is silent there (log entry 95). R268: `halt` at resident level: no stream of the station releases anything more, and nothing else
changes. -/
def Obligations.system_instructions : Prop :=
  (∀ (s : State), s.here.run.level = .task → ∀ (a d : BitVec 4) (b : BitVec 5) (t : BitVec 3),
    s.TrapsWith .eret 0x02 0 ∧ s.TrapsWith .halt 0x02 0 ∧ s.TrapsWith (.mbrecv d) 0x02 0 ∧ s.TrapsWith (.mbpost b a) 0x02 0 ∧
    s.TrapsWith (.bcfg a b t) 0x02 0 ∧ s.TrapsWith (.cderive d a b 4) 0x03 0xB) ∧
  (∀ (s : State) (i : BitVec 16), let x := s.here.trap; let past := some (s.cur.pc - s.here.run.lo + s.cur.len)
    let tr : Trap := ⟨0x0A, 0, i.toNat, false, 2 ^ (s.cur.e.code - 1), ⟨s.cur.e.code, s.cur.stamp, s.cur.pc, s.cur.rpti⟩⟩
    (x.halted = false → x.taking = none →
      exec (.trap i) s = .next { s.onHere fun t => { t with trap := { t.trap with taking := some (tr, s.now) } } with jump := past }) ∧
    (∀ u, x.halted = false → x.taking = some (u, s.now) → u.async = false →
      exec (.trap i) s = .next { s.onHere fun t => { t with trap := { t.trap with taking := some (u.join tr, s.now) } } with jump := past })) ∧
  (∀ (s : State), s.here.run.level = .resident → let t := s.here.trap
    (t.inHandler = true → bitOf t.tcause 62 = true → t.forked = false →
      exec .eret s = .next { s with stay := true, todo := s.todo ++ [.resume s.cur.k] }) ∧
    (t.inHandler = false ∨ bitOf t.tcause 62 = false ∨ t.forked = true → s.TrapsWith .eret 0x02 0)) ∧
  (∀ (s : State), s.here.run.level = .resident →
    s.Completes .halt fun t => t.mayIssue s.cur.k = false ∧ t.here.trap.halted = true ∧
      t = s.onHere fun x => { x with trap := { x.trap with halted := true } })

/-! ### Conductor loads, stores and atomics -/

/-- R60, R174, R244, R245: a load whose checks pass sends one read for each line that it touches, for a scalar or for a capability
register. R22, R23, R102, R244, R245: a store whose checks pass sends the bytes of its register as they are at issue; a capability
goes with its tag, and one without the right to be exported does not leave the station's own bank. R18, R19: the checks of a
capability are made in order, the first that fails decides the subcode of the capability violation, and the access has no effect: an
untagged, a sealed, a null, a foreign capability, a missing right, a capability form off its alignment, and a range outside the
object. R32, R74, R174, R245: what a load or store traps on after its capability passes: a page that is not pinned, a format that its
bytes do not fit, a capability form on a page that is not raw, and, of a scalar and of a capability form alike, a stack access of a
lagging station. That bytes which touch padding give subcode 2 (R74), where R245 gives 1 on every BFP or H6 page, and that a
capability form reports the format (0x5) before a missing right to export (0x9), are the model's choices (log entries 100 and 146). -/
def Obligations.scalar_accesses : Prop :=
  (∀ (s : State) (d : BitVec 5) (c : BitVec 4) (sz : BitVec 3) (j : BitVec 7) (o : Nat) (segs : List Seg),
    let p := s.rc c; let n := szBytes sz
    capCheck p s.nodeId (j.toInt * n) n 1 false (sz == 7) = .ok o → s.segments s.cur.k p.obj 4 o n = some segs →
    (s.here.run.lag = 0 ∨ segs.all (·.page.bank.isSome) = true) →
    (sz ≠ 7 → scalarFormat segs = 0 → s.Completes (.lds d c sz j) fun t =>
      s.Sends t (.load d n (decide (sz.toNat < 4))) segs (segs.map fun _ => .read)) ∧
    (sz = 7 → segs.all (·.page.fmt == 0) = true → s.Completes (.lds d c sz j) fun t =>
      s.Sends t (.loadCap (d.truncate 4)) segs (segs.map fun _ => .read))) ∧
  (∀ (s : State) (d : BitVec 5) (c : BitVec 4) (sz : BitVec 3) (j : BitVec 7) (o : Nat) (segs : List Seg),
    let p := s.rc c; let n := szBytes sz; let v := s.rc (d.truncate 4)
    capCheck p s.nodeId (j.toInt * n) n 2 false (sz == 7) = .ok o → s.segments s.cur.k p.obj 4 o n = some segs →
    (s.here.run.lag = 0 ∨ segs.all (·.page.bank.isSome) = true) →
    (sz ≠ 7 → scalarFormat segs = 0 → s.Completes (.sts d c sz j) fun t =>
      s.Sends t .none segs ((writeSegs segs (leBytes n (s.rs d).toNat) none).map (·.2.2))) ∧
    (sz = 7 → segs.all (·.page.fmt == 0) = true →
      (v.tag = true → v.rights &&& 32 = 0 → segs.any (·.page.bank != some s.cur.k) = true → s.TrapsWith (.sts d c sz j) 0x03 9) ∧
      (v.tag = false ∨ v.rights &&& 32 ≠ 0 ∨ segs.all (·.page.bank == some s.cur.k) = true → s.Completes (.sts d c sz j) fun t =>
        s.Sends t .none segs ((writeSegs segs (leBytes 16 v.bits.toNat) (some v.tag)).map (·.2.2))))) ∧
  (∀ (s : State) (d : BitVec 5) (c : BitVec 4) (sz : BitVec 3) (j : BitVec 7), let p := s.rc c; let n := szBytes sz
    let o : Int := p.cursor + j.toInt * n
    let fails := fun right : Nat => [(1, p.tag = false), (2, p.sealed = true), (3, p.obj = 0), (4, p.node ≠ s.nodeId),
      (5, p.rights &&& right ≠ right), (6, sz = 7 ∧ o % 16 ≠ 0), (7, o < 0 ∨ p.limit < o + n)]
    ∀ i, (h : i < 7) →
      (((fails 1)[i]'h).2 → (∀ m, (g : m < i) → ¬((fails 1)[m]'(Nat.lt_trans g h)).2) → s.TrapsWith (.lds d c sz j) 0x03 (i + 1)) ∧
      (((fails 2)[i]'h).2 → (∀ m, (g : m < i) → ¬((fails 2)[m]'(Nat.lt_trans g h)).2) → s.TrapsWith (.sts d c sz j) 0x03 (i + 1))) ∧
  (∀ (s : State) (d : BitVec 5) (c : BitVec 4) (sz : BitVec 3) (j : BitVec 7) (o : Nat),
    let p := s.rc c; let n := szBytes sz
    (capCheck p s.nodeId (j.toInt * n) n 1 false (sz == 7) = .ok o →
      (s.segments s.cur.k p.obj 4 o n = none → s.TrapsWith (.lds d c sz j) 0x03 8) ∧
      ∀ segs, s.segments s.cur.k p.obj 4 o n = some segs →
        (sz ≠ 7 → scalarFormat segs ≠ 0 → s.TrapsWith (.lds d c sz j) 0x04 (scalarFormat segs)) ∧
        (sz = 7 → segs.all (·.page.fmt == 0) = false → s.TrapsWith (.lds d c sz j) 0x03 5) ∧
        (s.here.run.lag ≠ 0 → segs.any (·.page.bank.isNone) = true →
          (sz ≠ 7 → scalarFormat segs = 0 → s.TrapsWith (.lds d c sz j) 0x05 7) ∧
          (sz = 7 → segs.all (·.page.fmt == 0) = true → s.TrapsWith (.lds d c sz j) 0x05 7))) ∧
    (capCheck p s.nodeId (j.toInt * n) n 2 false (sz == 7) = .ok o →
      (s.segments s.cur.k p.obj 4 o n = none → s.TrapsWith (.sts d c sz j) 0x03 8) ∧
      ∀ segs, s.segments s.cur.k p.obj 4 o n = some segs →
        (sz ≠ 7 → scalarFormat segs ≠ 0 → s.TrapsWith (.sts d c sz j) 0x04 (scalarFormat segs)) ∧
        (sz = 7 → segs.all (·.page.fmt == 0) = false → s.TrapsWith (.sts d c sz j) 0x03 5) ∧
        (s.here.run.lag ≠ 0 → segs.any (·.page.bank.isNone) = true →
          (sz ≠ 7 → scalarFormat segs = 0 → s.TrapsWith (.sts d c sz j) 0x05 7) ∧
          (sz = 7 → segs.all (·.page.fmt == 0) = true →
            (s.rc (d.truncate 4)).tag = false ∨ (s.rc (d.truncate 4)).rights &&& 32 ≠ 0 → s.TrapsWith (.sts d c sz j) 0x05 7))))

/-- R74, R93, R249 to R252: an atomic on a BFP or H6 page traps, where its bytes touch padding with subcode 2 and elsewhere with 1; one
whose checks pass makes its bay PENDING and goes, on a page of a bank that is settled at the bank, as one
timed access, and otherwise into the conductor's store queue, with its operation, size and operands fixed. -/
def Obligations.atomics : Prop :=
  ∀ (s : State) (d a : BitVec 4) (b : BitVec 5) (e : BitVec 4) (z : BitVec 1) (op : BitVec 3) (o : Nat) (g : Seg) (gs : List Seg),
    let c := s.rc a; let n := if z = 1 then 8 else 4
    let pended := fun t : State => (t.here.bay d.toNat).st = .pending ∧ (t.here.bay d.toNat).data = (s.here.bay d.toNat).data ∧
      (∀ i : Nat, i < 16 → i ≠ d.toNat → t.here.bay i = s.here.bay i)
    let same := fun t : State => t.here.regs.s = s.here.regs.s ∧ t.here.regs.c = s.here.regs.c ∧ t.here.sys = s.here.sys ∧
      t.pkg = s.pkg ∧ (∀ k, k ≠ s.cur.k → t.stn k = s.stn k) ∧ ∀ x, t.byteAt x = s.byteAt x
    let timed := fun (t : State) (use : TUse) (at_ : Atom) => t.uops = s.uops ∧ ∃ x : Txn, t.txns = s.txns ++ [x] ∧ x.use = use ∧
      x.parts.map (fun p => (p.bank, p.line, p.lo, p.len, p.op)) = [(g.page.bank.getD 0, g.addr / 256 * 256, g.addr % 256, g.len, .atomic at_)]
    let queued := fun (t : State) (bay : Option Nat) (at_ : Atom) => t.txns = s.txns ∧ ∃ u : UOp, t.uops = s.uops ++ [u] ∧
      u.k = s.cur.k ∧ u.owner = .atom at_ bay ∧ u.rq = 8 ∧ u.wq = 1 ∧ u.dst = some ⟨c.node, c.obj, o⟩ ∧
      u.pieces = [UPiece.plain 0 o n 0 []]
    let free := (s.here.bay d.toNat).st ≠ .pending
    capCheck c s.nodeId 0 n 4 false false = .ok o → s.segments s.cur.k c.obj 4 o n = some (g :: gs) →
    (o % n ≠ 0 → s.TrapsWith (.amo d a b z op) 0x02 0 ∧ s.TrapsWith (.acas d a e z) 0x02 0 ∧ s.TrapsWith (.ared a b z op) 0x02 0) ∧
    (o % n = 0 → ¬free → s.TrapsWith (.amo d a b z op) 0x02 0 ∧ s.TrapsWith (.acas d a e z) 0x02 0) ∧
    (o % n = 0 → blockFormat g.page.fmt = true → let w := scalarFormat (g :: gs)
      (w = 1 ∨ w = 2) ∧ (w = 2 ↔ ∃ x ∈ g :: gs, let u := fmtUnit x.page.fmt x.page.geom
        x.page.fmt ≠ 0 ∧ 1 < u.1 ∧ 65536 / u.2 * u.2 < x.page.po + x.len) ∧
      s.TrapsWith (.ared a b z op) 0x04 w ∧ (free → s.TrapsWith (.amo d a b z op) 0x04 w ∧ s.TrapsWith (.acas d a e z) 0x04 w)) ∧
    (o % n = 0 → blockFormat g.page.fmt = false → (∃ j, g.page.bank = some j) → g.page.aplace = 0 →
      (free → s.Completes (.amo d a b z op) fun t => pended t ∧ same t ∧ timed t (.bay d.toNat) ⟨op.toNat, n, false, s.rs b, 0⟩) ∧
      (free → s.Completes (.acas d a e z) fun t => pended t ∧ same t ∧
        timed t (.bay d.toNat) ⟨0, n, true, s.rs (e ++ 0#1), s.rs (e ++ 1#1)⟩) ∧
      s.Completes (.ared a b z op) fun t => t.here = s.here ∧ same t ∧ timed t .none ⟨op.toNat, n, false, s.rs b, 0⟩) ∧
    (o % n = 0 → blockFormat g.page.fmt = false → g.page.bank = none ∨ g.page.aplace ≠ 0 →
      (free → s.Completes (.amo d a b z op) fun t => pended t ∧ same t ∧ queued t (some d.toNat) ⟨op.toNat, n, false, s.rs b, 0⟩) ∧
      (free → s.Completes (.acas d a e z) fun t => pended t ∧ same t ∧
        queued t (some d.toNat) ⟨0, n, true, s.rs (e ++ 0#1), s.rs (e ++ 1#1)⟩) ∧
      s.Completes (.ared a b z op) fun t => t.here = s.here ∧ same t ∧ queued t none ⟨op.toNat, n, false, s.rs b, 0⟩)

/-- R45, R246, R247: `rld` makes its bay PENDING and enters the conductor's load queue; `bayrd` gives n bytes of a bay at an offset,
extended. A PENDING bay, an offset that is no multiple of n, or one beyond the bay traps. R106, R108, R109: `align` puts a marker into
the conductor's load and store queue, and `fence` one into the queues of its mask; a `fence.eng` that names another engine's queue or
the timed stores traps. -/
def Obligations.bays_and_fences : Prop :=
  (∀ (s : State) (d c : BitVec 4) (sz : BitVec 3) (j : BitVec 7) (o : Nat) (e : BitVec 5) (b : BitVec 5) (u : BitVec 1) (z : BitVec 2),
    let p := s.rc c; let n : Nat := 16 * 2 ^ sz.toNat
    (capCheck p s.nodeId (j.toInt * n) n 1 true false = .ok o →
      (o % n = 0 → (s.here.bay d.toNat).st ≠ .pending → s.Completes (.rld d c sz j) fun t =>
        (t.here.bay d.toNat).st = .pending ∧ t.here.regs.s = s.here.regs.s ∧ t.here.sys = s.here.sys ∧ t.pkg = s.pkg ∧
        (∀ k, k ≠ s.cur.k → t.stn k = s.stn k) ∧ (∀ x, t.byteAt x = s.byteAt x) ∧
        ∃ q : UOp, t.uops = s.uops ++ [q] ∧ q.rq = 0 ∧ q.wq = 8 ∧ q.owner = .rld d.toNat n ∧ q.src = some ⟨p.node, p.obj, o⟩) ∧
      (o % n ≠ 0 ∨ (s.here.bay d.toNat).st = .pending → s.TrapsWith (.rld d c sz j) 0x02 0)) ∧
    (let off := (s.rs b).toNat; let m := 2 ^ z.toNat
      (off < 256 → off % m = 0 → ∃ v : DWord, s.Yields (.bayrd e d b u z) 1 (.sreg e v) ∧
        (∀ i, i < 8 * m → v.getLsbD i = (s.here.bay d.toNat).data.getLsbD (8 * off + i)) ∧
        (∀ i, 8 * m ≤ i → i < 64 → v.getLsbD i = (u == 0 && (s.here.bay d.toNat).data.getLsbD (8 * off + 8 * m - 1)))) ∧
      (256 ≤ off ∨ off % m ≠ 0 → s.TrapsWith (.bayrd e d b u z) 0x02 0))) ∧
  (∀ (s : State) (k : BitVec 3) (m : BitVec 9), s.cur.e = .conductor →
    exec .align s = .next { s with markers := s.markers ++ [⟨s.cur.k, s.cur.k.val, s.seq, 3, 0, false, true, s.cyc⟩], seq := s.seq + 1 } ∧
    (k ≠ 0 ∨ m.toNat &&& 3 = m.toNat → m.toNat % 256 ≠ 0 → exec (.fence k m) s = .next { s with
      markers := s.markers ++ [⟨s.cur.k, s.cur.k.val, s.seq, m.toNat % 256, k.toNat, decide (256 ≤ m.toNat), false, s.cyc⟩], seq := s.seq + 1 }) ∧
    (k ≠ 0 ∨ m.toNat &&& 3 = m.toNat → m.toNat % 256 = 0 → exec (.fence k m) s = .next s) ∧
    (k = 0 → m.toNat &&& 3 ≠ m.toNat → s.TrapsWith (.fence k m) 0x02 0))

/-! ### Capability instructions -/

/-- R20, R253: the derivations of a capability change the one field that their mode names, and a failed check, in the stated order, traps
with its subcode. R15, R255: `cfield` gives a field of a capability, zero-extended; it needs no tag and no right. -/
def Obligations.capability_instructions : Prop :=
  (∀ (s : State) (d a : BitVec 4) (b : BitVec 5), let c := s.rc a; let v := s.rs b
    (c.tag = true → c.sealed = false →
      (∃ e : Cap, s.Yields (.cderive d a b 0) 1 (.creg d e) ∧ e.cursor = v.toNat % 2 ^ 48 ∧ e.rights = c.rights ∧
        e.limit = c.limit ∧ e.obj = c.obj ∧ e.node = c.node ∧ e.tag = true) ∧
      (∃ e : Cap, s.Yields (.cderive d a b 1) 1 (.creg d e) ∧ e.cursor = (c.cursor + v.toNat) % 2 ^ 48 ∧ e.rights = c.rights ∧
        e.limit = c.limit ∧ e.obj = c.obj ∧ e.node = c.node ∧ e.tag = true) ∧
      (c.rights &&& 64 ≠ 0 →
        (∃ e : Cap, s.Yields (.cderive d a b 2) 1 (.creg d e) ∧ e.rights = c.rights &&& (v.toNat % 256) ∧ e.cursor = c.cursor ∧
          e.limit = c.limit ∧ e.obj = c.obj ∧ e.node = c.node ∧ e.tag = true) ∧
        (∃ e : Cap, s.Yields (.cderive d a b 3) 1 (.creg d e) ∧ e.sealed = true ∧ e.rights % 128 = c.rights % 128 ∧
          e.cursor = c.cursor ∧ e.limit = c.limit ∧ e.obj = c.obj ∧ e.node = c.node ∧ e.tag = true)) ∧
      (c.rights &&& 64 = 0 → s.TrapsWith (.cderive d a b 2) 0x03 0xA ∧ s.TrapsWith (.cderive d a b 3) 0x03 0xA)) ∧
    (s.here.run.level = .resident → c.tag = true → c.rights &&& 64 ≠ 0 →
      ∃ e : Cap, s.Yields (.cderive d a b 4) 1 (.creg d e) ∧ e.sealed = false ∧ e.rights % 128 = c.rights % 128 ∧
        e.cursor = c.cursor ∧ e.limit = c.limit ∧ e.obj = c.obj ∧ e.node = c.node ∧ e.tag = true) ∧
    s.Yields (.cderive d a b 5) 1 (.creg d c) ∧
    (∀ m ∈ [0, 1, 2, 3], (c.tag = false → s.TrapsWith (.cderive d a b m) 0x03 1) ∧
      (c.tag = true → c.sealed = true → s.TrapsWith (.cderive d a b m) 0x03 2))) ∧
  (∀ (s : State) (d : BitVec 5) (a : BitVec 4), let w := (s.rc a).bits.toNat
    ∀ p ∈ [((0 : BitVec 4), w / 2 ^ 118), (1, w / 2 ^ 96 % 2 ^ 22), (2, w / 2 ^ 88 % 2 ^ 8), (3, w / 2 ^ 48 % 2 ^ 40), (4, w % 2 ^ 48),
        (5, if (s.rc a).tag then 1 else 0), (6, w % 2 ^ 64), (7, w / 2 ^ 64)],
      s.Yields (.cfield d a p.1) 1 (.sreg d (BitVec.ofNat 64 p.2)))

/-- R254: `cbound` sets LIMIT to sB[39:0] and needs derive. An sB beyond the limit of cA, one of 2^40 or more, and a missing derive
right trap with subcode 0xA, after the checks of R253: an untagged cA with 0x1, a sealed one with 0x2. -/
def Obligations.capability_bound : Prop :=
  ∀ (s : State) (d a : BitVec 4) (b : BitVec 5), let c := s.rc a; let v := (s.rs b).toNat; let ok := c.tag = true ∧ c.sealed = false
    (ok → c.rights &&& 64 ≠ 0 → v ≤ c.limit → v < 2 ^ 40 → ∃ e : Cap, s.Yields (.cbound d a b) 1 (.creg d e) ∧ e.limit = v % 2 ^ 40 ∧
      e.rights = c.rights ∧ e.cursor = c.cursor ∧ e.obj = c.obj ∧ e.node = c.node ∧ e.tag = true) ∧
    (ok → c.rights &&& 64 = 0 ∨ c.limit < v ∨ 2 ^ 40 ≤ v → s.TrapsWith (.cbound d a b) 0x03 0xA) ∧
    (c.tag = false → s.TrapsWith (.cbound d a b) 0x03 1) ∧
    (c.tag = true → c.sealed = true → s.TrapsWith (.cbound d a b) 0x03 2)

/-! ### The coachman's tables, signals and mailboxes -/

/-- R262, R263: `board` and `wbset` whose checks pass send one write, performed at the cluster's coachman four cycles on, with its
result due five nominal cycles on; the tables, the registers and memory are as before. A valid entry of another partition (log entry 81)
traps. -/
def Obligations.table_writes : Prop :=
  ∀ (s : State) (d a b : BitVec 5) (m : BitVec 4), let p := s.partOf s.cur.k; let cl := clusterOf s.cur.k; let i := (s.rs a).toNat
    let r := (s.coachman cl).record i; let e := (s.coachman cl).entry i; let v := s.rs b
    let mine := (s.coachman cl).recPart i = p ∧ s.teamIn p (crTeam r) = true
    let ours := (s.coachman cl).wayPart i = p ∧ s.teamIn p (wbTeam e) = true
    let sent := fun (t : State) (way : Bool) (hi : DWord) =>
      (t.coachman cl).writes = (s.coachman cl).writes ++ [⟨s.cyc + 4, s.cur.k.val, p, way, m.toNat, i, v, hi, d, s.now + 5⟩] ∧
      (t.coachman cl).records = (s.coachman cl).records ∧ (t.coachman cl).waybill = (s.coachman cl).waybill ∧
      t = { s with pkg := { s.pkg with coach := t.pkg.coach } } ∧ ∀ x, t.byteAt x = s.byteAt x
    (4096 ≤ i → s.TrapsWith (.board d a b m) 0x02 0) ∧
    (bitOf r 63 = true → ¬mine → s.TrapsWith (.board d a b m) 0x02 0) ∧
    (i < 4096 → bitOf r 63 = false ∨ mine →
      (m = 0 → bitsOf v 49 48 = 0 ∧ bitsOf v 31 25 = 0 ∧ (bitOf v 63 = false ∨ s.teamIn p (crTeam v) = true)) →
      (m = 3 → v.toNat < 2 ^ 25) → s.Completes (.board d a b m) fun t => sent t false 0) ∧
    (8192 ≤ i → s.TrapsWith (.wbset d a b m) 0x02 0) ∧
    (wbV e = true → ¬ours → s.TrapsWith (.wbset d a b m) 0x02 0) ∧
    (i < 8192 → wbV e = false ∨ ours → (m = 0 → s.waybillOk cl p i (s.rs (b + 1) ++ v) = true) →
      s.Completes (.wbset d a b m) fun t => sent t true (s.rs (b + 1)))

/-- R195, R264: `sig` records an unfired signal with its scope, form and argument, and the level of its code; a seventeenth, or a flag
store whose capability fails or whose offset is no multiple of 8, traps and records nothing. R191, R265: `mbrecv` at resident level
takes the message at the head of the mailbox that `mb_select` gives, whose COUNT falls by one and whose HEAD advances; the class's
cursor moves to it, the bay is PENDING, and the message is read from the slot that was HEAD. Without a mailbox the bay is to be filled
with zeros. A PENDING bay traps. R266: `mbpost` at resident level to a mailbox of its own partition posts bytes 0 to 63 of its bay, as
a host post does, later in the same cycle; another mailbox traps. -/
def Obligations.mailboxes_and_signals : Prop :=
  (∀ (s : State) (k : BitVec 3) (f : BitVec 2) (n : BitVec 6), let c := s.rc (n.truncate 4)
    let ok := f = 2 → ∃ o, capCheck c s.nodeId 0 8 2 true false = .ok o ∧ o % 8 = 0
    (s.here.sigs.length < 16 → ok → s.Completes (.sig k f n) fun t =>
      t.here.sigs = s.here.sigs ++ [⟨k.toNat, f.toNat, n.toNat, c, s.cyc, s.here.run.level⟩] ∧
      (t = s.onHere fun x => { x with sigs := t.here.sigs }) ∧ ∀ a, t.byteAt a = s.byteAt a) ∧
    (16 ≤ s.here.sigs.length ∨ ¬ok → s.TrapsWith (.sig k f n) 0x02 0)) ∧
  (∀ (s : State) (d : BitVec 4), s.here.run.level = .resident → let p := s.partOf s.cur.k
    let rest := fun t : State => (t.here.bay d.toNat).st = .pending ∧ t.here.regs.s = s.here.regs.s ∧ t.here.sys = s.here.sys ∧
      (∀ k, k ≠ s.cur.k → t.stn k = s.stn k) ∧ (∀ x, t.byteAt x = s.byteAt x) ∧ t.txns = s.txns
    ((s.here.bay d.toNat).st = .pending → s.TrapsWith (.mbrecv d) 0x02 0) ∧
    ((s.here.bay d.toNat).st ≠ .pending → s.mbSelect p = none → s.Completes (.mbrecv d) fun t => rest t ∧ t.pkg = s.pkg ∧
      ∃ u : UOp, t.uops = s.uops ++ [u] ∧ u.owner = .mail d.toNat 0 0 ∧ u.pieces = [UPiece.plain 0 0 0 0 []]) ∧
    (∀ c m, (s.here.bay d.toNat).st ≠ .pending → s.mbSelect p = some (c, m) → let v := s.mailbox m
      s.Completes (.mbrecv d) fun t => rest t ∧ (t.part p).cursors[c.val] = m ∧
        bitsOf (t.mailbox m) 56 48 = (bitsOf v 56 48 - 1) % 512 ∧
        bitsOf (t.mailbox m) 27 20 = (bitsOf v 27 20 + 1) % (bitsOf v 47 40 + 1) % 256 ∧
        ∃ u : UOp, t.uops = s.uops ++ [u] ∧ u.owner = .mail d.toNat m 1 ∧
          u.pieces.map (·.src) = (List.range 4).map fun i => bitsOf v 19 0 * 16384 + bitsOf v 27 20 * 64 + 16 * i)) ∧
  (∀ (s : State) (a : BitVec 5) (b : BitVec 4), s.here.run.level = .resident → let m := (s.rs a).toNat
    (m < 131072 → bitsOf (s.mailbox m) 62 59 = s.partOf s.cur.k → exec (.mbpost a b) s = .next { s with
      todo := s.todo ++ [.ev (.hostMailboxPost m true ((List.range 64).map fun i => byteOf (s.here.bay b.toNat).data i))] }) ∧
    (131072 ≤ m ∨ bitsOf (s.mailbox m) 62 59 ≠ s.partOf s.cur.k → s.TrapsWith (.mbpost a b) 0x02 0))

/-! ### System registers, counters and markers -/

/-- R225, R233, R267: a `csr` read gives the register's value of its issue cycle one cycle later; a write takes the old value of sD in the
next cycle, with the read where the form has one; an absent register, or a write that the level or the value forbids, traps. R5, R172,
R186, R187, R379 to R382: what the commonest registers read, and that no program writes the read-only ones: CYC, FRAME, LAG, STNID,
NODEID, TCAUSE, TSTATE, TPC and BAYST. R269: `rcsnap` of a station of the issuer's cluster and team makes its bay PENDING and sends
one snapshot of the target's counters, timed as a line read of its bank; another station, or a PENDING bay, traps. R270, R398 to R400:
`smark` leaves one record of TYPE 6 for its partition's telemetry ring, with its class, value and stamp, and changes nothing else; a
step that appends a record of an earlier cycle writes it at the head of the ring, in a channel cycle that nothing else has taken, and
HEAD rises; a full or closed ring drops it and counts the drop. No register of the station changes. -/
def Obligations.registers_and_marks : Prop :=
  (∀ (s : State) (d : BitVec 5) (n : BitVec 12), let k := s.cur.k; let old := s.rs d
    (s.csrRead k n.toNat = none → ∀ o, s.TrapsWith (.csr d o n) 0x02 0) ∧
    (∀ v, s.csrRead k n.toNat = some v →
      s.Yields (.csr d 0 n) 1 (.sreg d v) ∧
      (s.csrMay k n.toNat old = true →
        s.Yields (.csr d 1 n) 1 (.csr n.toNat old) ∧
        s.Completes (.csr d 2 n) fun t => s.Owes t [s.owed 1 (.sreg d v), s.owed 1 (.csr n.toNat old)]) ∧
      (s.csrMay k n.toNat old = false → s.TrapsWith (.csr d 1 n) 0x02 0 ∧ s.TrapsWith (.csr d 2 n) 0x02 0))) ∧
  (∀ (s : State) (k : Stn), let t := s.stn k
    s.csrRead k 0x00 = some (BitVec.ofNat 64 s.cyc) ∧ s.csrRead k 0x02 = some (BitVec.ofNat 64 (t.run.lag % 2 ^ 40)) ∧
    s.csrRead k 0x04 = some (BitVec.ofNat 64 (k.val / 96 * 128 + k.val % 96)) ∧ s.csrRead k 0x05 = some t.sys.teamid ∧
    s.csrRead k 0x07 = some (BitVec.ofNat 64 s.pkg.svc.node) ∧ s.csrRead k 0x08 = some t.trap.tcause ∧
    s.csrRead k 0x09 = some t.trap.tstate ∧ s.csrRead k 0x0A = some t.trap.tpc ∧ s.csrRead k 0x0D = some t.sys.fflags ∧
    s.csrRead k 0x11 = some t.regs.hs ∧ s.csrRead k 0x12 = some t.regs.hsovf ∧
    (∀ n ∈ [0x00, 0x01, 0x02, 0x04, 0x07, 0x08, 0x09, 0x0A, 0x0E], ∀ v, s.csrMay k n v = false) ∧
    (t.run.level = .task → ∀ n ∈ [0x003, 0x005, 0x006, 0x00C, 0x013, 0x018, 0x01C, 0x300, 0x601, 0x607, 0x60B, 0x60D],
      ∀ v, s.csrMay k n v = false)) ∧
  (∀ (s : State) (d : BitVec 4) (a : BitVec 5), let i := (s.rs a).toNat; let j := stnOf (clusterOf s.cur.k * 96 + i)
    (i < 96 → (s.stn j).sys.teamid = s.here.sys.teamid → (s.here.bay d.toNat).st ≠ .pending → s.Completes (.rcsnap d a) fun t =>
      (t.here.bay d.toNat).st = .pending ∧ t.here.mat = s.here.mat ∧ t.here.regs.s = s.here.regs.s ∧ t.here.sys = s.here.sys ∧
      t.pkg = s.pkg ∧ (∀ k, k ≠ s.cur.k → t.stn k = s.stn k) ∧ (∀ x, t.byteAt x = s.byteAt x) ∧
      ∃ x : Txn, t.txns = s.txns ++ [x] ∧ x.use = .bay d.toNat ∧ x.parts.map (fun p => (p.stack, p.bank, p.op)) = [(false, j, .snap)]) ∧
    (96 ≤ i ∨ (s.stn j).sys.teamid ≠ s.here.sys.teamid ∨ (s.here.bay d.toNat).st = .pending → s.TrapsWith (.rcsnap d a) 0x02 0)) ∧
  ((∀ (s : State) (k : BitVec 3) (i : BitVec 16), s.Completes (.smark k i) fun t =>
    t = { s with pkg := { s.pkg with records := t.pkg.records } } ∧ t.pkg.records.length = s.pkg.records.length + 1 ∧
    ∃ r ∈ t.pkg.records, r.part = s.partOf s.cur.k % 16 ∧ r.fault = false ∧ r.cyc = s.cyc ∧
      r.words = [s.cyc, 6 * 2 ^ 60 + k.toNat * 2 ^ 56 + clusterOf s.cur.k * 2 ^ 54 + localOf s.cur.k * 2 ^ 47 + s.cur.e.code * 2 ^ 44 +
        s.cur.pc * 2 ^ 34, i.toNat, s.cur.stamp]) ∧
  (∀ (s : State) (r : Rec) (l : List Rec) (todo : List Act), s.todo = .append r.part false :: todo → s.pkg.records = r :: l →
    r.fault = false → r.cyc < s.cyc → let q := s.part r.part
    let size := 2 ^ (bitsOf q.tlcfg 59 56 + 8); let head := bitsOf q.tlhead 20 0
    let at_ := bitsOf q.tlcfg 17 0 * 65536 + head % size * 32
    let full := bitOf q.tlcfg 63 = false ∨ (head + 2 ^ 21 - bitsOf q.tltail 20 0) % 2 ^ 21 = size
    (¬full → s.placeTaken (.stack at_) = true → step s = .next { s with todo := todo }) ∧
    (¬full → s.placeTaken (.stack at_) = false → ∃ t : State, step s = .next t ∧ t.stns = s.stns ∧ bitsOf (t.part r.part).tlhead 20 0 = (head + 1) % 2 ^ 21 ∧
      t.mem = s.mem.writeN at_ (r.words.flatMap (leBytes 8))) ∧
    (full → ∃ t : State, step s = .next t ∧ t.stns = s.stns ∧ t.mem = s.mem ∧ bitsOf (t.part r.part).tlhead 20 0 = head ∧
      bitsOf (t.part r.part).tlhead 63 32 = min (bitsOf q.tlhead 63 32 + 1) 0xFFFF_FFFF)))

/-! ### The repeat prefix -/

/-- R222 to R224: a prefix with N iterations whose strides stay within their fields releases the first iteration at once and holds its
stream; with N = 0 it does nothing; a stride that leaves its field traps. R223, R224: an iteration is named with its number and its
stamp, one PERIOD after the one before it, and its instruction, with its fields moved by their strides, is done next; a stepped field
that is reserved traps at its iteration with subcode 2, which is the model's choice: R223 places the checks of decoding before the
first iteration (log entry 96). -/
def Obligations.repeats : Prop :=
  (∀ (s : State) (p : BitVec 5) (n : BitVec 9) (d a b : BitVec 3), let c := s.cur
    exec (.rpt p 0 d a b) s = .next s ∧
    (n ≠ 0 → s.stridesOk c.k c.e c.pc n.toNat d a b = true → exec (.rpt p n d a b) s = .next { s with
      cur := { c with rpti := some 0 }, stay := true, todo := .ev (.repeatIteration c.k c.e) :: s.todo }) ∧
    (n ≠ 0 → s.stridesOk c.k c.e c.pc n.toNat d a b = false →
      exec (.rpt p n d a b) s = .next (({ s with cur := { c with rpti := some 0 } }).trap 0x02 0))) ∧
  (∀ (s : State) (k : Stn) (e : Engine), let x := (s.stn k).stream e; let i := x.rep.getD 0
    let period := (s.ringWord k e x.pc).1.toNat / 2 ^ 27
    (∀ g, s.iteration k e = .ok g → s.Completes (.repeatIteration k e) fun t =>
      t.todo = .ev g.instr :: .finish k e :: s.todo ∧ t.cur.k = k ∧ t.cur.e = e ∧ t.cur.pc = x.pc ∧ t.cur.rpti = some i ∧
      (x.rep.isSome = true → t.cur.stamp = x.stamp + period) ∧ t.stay = false ∧
      t = { s with todo := t.todo, cur := t.cur, jump := none, stay := false }) ∧
    (∀ g, s.iteration k e = .error g → s.Completes (.repeatIteration k e) fun t =>
      t = ({ s with cur := t.cur, jump := none, stay := true }).raiseTrap k
        ⟨0x01, 2, 0, false, 2 ^ (e.code - 1), ⟨e.code, t.cur.stamp, x.pc, some i⟩⟩))

/-! ### Vector instructions on registers -/

/-- R272, R273, R276: lane arithmetic. An INT32 result is exact before it wraps, or is clipped with ISAT under `.sat`, and is due one
cycle on for sums and four on for products; an FP32 result is the function of the number format, two or four cycles on. Lanes that are
not active keep their values and raise no flag. R276: minima and maxima of INT32 lanes, signed or unsigned, and of FP32 lanes, where a
NaN gives `nan_pick` and -0 lies below +0; bitwise operations and shifts by B[4:0] of raw lanes. -/
def Obligations.vector_lanes : Prop :=
  (∀ (s : State) (d a b : BitVec 6) (x : Option VExt), let e := vext x 0xD; let q := s.active e
    let A := laneOf (s.rv a); let B := laneOf (s.rv b); let D := laneOf (s.rv d); let rm := e.rm.toNat
    let int := fun (r : Int) => if e.low.getLsbD 21 then
        (if 2 ^ 31 ≤ r then (0x7FFF_FFFF#32, fISAT) else if r < -2 ^ 31 then (0x8000_0000#32, fISAT) else (BitVec.ofInt 32 r, 0))
      else (BitVec.ofInt 32 r, (0 : Flags))
    (e.t = 0xE →
      s.Lanes (.vadd d a b x) 1 d q (fun i => int ((A i).toInt + (B i).toInt)) ∧
      s.Lanes (.vsub d a b x) 1 d q (fun i => int ((A i).toInt - (B i).toInt)) ∧
      s.Lanes (.vmul d a b x) 4 d q (fun i => int ((A i).toInt * (B i).toInt)) ∧
      s.Lanes (.vfma d a b x) 4 d q (fun i => int ((D i).toInt + (A i).toInt * (B i).toInt)) ∧
      s.Lanes (.vfms d a b x) 4 d q (fun i => int ((D i).toInt - (A i).toInt * (B i).toInt)) ∧
      s.Lanes (.vabs d a x) 1 d q (fun i => int (max (A i).toInt (-(A i).toInt))) ∧
      s.Lanes (.vneg d a x) 1 d q (fun i => int (-(A i).toInt))) ∧
    (e.t ≠ 0xE →
      s.Lanes (.vadd d a b x) 2 d q (fun i => f32Add rm (A i) (B i)) ∧
      s.Lanes (.vsub d a b x) 2 d q (fun i => f32Sub rm (A i) (B i)) ∧
      s.Lanes (.vmul d a b x) 4 d q (fun i => f32Mul rm (A i) (B i)) ∧
      s.Lanes (.vfma d a b x) 4 d q (fun i => f32Fma rm false (D i) (A i) (B i)) ∧
      s.Lanes (.vfms d a b x) 4 d q (fun i => f32Fma rm true (D i) (A i) (B i)) ∧
      s.Lanes (.vabs d a x) 2 d q (fun i => (BitVec.ofNat 32 ((A i).toNat % 2 ^ 31), 0)) ∧
      s.Lanes (.vneg d a x) 2 d q (fun i => (BitVec.ofNat 32 ((A i).toNat + 2 ^ 31), 0)))) ∧
  (∀ (s : State) (d a b : BitVec 6) (x : Option VExt), let A := laneOf (s.rv a); let B := laneOf (s.rv b)
    (let e := vext x 0xD; let q := s.active e
      (e.t = 0xE → e.low.getLsbD 20 = false →
        s.Lanes (.vmax d a b x) 1 d q (fun i => (BitVec.ofInt 32 (max (A i).toInt (B i).toInt), 0)) ∧
        s.Lanes (.vmin d a b x) 1 d q (fun i => (BitVec.ofInt 32 (min (A i).toInt (B i).toInt), 0))) ∧
      (e.t = 0xE → e.low.getLsbD 20 = true →
        s.Lanes (.vmax d a b x) 1 d q (fun i => (BitVec.ofNat 32 (max (A i).toNat (B i).toNat), 0)) ∧
        s.Lanes (.vmin d a b x) 1 d q (fun i => (BitVec.ofNat 32 (min (A i).toNat (B i).toNat), 0))) ∧
      (e.t ≠ 0xE →
        s.Lanes (.vmax d a b x) 2 d q (fun i => (nanPick [A i, B i]).getD (if f32Key (A i) < f32Key (B i) then B i else A i, 0)) ∧
        s.Lanes (.vmin d a b x) 2 d q (fun i => (nanPick [A i, B i]).getD (if f32Key (B i) ≤ f32Key (A i) then B i else A i, 0)))) ∧
    (let q := s.active (vext x 0); let n := fun i => (B i).toNat % 32
      s.Lanes (.vand d a b x) 1 d q (fun i => (A i &&& B i, 0)) ∧ s.Lanes (.vor d a b x) 1 d q (fun i => (A i ||| B i, 0)) ∧
      s.Lanes (.vxor d a b x) 1 d q (fun i => (A i ^^^ B i, 0)) ∧
      s.Lanes (.vshl d a b x) 1 d q (fun i => (BitVec.ofNat 32 ((A i).toNat * 2 ^ n i), 0)) ∧
      s.Lanes (.vshr d a b x) 1 d q (fun i => (BitVec.ofNat 32 ((A i).toNat / 2 ^ n i), 0)) ∧
      s.Lanes (.vsra d a b x) 1 d q (fun i => (BitVec.ofInt 32 ((A i).toInt / 2 ^ n i), 0))))

/-- R278: `vsel` writes lane i of every lane: A if bit i of qS is set, else B. The word of opcode 0x11 with its required extension word
decodes to it; without one (NX = 0), with QE = 0, with a type other than raw, or with another bit set, it is reserved. -/
def Obligations.lane_selection : Prop :=
  (∀ (s : State) (d a b : BitVec 6) (y : VExt), let A := laneOf (s.rv a); let B := laneOf (s.rv b)
    s.Lanes (.vsel d a b y) 1 d (BitVec.allOnes 64) (fun i => (if (s.rq y.q).getLsbD i then A i else B i, 0))) ∧
  (∀ (first : Bool) (w x : Word), let g := w.toNat / 2 ^ 27; w.toNat / 2 ^ 19 % 256 = 0x11 → 0 < g → g < 31 →
    (w.toNat % 2 = 1 → x.toNat / 2 ^ 31 = 1 → x.toNat % 2 ^ 28 = 0 → decode .vector first [(w, false), (x, true)] = .ok ⟨g, .vsel
      (BitVec.ofNat 6 (w.toNat / 2 ^ 13)) (BitVec.ofNat 6 (w.toNat / 2 ^ 7)) (BitVec.ofNat 6 (w.toNat / 2))
      ⟨1, BitVec.ofNat 3 (x.toNat / 2 ^ 28), 0, 0, 0⟩, 2⟩) ∧
    (w.toNat % 2 = 1 → x.toNat / 2 ^ 31 = 0 ∨ x.toNat % 2 ^ 28 ≠ 0 → decode .vector first [(w, false), (x, true)] = .error .reserved) ∧
    (w.toNat % 2 = 0 → decode .vector first [(w, false)] = .error .reserved))

/-- R277, R279: a compare writes a predicate two cycles on, with 0 in the lanes that are not active; an FP32 pair with
a NaN on either side fails every order and raises NV there, is unequal and unordered, and `.eq`, `.ne` and `.un` raise NV on a signalling
NaN only; a pair without one is compared exactly, with -0 equal to +0, and raises nothing. The predicate
instructions combine their registers bit by bit. -/
def Obligations.vector_predicates : Prop :=
  ∀ (s : State) (p r w : BitVec 3) (a b : BitVec 6) (x : Option VExt), let A := laneOf (s.rv a); let B := laneOf (s.rv b)
    (let e := vext x 0xD; let q := s.active e; let cc := e.low.toNat / 2 ^ 19 % 8
      (e.t = 0xE → s.OwesPred (.vcmp p a b x) 2 p (fun i => q.getLsbD i && decide (
        (cc = 0 ∧ A i = B i) ∨ (cc = 1 ∧ A i ≠ B i) ∨ (cc = 2 ∧ (A i).toInt < (B i).toInt) ∨ (cc = 3 ∧ (A i).toInt ≤ (B i).toInt) ∨
        (cc = 4 ∧ (B i).toInt < (A i).toInt) ∨ (cc = 5 ∧ (B i).toInt ≤ (A i).toInt) ∨ (6 ≤ cc ∧ (A i).toNat < (B i).toNat))) 0) ∧
      (e.t ≠ 0xE → ∃ f : Flags, s.OwesPred (.vcmp p a b x) 2 p (fun i => q.getLsbD i && (f32Cmp cc (A i) (B i)).1) f ∧
        (∀ j, j < 7 → (f.getLsbD j = true ↔ ∃ i, i < 64 ∧ q.getLsbD i = true ∧ (f32Cmp cc (A i) (B i)).2.getLsbD j = true)) ∧
        (∀ i, isNan (A i) = true ∨ isNan (B i) = true → let nv := if isSnan (A i) = true ∨ isSnan (B i) = true then fNV else 0
          f32Cmp 0 (A i) (B i) = (false, nv) ∧ f32Cmp 1 (A i) (B i) = (true, nv) ∧ f32Cmp 2 (A i) (B i) = (false, fNV) ∧
          f32Cmp 3 (A i) (B i) = (false, fNV) ∧ f32Cmp 4 (A i) (B i) = (false, fNV) ∧ f32Cmp 5 (A i) (B i) = (false, fNV) ∧
          f32Cmp 6 (A i) (B i) = (true, nv)) ∧
        (∀ i, isNan (A i) = false → isNan (B i) = false → let k := fun w => if isZero w then (0 : Int) else f32Key w
          f32Cmp 0 (A i) (B i) = (decide (k (A i) = k (B i)), 0) ∧ f32Cmp 1 (A i) (B i) = (decide (k (A i) ≠ k (B i)), 0) ∧
          f32Cmp 2 (A i) (B i) = (decide (k (A i) < k (B i)), 0) ∧ f32Cmp 3 (A i) (B i) = (decide (k (A i) ≤ k (B i)), 0) ∧
          f32Cmp 4 (A i) (B i) = (decide (k (B i) < k (A i)), 0) ∧ f32Cmp 5 (A i) (B i) = (decide (k (B i) ≤ k (A i)), 0) ∧
          f32Cmp 6 (A i) (B i) = (false, 0)))) ∧
    s.OwesPred (.pand p r w) 1 p (fun i => (s.rq r).getLsbD i && (s.rq w).getLsbD i) 0 ∧
    s.OwesPred (.por p r w) 1 p (fun i => (s.rq r).getLsbD i || (s.rq w).getLsbD i) 0 ∧
    s.OwesPred (.pxor p r w) 1 p (fun i => (s.rq r).getLsbD i != (s.rq w).getLsbD i) 0 ∧
    s.OwesPred (.pnot p r) 1 p (fun i => !(s.rq r).getLsbD i) 0

/-- R283, R284, R288: scaling by a power of two, the special functions eight cycles on, and the prefix sums, each in its active lanes.
R280 to R282: conversions. `vquant` writes the encoded bytes of the 64 lanes at its offset and updates its scale unit; `vdeq` gives
the decoded elements; an offset that takes the bytes beyond the register traps. `vcvt` writes one slice of the register. That the
scale unit is updated in the issue cycle is the model's choice: R77 and R78 give no cycle (log entry 104). -/
def Obligations.vector_functions : Prop :=
  (∀ (s : State) (d a b : BitVec 6) (x : Option VExt), let e := vext x 0xD; let q := s.active e; let rm := e.rm.toNat
    let A := laneOf (s.rv a); let B := laneOf (s.rv b)
    s.Lanes (.vscale d a b x) 2 d q (fun i => f32Scale rm (A i) (max (-512) (min 512 (B i).toInt))) ∧
    s.Lanes (.vexp2 d a x) 8 d q (fun i => f32Exp2 rm (A i)) ∧ s.Lanes (.vrcp d a x) 8 d q (fun i => f32Rcp rm (A i)) ∧
    s.Lanes (.vrsq d a x) 8 d q (fun i => f32Rsq rm (A i)) ∧ s.Lanes (.vlog2 d a x) 8 d q (fun i => f32Log2 rm (A i)) ∧
    (∃ f : Nat → Flags, s.Lanes (.vscan d a b x) 8 d q fun i =>
      let leaf := fun w => if e.t = 0xE then (⟨w, false, false⟩ : Partial) else leafOf w
      let t := (treeSum (e.t == 0xE) ((List.range (i + 1)).map fun j => if q.getLsbD j then some (leaf (A j)) else none)).1
      (((combineOpt (e.t == 0xE) (some (leaf (B 0))) t).1.getD ⟨0, false, false⟩).v, f i))) ∧
  (∀ (s : State) (d a : BitVec 6) (x : Option VExt) (y : VExt), let e := vext x 0; let t := e.t.toNat; let geo := e.low.toNat / 2 ^ 20 % 4
    let ofs := e.low.toNat / 2 ^ 8 % 256; let per := fmtUnit t geo; let blocks := 64 / per.1; let n := blocks * per.2
    let unit := if e.low.getLsbD 19 then some (e.low.toNat / 2 ^ 16 % 8) else none
    (256 < ofs + n → s.TrapsWith (.vquant d a x) 0x02 0 ∧ s.TrapsWith (.vdeq d a x) 0x02 0) ∧
    (ofs + n ≤ 256 →
      (let out := encodeRun t geo 0 blocks ((lanesOf (s.rv a)).map fval) (unit.map s.here.scaleUnit);
        s.Completes (.vquant d a x) fun u =>
          (∃ z : State, (z = s ∨ ∃ i w, unit = some i ∧ out.unit = some w ∧ z = s.onHere fun h => h.setScaleUnit i w) ∧
            z.Owes u (s.owed 4 (.vreg d (byteMask ofs n) (BitVec.ofNat 2048 (leNat out.bytes * 2 ^ (8 * ofs)))) ::
              if out.flags = 0 then [] else [s.owed 4 (.flags out.flags)])) ∧
          (∀ i, unit = some i → ∀ w, out.unit = some w → u.here.scaleUnit i = w)) ∧
      s.Lanes (.vdeq d a x) 4 d (s.active e) (fun i =>
        (BitVec.ofNat 32 (FpFmt.f32.encode 0 ((decodeRun t geo blocks (((bytesOf (s.rv a)).drop ofs).take n)).getD i (.fin false 0 0))).1,
          0))) ∧
    (let src := y.low.toNat / 2 ^ 18 % 16; let m := fmtBits y.t.toNat; let k := fmtBits src
      let from_ := (s.rv a).toNat / 2 ^ (64 * k * (y.low.toNat / 2 ^ 16 % 4)); let to_ := 64 * m * (y.low.toNat / 2 ^ 14 % 4)
      let r := fun i => convertElem src y.t.toNat y.rm.toNat (from_ / 2 ^ (k * i) % 2 ^ k)
      s.Completes (.vcvt d a y) fun u => ∃ (mask data : Line) (fl : Flags),
        s.Owes u (s.owed 2 (.vreg d mask data) :: if fl = 0 then [] else [s.owed 2 (.flags fl)]) ∧
        data = BitVec.ofNat 2048 (packFields m ((List.range 64).map fun i => if (s.active y).getLsbD i then (r i).1 else 0) * 2 ^ to_) ∧
        mask = BitVec.ofNat 2048 (packFields m ((List.range 64).map fun i => if (s.active y).getLsbD i then 2 ^ m - 1 else 0) * 2 ^ to_)))

/-- R285 to R287, R296: reductions. `vredsum.add` adds the chunk of its elements to the tree state in vD, `.mrg` merges two states, `.get` reads one; `vredmax` gives the greatest active lane and its number; `vlse` gives a maximum and a scaled sum. -/
def Obligations.vector_reductions : Prop :=
  ∀ (s : State) (d a b : BitVec 6) (x : Option VExt), let e := vext x 0xD; let int := e.t == 0xE; let mode := e.low.toNat / 2 ^ 20 % 4
    let whole := fun (i : Instr) (lat : Nat) (ws : List Word) (f : Flags) => s.Completes i fun t =>
      s.Owes t (s.owed lat (.vreg d (BitVec.allOnes 2048) (lineOfLanes ws)) :: if f = 0 then [] else [s.owed lat (.flags f)])
    let g := (laneOf (s.rv b) 0).toNat; let ws := s.chunkWords a (if x.isNone then 256 else e.low.toNat / 2 ^ 12 % 256 + 1)
    let chunk := if int then clip32 (ws.map BitVec.toInt).sum else chunkElems ws
    (mode = 0 → 60 < a.toNat → s.TrapsWith (.vredsum d a b x) 0x02 0) ∧
    (mode = 0 → a.toNat ≤ 60 → g % 256 ≠ 0 ∨ 2 ^ 32 ≤ g → s.TrapsWith (.vredsum d a b x) 0x04 3) ∧
    (∀ old z f, mode = 0 → a.toNat ≤ 60 → g % 256 = 0 → lanesState (lanesOf (s.rv d)) = some old →
      mergeOpt old (some (oneChunk int (g / 256) chunk.1)) = some (z, f) →
      whole (.vredsum d a b x) 8 (stateLanes z) (f ||| chunk.2)) ∧
    (∀ u v z f, mode = 1 → lanesState (lanesOf (s.rv a)) = some u → lanesState (lanesOf (s.rv b)) = some v →
      mergeOpt u v = some (z, f) → whole (.vredsum d a b x) 8 (stateLanes z) f) ∧
    (∀ u v, mode = 1 → lanesState (lanesOf (s.rv a)) = some u → lanesState (lanesOf (s.rv b)) = some v → mergeOpt u v = none →
      s.TrapsWith (.vredsum d a b x) 0x04 4) ∧
    (∀ u, 2 ≤ mode → lanesState (lanesOf (s.rv a)) = some u →
      whole (.vredsum d a b x) 8 [(readElem u).1.v, BitVec.ofNat 32 (b2n (readElem u).1.n * 2 + b2n (readElem u).1.p)] (readElem u).2) ∧
    (let A := laneOf (s.rv a); let q := s.active e
      ((∀ i, i < 64 → q.getLsbD i = false) →
        whole (.vredmax d a x) 5 [if int then 0x8000_0000 else 0xFF80_0000, 0xFFFF_FFFF] 0) ∧
      (∀ w f, int = false → nanPick (((List.range 64).filter fun i => q.getLsbD i).map A) = some (w, f) →
        ∃ i, i < 64 ∧ q.getLsbD i = true ∧ isNan (A i) = true ∧ whole (.vredmax d a x) 5 [w, BitVec.ofNat 32 i] f) ∧
      (∀ i, int = true → i < 64 → q.getLsbD i = true → (∀ j, j < 64 → q.getLsbD j = true → (A j).toInt ≤ (A i).toInt) →
        (∀ j, j < i → q.getLsbD j = true → (A j).toInt < (A i).toInt) → whole (.vredmax d a x) 5 [A i, BitVec.ofNat 32 i] 0) ∧
      (∀ i, int = false → i < 64 → q.getLsbD i = true → (∀ j, j < 64 → q.getLsbD j = true → isNan (A j) = false) →
        (∀ j, j < 64 → q.getLsbD j = true → f32Key (A j) ≤ f32Key (A i)) →
        (∀ j, j < i → q.getLsbD j = true → f32Key (A j) < f32Key (A i)) → whole (.vredmax d a x) 5 [A i, BitVec.ofNat 32 i] 0)) ∧
    (let A := laneOf (s.rv a); let B := laneOf (s.rv b); let q := s.active e
      let r := if e.low.getLsbD 21 then lseMrg (A 0) (A 1) (B 0) (B 1)
        else lseAcc (B 0) (B 1) ((List.range 64).map fun i => if q.getLsbD i then some (A i) else none)
      whole (.vlse d a b x) 12 [r.1, r.2.1] r.2.2)

/-- R289: moves, permutes and immediates, none of which sets a flag: a lane number of 64 or more gives 0 in `vperm`, and `vslide` takes
the lanes beyond the end of vA from vB. R94, R95, R294, R295: the counter generator gives vrng its lanes; `vdrop` keeps the lanes that
the keep test passes, scaled, and zeroes the others, and gives their predicate on request; `vtopk` gives the lanes of greatest key
with their values, and counts them. -/
def Obligations.vector_moves_and_routing : Prop :=
  (∀ (s : State) (d a b : BitVec 6) (im : BitVec 12) (x : Option VExt), let A := laneOf (s.rv a); let B := laneOf (s.rv b)
    (let e := vext x 0; let q := s.active e; let low := e.low.toNat; let n : Int := (BitVec.ofNat 7 (low / 2 ^ 15)).toInt
      let whole := fun (mask data : Line) => s.Yields (.vpack d a b x) 2 (.vreg d mask data)
      let bytes := fun k w => packFields w ((List.range 64).map (fun i => (A i).toNat % 2 ^ w) ++ (List.range k).map fun i => (B i).toNat % 2 ^ w)
      s.Lanes (.vmov d a x) 1 d q (fun i => (A i, 0)) ∧
      s.Lanes (.vperm d a b x) 2 d q (fun i => (if (B i).toNat < 64 then A (B i).toNat else 0, 0)) ∧
      s.Lanes (.vbcast d a x) 2 d q (fun _ => (A (low / 2 ^ 16 % 64), 0)) ∧
      (0 ≤ n → s.Lanes (.vslide d a b x) 2 d q
        (fun i => (if i + n.toNat < 64 then A (i + n.toNat) else B (i + n.toNat - 64), 0))) ∧
      (-64 < n → n < 0 → s.Lanes (.vslide d a b x) 2 d q
        (fun i => (if n.natAbs ≤ i then A (i - n.natAbs) else B (i + 64 - n.natAbs), 0))) ∧
      (low / 2 ^ 20 % 4 = 0 → whole (BitVec.allOnes 2048) (BitVec.ofNat 2048 (bytes 64 16))) ∧
      (low / 2 ^ 20 % 4 = 1 → whole (BitVec.ofNat 2048 (2 ^ 1024 - 1)) (BitVec.ofNat 2048 (bytes 64 8))) ∧
      (low / 2 ^ 20 % 4 = 2 → s.Lanes (.vpack d a b x) 2 d (BitVec.allOnes 64)
        (fun i => (BitVec.ofNat 32 ((s.rv a).toNat / 2 ^ (16 * (64 * (low / 2 ^ 19 % 2) + i)) % 2 ^ 16), 0))) ∧
      (low / 2 ^ 20 % 4 = 3 → s.Lanes (.vpack d a b x) 2 d (BitVec.allOnes 64)
        (fun i => (BitVec.ofNat 32 ((s.rv a).toNat / 2 ^ (8 * (64 * (low / 2 ^ 18 % 4) + i)) % 2 ^ 8), 0)))) ∧
    (let e := vext x 0xE; let q := s.active e
      (e.t = 0 → s.Lanes (.vli d im x) 1 d q (fun _ => (BitVec.ofNat 32 (e.low.toNat % 2 ^ 20 * 2 ^ 12 + im.toNat), 0))) ∧
      (e.t = 0xE → s.Lanes (.vli d im x) 1 d q
        (fun i => (BitVec.ofInt 32 (im.toInt + if e.low.getLsbD 21 then (i : Int) else 0), 0))) ∧
      (e.t = 0xD → ∃ w : Word, s.Lanes (.vli d im x) 1 d q (fun _ => (w, 0)) ∧
        (FpFmt.f32.decode w.toNat) = FpFmt.f32.decode (FpFmt.f32.round 0 (decide (im.toInt < 0)) false im.toInt.natAbs 0).1))) ∧
  (∀ (s : State) (d a b : BitVec 6) (x : Option VExt), let A := laneOf (s.rv a); let B := laneOf (s.rv b)
    let key : DWord := B 1 ++ B 0; let layer := (B 2).toNat % 2 ^ 16; let stream := (B 2).toNat / 2 ^ 16
    (let e := vext x 0; s.Lanes (.vrng d a b x) 4 d (s.active e) fun i =>
      let r := (cg key layer stream (A i).toNat).toNat
      (BitVec.ofNat 32 (if e.low.getLsbD 21 then r / 2 ^ 32 else r), 0)) ∧
    (let e := vext x 0xD; let q := s.active e
      let kept := fun i => keeps key layer stream (((B 4).toNat + i) % 2 ^ 32) ((B 3).toNat % 2 ^ 24)
      let r := fun i => if kept i then f32Mul e.rm.toNat (A i) (B 5) else (0, 0)
      (2 ^ 24 ≤ (B 3).toNat → s.TrapsWith (.vdrop d a b x) 0x02 0) ∧
      ((B 3).toNat < 2 ^ 24 → e.low.getLsbD 21 = false → s.Lanes (.vdrop d a b x) 5 d q r) ∧
      ((B 3).toNat < 2 ^ 24 → e.low.getLsbD 21 = true → s.Completes (.vdrop d a b x) fun t =>
        ∃ (u : State) (w : DWord), s.OwesLanes u 5 d q r ∧ (∀ i, i < 64 → w.getLsbD i = (q.getLsbD i && kept i)) ∧
          u.Owes t [s.owed 5 (.qreg (BitVec.ofNat 3 (e.low.toNat / 2 ^ 18 % 8)) (BitVec.allOnes 64) w)])) ∧
    (let e := vext x 0xD; let q := s.active e; let k := e.low.toNat / 2 ^ 16 % 32 + 1
      let score := fun i => (f32Add 0 (A i) (B i)).1
      let rank := fun i => if isZero (score i) then 0 else f32Key (score i)
      let top := topLanes rank k ((List.range 64).filter fun i => q.getLsbD i && !isNan (score i))
      s.Completes (.vtopk d a b x) fun t => ∃ data : Line,
        s.Owes t (s.owed 6 (.vreg d (BitVec.allOnes 2048) data) ::
          if e.low.getLsbD 21 = true ∧ top ≠ [] then [s.owed 4 (.counts top)] else []) ∧
        (∀ j, j < k → laneOf data j = BitVec.ofNat 32 (top.getD j 0xFFFF_FFFF)) ∧
        (∀ j, j < k → laneOf data (32 + j) = ((top[j]?).map A).getD defaultNan) ∧ ∀ j, k ≤ j → j < 32 → laneOf data j = 0))

/-! ### Vector memory instructions -/

/-- R290, R291, R102: a vector load or store checks the bytes of its active lanes in order, of a BFP lane its exponent byte and its element, then
the page, the operands that the page's format admits of a store, the format and the lines that it touches; one without an active lane
does nothing. Where the page of the start is not pinned the first pinned page of the 256 bytes gives the format (log entry 14). A load whose checks pass sends one read for each line, a store sends the bytes that its active
lanes hold, encoded where the formats differ, with the flags of the encoding; the unit that its extension names on a BFP page takes the word
that the encoding computes. The model's choices: what an access without an active lane still checks (log entry 101), the format check of
inactive lanes (log entry 124), the update in the issue cycle (log entry 104) and the cycle of the flags (log entry 15). -/
def Obligations.vector_loads_stores : Prop :=
  ∀ (s : State) (d : BitVec 6) (c : BitVec 4) (i : BitVec 8) (x : Option VExt), let e := vext x 0; let q := s.active e
    let p := s.rc c; let o : Int := p.cursor + i.toInt * 256
    let pg := s.formatPage p.obj o
    let fmt := (pg.map (·.1.fmt)).getD 0; let geom := (pg.map (·.1.geom)).getD 0
    let unit := if e.t = 0 ∨ fmt = 0 then (1, 4) else fmtUnit fmt geom; let len := 64 / unit.1 * unit.2
    let runs := fun j => elemRuns (isBfp fmt && !(unit.1 == 1)) unit.1 unit.2 (j % unit.1)
    let check := fun need j (r : Nat × Nat) => capCheck p s.nodeId (i.toInt * 256 + (j / unit.1 * unit.2 + r.1 : Nat)) r.2 need false false
    let ok := fun need j => ∀ r ∈ runs j, ∃ o, check need j r = .ok o
    let bad := fun need j sub => (runs j).findSome? (fun r => match check need j r with
      | .error x => some x
      | .ok _ => none) = some sub
    let pass := fun need => ∀ j, j < 64 → q.getLsbD j = true → ok need j
    let some_ := ∃ j, j < 64 ∧ q.getLsbD j = true
    let takes := (isBfp fmt = true ∨ fmt = 9 → e.rm = 0 ∧ e.qe = 0) ∧ (fmt = 8 → e.rm = 0)
    let places := fun (ls : List FootLine) (op : FootLine → TOp) => ls.map fun l => (l.seg.page.bank, l.seg.line, l.offs, op l)
    (e.low.getLsbD 21 = true → s.TrapsWith (.vld d c i x) 0x02 0) ∧
    (¬some_ → (e.low.getLsbD 21 = false → exec (.vld d c i x) s = .next s) ∧ (takes → exec (.vst d c i x) s = .next s)) ∧
    (pass 2 → pg ≠ none → ¬takes → s.TrapsWith (.vst d c i x) 0x02 0) ∧
    (∀ j r, j < 64 → q.getLsbD j = true → (∀ m, m < j → q.getLsbD m = true → ok 1 m) → bad 1 j r →
      e.low.getLsbD 21 = false → s.TrapsWith (.vld d c i x) 0x03 r) ∧
    (∀ j r, j < 64 → q.getLsbD j = true → (∀ m, m < j → q.getLsbD m = true → ok 2 m) → bad 2 j r → s.TrapsWith (.vst d c i x) 0x03 r) ∧
    (some_ → pg = none → (e.low.getLsbD 21 = false → pass 1 → s.TrapsWith (.vld d c i x) 0x03 8) ∧
      (pass 2 → s.TrapsWith (.vst d c i x) 0x03 8)) ∧
    ∀ g po, pg = some (g, po) → some_ →
      let f : Footprint := ⟨p.obj, o, po, fmt, geom, unit.1, unit.2, len⟩
      let sub := spanCheck fmt geom po len
      (sub ≠ 0 → (e.low.getLsbD 21 = false → pass 1 → s.TrapsWith (.vld d c i x) 0x04 sub) ∧
        (pass 2 → takes → s.TrapsWith (.vst d c i x) 0x04 sub)) ∧
      (sub = 0 → s.footLines f q = none → (e.low.getLsbD 21 = false → pass 1 → s.TrapsWith (.vld d c i x) 0x03 8) ∧
        (pass 2 → takes → s.TrapsWith (.vst d c i x) 0x03 8)) ∧
      (∀ ls, sub = 0 → s.footLines f q = some ls → s.here.run.lag ≠ 0 → ls.any (·.seg.page.bank.isNone) = true →
        (e.low.getLsbD 21 = false → pass 1 → s.TrapsWith (.vld d c i x) 0x05 7) ∧ (pass 2 → takes → s.TrapsWith (.vst d c i x) 0x05 7)) ∧
      (∀ ls, sub = 0 → s.footLines f q = some ls → s.here.run.lag = 0 ∨ ls.all (·.seg.page.bank.isSome) = true →
        (e.low.getLsbD 21 = false → pass 1 → s.Completes (.vld d c i x) fun t =>
          s.SendsTo t (.vload d e.t.toNat fmt geom e.rm.toNat q ((ls.head?.map (·.pos)).getD 0)) (places ls fun _ => .read)) ∧
        (pass 2 → takes →
          (e.t = 0 ∨ fmt = 0 ∨ e.t.toNat = fmt → s.Completes (.vst d c i x) fun t =>
            s.SendsTo t .none (places ls fun l => .write (l.act.map fun m => (l.seg.addr % 256 + (m - l.pos), byteOf (s.rv d) m)) none)) ∧
          (e.t ≠ 0 → fmt ≠ 0 → e.t.toNat ≠ fmt →
            let ssu := if e.low.getLsbD 21 && isBfp fmt then some (e.low.toNat / 2 ^ 18 % 8) else none
            let out := encodeRun fmt geom e.rm.toNat (64 / unit.1)
              ((List.range 64).map fun m => if q.getLsbD m then decElem e.t.toNat (laneOf (s.rv d) m).toNat else .fin false 0 0)
              (ssu.map s.here.scaleUnit)
            s.Completes (.vst d c i x) fun t => ∃ z u : State,
              (∀ n w, ssu = some n → out.unit = some w → z = (s.onHere fun h => h.setScaleUnit n w) ∧ t.here.scaleUnit n = w) ∧
              (ssu = none ∨ out.unit = none → z = s) ∧
              z.SendsTo u .none (places ls fun l => .write (l.act.map fun m => (l.seg.addr % 256 + (m - l.pos), out.bytes.getD m 0)) none) ∧
              u.WithFlags t out.flags)))

/-- R292, R293, R297: a gather whose checks pass reads each distinct line once, and takes from it the words of the lanes on it; a
scatter writes each line once, with the bytes of the highest lane where two lanes give one byte. `vpush` appends its register to an
operand FIFO in the next cycle, and `vpop` takes the oldest line; a full or an empty FIFO is a schedule miss. -/
def Obligations.gathers_and_fifos : Prop :=
  (∀ (s : State) (d : BitVec 6) (c : BitVec 4) (i : BitVec 8) (x : VExt) (need : Nat) (os : List (Nat × Nat)) (l : LaneAt)
      (ls : List LaneAt), let q := s.active x; let p := s.rc c; let all := l :: ls
    let idx := s.rv (BitVec.ofNat 6 (x.low.toNat / 2 ^ 16 % 64)); let lines := gatherLines all []
    let word := fun (l : LaneAt) => convert4 x.t.toNat l.page.fmt x.rm.toNat (laneOf (s.rv d) l.lane)
    gatherOffs p s.nodeId (i.toInt * 256) need idx (lanesIn q) = .ok os → all.map (fun l => (l.lane, l.o)) = os →
    (∀ l ∈ all, s.pin s.cur.k p.obj l.o = some l.page ∧ l.o % 4 = 0 ∧ l.page.fmt ∈ [0, 0xD, 0xE]) →
    (∃ b, ∀ l ∈ all, l.page.bank = some b) →
    (need = 1 → s.Completes (.vgat d c i x) fun t => ∃ due,
      (∀ a, t.byteAt a = s.byteAt a) ∧ (t = { s with txns := t.txns, nextId := s.nextId + lines.length }) ∧
      ∃ y : Txn, t.txns = s.txns ++ [y] ∧ y.k = s.cur.k ∧ y.nom = s.now ∧
        y.use = .gather d x.t.toNat x.rm.toNat (all.map fun l => (l.lane, l.page.fmt, lines.idxOf l.line * 256 + l.off)) due ∧
        y.parts.map (fun p => (p.stack, some p.bank, p.line, p.op)) = lines.map fun a => (false, l.page.bank, a, .read)) ∧
    (need = 2 → s.Completes (.vsct d c i x) fun t => ∃ u : State,
      (∀ a, t.byteAt a = s.byteAt a) ∧ (u = { s with txns := u.txns, nextId := s.nextId + lines.length }) ∧
      u.WithFlags t (orFlags (all.map fun l => (word l).2)) ∧
      ∃ y : Txn, u.txns = s.txns ++ [y] ∧ y.k = s.cur.k ∧ y.nom = s.now ∧ y.use = .none ∧
        y.parts.map (fun p => (p.stack, some p.bank, p.line)) = (lines.map fun a => (false, l.page.bank, a)) ∧
        ∀ p ∈ y.parts, ∃ bs, p.op = .write bs none ∧ ∀ off b, (off, b) ∈ bs ↔
          ∃ (n : Nat) (h : n < all.length) (j : Nat), j < 4 ∧ all[n].line = p.line ∧ off = all[n].off + j ∧
            b = (word all[n]).1.extractLsb' (8 * j) 8 ∧
            ∀ (m : Nat) (g : m < all.length), n < m → all[m].line = p.line → off < all[m].off ∨ all[m].off + 4 ≤ off)) ∧
  (∀ (s : State) (d : BitVec 6) (c : BitVec 4) (i : BitVec 8) (x : VExt), let q := s.active x
    ((∀ j, j < 64 → q.getLsbD j = false) → exec (.vgat d c i x) s = .next s ∧ exec (.vsct d c i x) s = .next s) ∧
    (∀ r, gatherOffs (s.rc c) s.nodeId (i.toInt * 256) 1 (s.rv (BitVec.ofNat 6 (x.low.toNat / 2 ^ 16 % 64))) (lanesIn q) = .error r →
      s.TrapsWith (.vgat d c i x) 0x03 r) ∧
    (∀ r, gatherOffs (s.rc c) s.nodeId (i.toInt * 256) 2 (s.rv (BitVec.ofNat 6 (x.low.toNat / 2 ^ 16 % 64))) (lanesIn q) = .error r →
      s.TrapsWith (.vsct d c i x) 0x03 r)) ∧
  (∀ (s : State) (a : BitVec 6) (x : Option VExt), let b := (vext x 0).low.getLsbD 21
    let lines := if b then s.here.mat.fb.lines else s.here.mat.fa.lines
    (s.here.untimedFill b = true → s.TrapsWith (.vpush a x) 0x02 0) ∧
    (s.here.untimedFill b = false → (if b then 256 else 128) ≤ lines.length → s.TrapsWith (.vpush a x) 0x05 2) ∧
    (s.here.untimedFill b = false → lines.length < (if b then 256 else 128) → s.Yields (.vpush a x) 1 (.push b (s.rv a))) ∧
    (lines = [] → s.TrapsWith (.vpop a x) 0x05 2) ∧ (lines ≠ [] → s.Yields (.vpop a x) 1 (.pop b a)))

/-! ### The matrix engine -/

/-- R299, R305 to R307: `mfmt` gives MXFMT its fields when both formats are operand formats and an INT32 accumulator has INT8 operands;
`mzero` empties the rows of its predicate, `mrd` reads values, with the flags of reading them set beside them (R85), or one tree state, `mwr` writes closed values or one tree state; a tile
that an operation owns refuses `mzero` and `mwr` and gives `mrd` unpredictable bytes; `mwait` raises its semaphore when the last
operation on its tile completes. -/
def Obligations.tile_instructions : Prop :=
  ∀ (s : State) (t u : BitVec 3) (n : BitVec 6) (w : BitVec 13) (v : BitVec 5) (r : BitVec 6) (x : Option RowExt), let mat := s.here.mat
    let y := s.here.tile t; let d : BitVec 6 := v ++ 0#1; let owned := ∃ o ∈ mat.ops, o.t = t.toNat
    let whole := fun d l => s.owed 4 (.vreg d (BitVec.allOnes 2048) l)
    let one := ∃ col, x = some ⟨1, col⟩
    (let a := w.toNat / 2 ^ 9; let b := w.toNat / 2 ^ 5 % 16; let ga := w.toNat / 2 ^ 3 % 4; let gb := w.toNat / 2 % 4
      let fit := fun f g => 1 ≤ f ∧ f ≤ 12 ∧ g ≠ 3 ∧ (f ≤ 7 ∨ g = 0)
      let ok := fit a ga ∧ fit b gb ∧ (w.toNat % 2 = 1 → a = 12 ∧ b = 12)
      (ok → s.Yields (.mfmt w) 1 (.csr 0x402 (BitVec.ofNat 64 (w.toNat * 2 ^ 19)))) ∧ (¬ok → s.TrapsWith (.mfmt w) 0x02 0)) ∧
    (¬owned → s.Yields (.mzero t u) 1 (.zeroRows t (s.rq u)) ∧ s.Yields (.mwait t n) 1 (.raise n.toNat) ∧
      (one → s.Completes (.mrd t v r x) fun z =>
        s.Owes z [whole d (lineOfLanes (stateLanes (y.elem r.toNat ((x.map (·.col.toNat)).getD 0))))]) ∧
      (¬one → s.Completes (.mrd t v r x) fun z => ∃ (l h : Line) (f g : Flags),
        let flags := fun (f : Flags) => if f = 0 then [] else [s.owed 4 (.flags f)]
        s.Owes z (whole d l :: whole (d + 1) h :: (flags f ++ flags g)) ∧
        (∀ i, i < 64 → laneOf l i = (readElem (y.elem r.toNat i)).1.v ∧ laneOf h i = (readElem (y.elem r.toNat (64 + i))).1.v) ∧
        ∀ j, j < 7 → (f.getLsbD j = true ↔ ∃ i, i < 64 ∧ (readElem (y.elem r.toNat i)).2.getLsbD j = true) ∧
          (g.getLsbD j = true ↔ ∃ i, i < 64 ∧ (readElem (y.elem r.toNat (64 + i))).2.getLsbD j = true)) ∧
      (∀ col, x = some ⟨1, col⟩ →
        (∀ e, lanesState (lanesOf (s.rv d)) = some e → s.Yields (.mwr t v r x) 1 (.setElem t r.toNat col.toNat e)) ∧
        (lanesState (lanesOf (s.rv d)) = none → s.TrapsWith (.mwr t v r x) 0x02 0)) ∧
      (¬one → s.Yields (.mwr t v r x) 1 (.setRow t r.toNat (bitOf mat.mxfmt 19) (lanesOf (s.rv d) ++ lanesOf (s.rv (d + 1)))))) ∧
    (owned → s.TrapsWith (.mzero t u) 0x02 0 ∧ s.TrapsWith (.mwr t v r x) 0x02 0 ∧
      (s.Completes (.mrd t v r x) fun z => ∃ (f : State) (l h : Line), f = { s with freeCount := f.freeCount } ∧
        f.Owes z (whole d l :: if one then [] else [whole (d + 1) h])) ∧
      ∀ o, (mat.ops.filter fun o => o.t == t.toNat).getLast? = some o →
        (o.done = false → s.Yields (.mwait t n) (o.due - s.now) (.raise n.toNat)) ∧
        (o.done = true → exec (.mwait t n) s = .next (s.onHere fun x => x.raise n.toNat)))

/-- R300 to R304, R316: an array operation makes its checks in order: the candidate heap, the array and the tiles and formats, the lines of
its panels, their map tags, the chunk indices, the states of its elements. One that passes takes its lines from the FIFOs, latches
its operands and formats, and completes after its cycles, or with a longer operation issued earlier on its tile (log entry 138). -/
def Obligations.array_operations : Prop :=
  ∀ (s : State) (t u p : BitVec 3) (f l r : BitVec 1) (w c : BitVec 2) (x : MExt),
    ∀ o ∈ [(Instr.mma t u f w c x, (⟨2, t, 0, u, f == 1, false, false, w, c, x⟩ : MOp)),
        (.mmaw t u f r w c x, ⟨3, t, 0, u, f == 1, false, r == 1, w, c, x⟩), (.mmat t u f w c x, ⟨4, t, 0, u, f == 1, false, true, w, c, x⟩),
        (.mvoc t u f l w c x, ⟨8, t, 0, u, f == 1, l == 1, false, w, c, x⟩),
        (.mvocbFwd t u f l w c x, ⟨9, t, 0, u, f == 1, l == 1, false, w, c, x⟩),
        (.mvocbBwd t u f p w c x, ⟨10, p, t, u, f == 1, false, true, w, c, x⟩)],
    let i := o.1; let o := o.2; let h := s.here; let m := h.mat.mxfmt; let q := s.rq u; let a := o.aCount m; let b := o.bCount m
    let shapes := h.partShapes o q; let ncol := 128 / 2 ^ w.toNat; let int := bitOf m 19; let wide := fun f => f = 10 ∨ f = 11
    let dual := bitsOf m 27 24; let heap := o.kind = 8 ∧ h.spill q ≠ 0
    let ready := h.mat.busyUntil ≤ s.now ∧ bitsOf m 31 28 ≠ 0 ∧ ¬(int = true ∧ 8 ≤ o.kind) ∧
      ¬(o.kind = 10 ∧ (o.t = o.src ∨ o.t = o.src + 1)) ∧ ¬(o.rowMajor = true ∧ ncol < (fmtUnit dual (bitsOf m 21 20)).1) ∧ a ≤ 128 ∧ b ≤ 256
    let lines := a ≤ h.mat.fa.lines.length ∧ b ≤ h.mat.fb.lines.length; let coding := h.coding o (h.mat.fb.lines.take b)
    let map := match coding with
      | .coded mw table => some (mw, table)
      | _ => none
    let decoded := coding = .plain ∨ ∃ mw table, coding = .coded mw table
    let chunks := o.chunkOk none = true ∧ ∀ e ∈ shapes, o.chunkOk e = true
    let states := ∀ e ∈ shapes, o.elemOk int e = true
    (heap → s.TrapsWith i 0x09 (h.spill q)) ∧ (¬heap → ¬ready → s.TrapsWith i 0x02 0) ∧
    (¬heap → ready → ¬lines → s.TrapsWith i 0x05 2) ∧
    (¬heap → ready → lines → coding = .bad → s.TrapsWith i 0x02 0) ∧ (¬heap → ready → lines → coding = .early → s.TrapsWith i 0x05 2) ∧
    (¬heap → ready → lines → decoded → ¬chunks → s.TrapsWith i 0x04 3) ∧
    (¬heap → ready → lines → decoded → chunks → ¬states → s.TrapsWith i 0x04 4) ∧
    (¬heap → ready → lines → decoded → chunks → states →
      let cycles := if o.kind = 10 ∨ wide (bitsOf m 31 28) ∨ wide dual then 32 * ncol else ncol * (map.map (·.1)).getD (fmtBits dual)
      let due := s.now + cycles + 6 + if o.last then ncol else 0; let before := h.mat.ops.filter fun e => !e.done && e.t == o.t.toNat
      s.Completes i fun z => let g := z.here.mat
        (∃ y : ArrayOp, g.ops = h.mat.ops ++ [y] ∧ y.kind = o.kind ∧ y.t = o.t.toNat ∧ y.fieldT = t.toNat ∧ y.q = q ∧ y.issue = s.now ∧
          due ≤ y.due ∧ (∀ e ∈ before, e.due ≤ y.due) ∧ (y.due = due ∨ ∃ e ∈ before, y.due = e.due) ∧
          y.busyUntil = s.now + cycles ∧ y.ncol = ncol ∧ y.c0 = c.toNat * ncol ∧ y.g = o.g ∧ y.mxfmt = m ∧ y.hcfg = h.mat.hcfg ∧
          y.hscl = h.mat.hscl ∧ y.aLines = (h.mat.fa.lines.take a).map (·.data) ∧ y.bLines = (h.mat.fb.lines.take b).map (·.data) ∧
          y.map = map ∧ y.done = false ∧ y.first = (f == 1) ∧ y.last = o.last ∧ y.stamp = s.cur.stamp) ∧
        g.busyUntil = s.now + cycles ∧ g.fa.lines = h.mat.fa.lines.drop a ∧ g.fb.lines = h.mat.fb.lines.drop b ∧
        g.fa.con = h.mat.fa.con + BitVec.ofNat 32 a ∧ g.fb.con = h.mat.fb.con + BitVec.ofNat 32 b ∧ g.mxfmt = m ∧
        (o.kind ≠ 8 ∨ o.last = false → g.heapOwned = h.mat.heapOwned) ∧
        (coding = .plain → (∀ e ∈ h.mat.fb.lines.take b, e.tag.mape = 0) → g.maps = h.mat.maps) ∧
        z.here.regs = h.regs ∧ z.here.sys = h.sys ∧ z.here.pend = h.pend ∧ z.here.trap = h.trap ∧
        (∀ k, k ≠ s.cur.k → z.stn k = s.stn k) ∧
        (bitOf (s.part (s.partOf s.cur.k)).smpcfg 60 = false → z.pkg = s.pkg ∧ z.mem = s.mem))

/-- R304, R305, R317, R321: an operation that is due and is not of the last step merges the sum of each row of its A operand with each of its columns
into the elements that take part; every other element, every other register and every byte of memory is as before, and its tile
stays owned through the cycle of its completion. The last step of `mvoc` folds the logits of each row, in ascending columns, into its
heap row and leaves closed zeros; that of `mvocb.fwd` leaves d of each logit, rounded to BF16, and no heap row changes; the flags of
these steps are set.  -/
def Obligations.array_completion : Prop :=
  (∀ (s : State) (k : Stn) (o : ArrayOp), let h := s.stn k; let int := bitOf o.mxfmt 19; let i := BitVec.ofNat 3 o.t
    (h.mat.ops.filter fun o => !o.done && decide (o.due ≤ s.workNom k)) = [o] → o.last = false → o.t < 8 → o.c0 + o.ncol ≤ 128 →
    bitOf (s.part (s.partOf k)).smpcfg 60 = false →
    ∃ t : State, exec (.arrayOperationComplete k) s = .next t ∧
      (∀ r c, r < 64 → c < 128 → (o.q.getLsbD r = false ∨ c < o.c0 ∨ o.c0 + o.ncol ≤ c) →
        ((t.stn k).tile i).elem r c = (h.tile i).elem r c) ∧
      (∀ r c, r < 64 → o.c0 ≤ c → c < o.c0 + o.ncol → o.q.getLsbD r = true →
        let old := if o.first then none else (h.tile i).elem r c
        let chunk := match o.g, old with
          | some g, _ => g / 256
          | none, some e => e.hi
          | none, none => 0
        let sum := (chunkDot int o.kc (o.row r) (o.columns.getD (c - o.c0) [])).1
        ∀ e f, mergeOpt old (some (oneChunk int chunk sum)) = some (e, f) → ((t.stn k).tile i).elem r c = e) ∧
      (∀ j, j ≠ i → (t.stn k).tile j = h.tile j) ∧ (t.stn k).regs = { h.regs with tiles := (t.stn k).regs.tiles } ∧
      (∀ x ∈ (t.stn k).mat.ops, s.workNom k ≤ x.due ∧ (x.done = false → s.workNom k < x.due)) ∧
      t.mem = s.mem ∧ ∀ j, j ≠ k → t.stn j = s.stn j) ∧
  (∀ (s : State) (k : Stn) (o : ArrayOp), let h := s.stn k; let i := BitVec.ofNat 3 o.t; let kk := bitsOf o.hcfg 39 32
    let nv := bitsOf o.hcfg 63 40; let nl := bitsOf o.hcfg 31 29; let ls : Word := o.hscl.truncate 32; let size := rowBytes kk
    (h.mat.ops.filter fun o => !o.done && decide (o.due ≤ s.workNom k)) = [o] → o.last = true → o.t < 8 → o.c0 + o.ncol ≤ 128 →
    kk = h.heapK → (∀ r, r < 64 → o.q.getLsbD r = true → h.rowOk r = true ∧ h.mat.heapFree.getLsbD r = false) →
    let row := fun r => HRow.ofWords (words32 (size / 4) ((List.range size).map fun n => cellsRead h.mat.heap (r * size + n)))
    let logit := fun r j => let c := o.c0 + j
      (readElem (o.mergeElem ((h.tile i).elem r c) (chunkDot (bitOf o.mxfmt 19) o.kc (o.row r) (o.columns.getD j [])).1).1).1.v
    ∃ t : State, exec (.arrayOperationComplete k) s = .next t ∧ let flag := fun n => (t.stn k).sys.fflags.getLsbD n = true
      (∀ r c, r < 64 → c < 128 → (o.q.getLsbD r = false ∨ c < o.c0 ∨ o.c0 + o.ncol ≤ c) →
        ((t.stn k).tile i).elem r c = (h.tile i).elem r c) ∧ (∀ j, j ≠ i → (t.stn k).tile j = h.tile j) ∧
      (o.kind = 8 → let fold := fun r => foldRow kk nl nv o.v0 ls 0 ((List.range o.ncol).map (logit r)) (row r)
        (∀ r j, r < 64 → j < o.ncol → o.q.getLsbD r = true → ((t.stn k).tile i).elem r (o.c0 + j) = closed false 0) ∧
        (t.stn k).mat.heap = (((List.range 64).filter fun r => o.q.getLsbD r).foldl
          (fun m r => m.pokeHeap (r * size) (bytes32 ((fold r).1.words kk))) h.mat).heap ∧
        ∀ r n, r < 64 → n < 7 → o.q.getLsbD r = true → (fold r).2.getLsbD n = true → flag n) ∧
      (o.kind = 9 → (t.stn k).mat.heap = h.mat.heap ∧
        ∀ r j, r < 64 → j < o.ncol → o.q.getLsbD r = true → let v := o.v0 + j
          let y := f32Mul 0 (logit r j) ls; let p := expDiff y.1 (row r).nrm
          let d := f32Sub 0 p.1 (if BitVec.ofNat 32 v = (row r).lidx.getD 0 0 then 0x3F80_0000 else 0)
          let b := convertElem 0xD 0xA 0 d.1.toNat; let w := if nv ≤ v then 0 else BitVec.ofNat 32 (convertElem 0xA 0xD 0 b.1).1
          ((t.stn k).tile i).elem r (o.c0 + j) = closed false w ∧
          (v < nv → ∀ n, n < 7 → (y.2 ||| p.2 ||| d.2 ||| b.2).getLsbD n = true → flag n)) ∧
      ∀ j, j ≠ k → t.stn j = s.stn j)

/-- R312: a table read for a slot is held, and installed once no queued line names the installed one, when every byte lies in the range of
its width; otherwise it is refused. `mapld` sends one read of its own bank. R314, R315, R317 to R320: `mnorm` begins a row, gives it
its norms or reads its head, of an owned row too; `hread` reads a whole row into consecutive registers, of an owned one free values;
`hmerge` merges a row image from registers into a row, which it owns until its result is written. That the reads are made at issue is
the model's choice: R318 to R320 give no cycle (log entry 106). -/
def Obligations.maps_and_heap : Prop :=
  ((∀ (s : State) (sl : BitVec 2) (gen : BitVec 6) (mw : BitVec 3) (c : BitVec 4) (rse : BitVec 1) (sem : BitVec 6) (o : Nat) (g : PageAt),
    let m := s.here.mapSlot sl.toNat; let p := s.rc c; let i := Instr.mapld sl gen mw c rse sem
    capCheck p s.nodeId 0 256 1 false false = .ok o → s.pin s.cur.k p.obj o = some g → g.po % 256 = o % 256 →
    let ok := o % 256 = 0 ∧ g.fmt = 0 ∧ g.bank = some s.cur.k ∧ bitOf m.reg 62 = false ∧
      ¬(bitOf m.reg 63 = true ∧ gen.toNat = bitsOf m.reg 57 52)
    (ok → s.Completes i fun t => s.Sends t (.map sl.toNat gen.toNat (mw.toNat + 1) (if rse = 1 then some sem.toNat else none))
      [⟨g, 256⟩] [.read]) ∧ (¬ok → s.TrapsWith i 0x02 0)) ∧
  (∀ (s : State) (k : Stn) (n : Nat), let m := (s.stn k).mapSlot n; let lim : Int := 2 ^ bitsOf m.reg 45 43
    let fits := ∀ j, j < 256 → -lim ≤ (byteOf m.pending j).toInt ∧ (byteOf m.pending j).toInt < lim
    let only := fun (t : State) => t.mem = s.mem ∧ t.pkg = s.pkg ∧ (∀ j, j ≠ k → t.stn j = s.stn j) ∧ (t.stn k).sys = (s.stn k).sys ∧
      ∀ j, j % 4 ≠ n % 4 → (t.stn k).mapSlot j = (s.stn k).mapSlot j
    (∃ t : State, exec (.mapTableLatch k n) s = .next t ∧ only t ∧ let y := (t.stn k).mapSlot n
      (fits → y = { m with latched := true, ready := s.workNom k } ∧ (t.stn k).regs = (s.stn k).regs) ∧
      (¬fits → y.latched = false ∧ bitOf y.reg 62 = false ∧ bitOf y.reg 61 = true ∧ bitsOf y.reg 17 9 = 0 ∧ y.table = m.table ∧
        bitOf y.reg 63 = bitOf m.reg 63 ∧ bitsOf y.reg 8 0 = bitsOf m.reg 8 0 ∧
        ∀ e, m.rse = some e → (t.stn k).regs.hsNew.getLsbD (e % 64) = true)) ∧
    (∃ t : State, exec (.mapInstall k n) s = .next t ∧ only t ∧ let y := (t.stn k).mapSlot n
      let may := bitOf m.reg 62 = true ∧ m.latched = true ∧ m.ready ≤ s.workNom k ∧ bitsOf m.reg 8 0 = 0
      (¬may → t = s) ∧
      (may → y.table = m.pending ∧ bitOf y.reg 63 = true ∧ bitOf y.reg 62 = false ∧ bitsOf y.reg 57 52 = bitsOf m.reg 51 46 ∧
        bitsOf y.reg 60 58 = bitsOf m.reg 45 43 ∧ bitsOf y.reg 8 0 = bitsOf m.reg 17 9 ∧ bitsOf y.reg 17 9 = 0 ∧
        ∀ e, m.rse = some e → (t.stn k).regs.hsNew.getLsbD (e % 64) = true)))) ∧
  (∀ (s : State) (v row : BitVec 6) (lo : BitVec 1), let h := s.here; let r := row.toNat; let k := bitsOf h.mat.hcfg 39 32
    let nl := bitsOf h.mat.hcfg 31 29; let size := (k + 8) * 8; let base := r * size; let n := (size + 255) / 256
    let ok := r ≤ bitsOf h.mat.hcfg 28 23 ∧ (r + 1) * size ≤ 65536; let busy := ∃ p ∈ h.mat.heapOwned, p.1 = r ∧ s.now < p.2
    let free := h.mat.heapFree.getLsbD r; let w := laneOf (s.rv v)
    let word : Nat → Word := fun j => BitVec.ofNat 32 (leNat ((List.range 4).map fun b => cellsRead h.mat.heap (base + 4 * j + b)))
    let blank : List Word := [0xFF80_0000, 0, 0, 0, w 0, w 1, w 2, w 3, 0x7FC0_0000, 0x7FC0_0000, 0x7FC0_0000, 0x7FC0_0000, 0, 0, 0, 0] ++
      List.replicate (2 * k) 0xFFFF_FFFF
    let labels := ∀ i, i < 4 → nl ≤ i → w i = 0xFFFF_FFFF
    (¬ok → (∀ m, s.TrapsWith (.mnorm m v row) 0x02 0) ∧ s.TrapsWith (.hread v row) 0x02 0 ∧ s.TrapsWith (.hmerge lo v row) 0x02 0) ∧
    (busy → s.TrapsWith (.mnorm 0 v row) 0x02 0 ∧ s.TrapsWith (.mnorm 1 v row) 0x02 0 ∧ s.TrapsWith (.hmerge lo v row) 0x02 0) ∧
    (ok → free = false → s.Completes (.mnorm 2 v row) fun t => ∃ l : Line, s.Owes t [s.owed 2 (.vreg v (BitVec.allOnes 2048) l)] ∧
      ∀ j, j < 64 → laneOf l j = if j < 16 then word j else 0) ∧
    (ok → busy → v.toNat + n ≤ 64 → s.Completes (.hread v row) fun t => ∃ (z : State) (l : Nat → Line), z = { s with freeCount := z.freeCount } ∧
      z.Owes t ((List.range n).map fun i => z.owed (4 + n) (.vreg (v + BitVec.ofNat 6 i) (BitVec.allOnes 2048) (l i)))) ∧
    (ok → ¬busy →
      (labels → s.Completes (.mnorm 0 v row) fun t => ∃ z : State, z.here.mat.heapFree.getLsbD r = false ∧
        (∀ j, j ≠ r → z.here.mat.heapFree.getLsbD j = h.mat.heapFree.getLsbD j) ∧
        (z = s.onHere fun x => { x with mat := { x.mat with heapFree := z.here.mat.heapFree } }) ∧
        z.Owes t [z.owed 2 (.heap base (blank.flatMap fun w => leBytes 4 w.toNat))]) ∧
      (¬labels → s.TrapsWith (.mnorm 0 v row) 0x02 0) ∧
      (s.Completes (.mnorm 1 v row) fun t =>
        s.Owes t [s.owed 2 (.heap (base + 8) (leBytes 4 (w 0).toNat)), s.owed 2 (.heap (base + 16) (leBytes 4 (w 1).toNat))]) ∧
      (64 < v.toNat + n → s.TrapsWith (.hread v row) 0x02 0) ∧
      (free = false → v.toNat + n ≤ 64 → s.Completes (.hread v row) fun t => ∃ l : Nat → Line,
        s.Owes t ((List.range n).map fun i => s.owed (4 + n) (.vreg (v + BitVec.ofNat 6 i) (BitVec.allOnes 2048) (l i))) ∧
        ∀ i j, i < n → j < 64 → laneOf (l i) j = if 64 * i + j < size / 4 then word (64 * i + j) else 0) ∧
      (free = false → v.toNat + n ≤ 64 →
        let loc := HRow.ofWords ((List.range (size / 4)).map word); let img := HRow.ofWords (s.regWords v n)
        let low := if lo = 1 then loc else img; let high := if lo = 1 then img else loc
        let fit := img.ne ≤ k ∧ ranked img.ents = true ∧ img.lidx = loc.lidx
        (¬fit → s.TrapsWith (.hmerge lo v row) 0x02 0) ∧
        (fit → s.Completes (.hmerge lo v row) fun t => ∃ (z : State) (y : HRow) (f : Flags),
          (y.m, y.s, f) = lseMrg low.m low.s high.m high.s ∧ y.nrm = loc.nrm ∧ y.psn = (loc.psn || img.psn) ∧
          y.lset = loc.lset ||| img.lset ∧ y.ne = min k (loc.ne + img.ne) ∧ y.lidx = loc.lidx ∧
          (∀ e ∈ y.ents, e ∈ loc.ents ++ img.ents) ∧ y.ents.length = min k (loc.ents.length + img.ents.length) ∧
          s.Owes z (s.owed (4 + k) (.heap base ((y.words k).flatMap fun w => leBytes 4 w.toNat)) ::
            if f = 0 then [] else [s.owed (4 + k) (.flags f)]) ∧
          t = z.onHere fun x => { x with mat := { x.mat with heapOwned := x.mat.heapOwned ++ [(r, s.now + 4 + k)] } }))))

/-! ### The copy channels -/

/-- R122, R123, R126, R128, R185, R324 to R327: a copy instruction makes its checks in order: the place of its descriptor, room in the
channel, its semaphore, its fields, its capabilities, its pages. An accepted command takes the next positions of its channel, lowers
the semaphore that it awaited, and is timed, with its pieces, or enters the channel's queues. -/
def Obligations.copy_commands : Prop :=
  ∀ (s : State) (desc : BitVec 16) (x : Option MapTag),
    ∀ z ∈ [(Instr.cpy desc, 0, (none : Option MapTag)), (.cpyf desc x, 1, x), (.cpyt desc, 2, none), (.cpyw desc, 3, none), (.cpyr desc, 4, none)],
    let i := z.1; let opc := z.2.1; let k := s.cur.k; let ch := chanOf s.cur.e; let c := s.chan k ch
    let d := s.copyDesc k (desc.toNat * 16); let awaits := d.h / 2 ^ 36 % 2 = 1; let sem := d.h / 2 ^ 30 % 64
    let raised := s.here.regs.hs.getLsbD sem = true
    let src := s.copySource opc d; let dst := s.copyDest d; let p0 := s.copyPlan k true src.1 dst.1 d src.2 dst.2
    let ps := s.copyPieces k s.nextId d.op p0; let p := if ps.isSome then p0 else s.copyPlan k false src.1 dst.1 d src.2 dst.2
    let from_ := extentCheck (s.rc (BitVec.ofNat 4 (d.h / 2 ^ 60 % 16))) s.nodeId 8 p.srcExtent true
    let into := extentCheck (s.rc (BitVec.ofNat 4 (d.h / 2 ^ 56 % 16))) s.nodeId 16 p.dstExtent true
    let len := (p.runs.map (·.dn)).sum
    let place := desc.toNat * 16 + 32 + 16 * d.dims.length ≤ 0xF_8000; let room := c.cmds.length < 16
    let fields := d.fieldsOk opc z.2.2.isSome = true ∧ (opc = 3 → 0 ≤ p.srcExtent.1 ∧ p.srcExtent.2 ≤ 2097152)
    let caps := (opc ≠ 3 → from_ = none) ∧ (d.dkind = 0 → into = none)
    let window := ∀ l g, src.1 = .seg l g → s.inWindow g = true
    let pages := s.copyFormats k ps.isSome (d.op == 1) p = true ∧ (d.dkind ≠ 0 → len % 256 = 0) ∧ p.overlaps = false ∧
      s.here.fifoClash ch d.dkind ps.isSome = false
    (¬place → s.TrapsWith i 0x02 0) ∧ (place → ¬room → s.TrapsWith i 0x05 3) ∧
    (place → room → awaits → ¬raised → s.TrapsWith i 0x05 1) ∧
    (place → room → (awaits → raised) → ¬fields → s.TrapsWith i 0x02 0) ∧
    (place → room → (awaits → raised) → fields →
      (∀ r, opc ≠ 3 → from_ = some r → s.TrapsWith i 0x03 r) ∧
      (∀ r, (opc ≠ 3 → from_ = none) → d.dkind = 0 → into = some r → s.TrapsWith i 0x03 r) ∧
      (caps → opc = 2 → ps = none → s.TrapsWith i 0x02 0) ∧ (caps → (opc = 2 → ps ≠ none) → ¬window → s.TrapsWith i 0x06 3) ∧
      (caps → (opc = 2 → ps ≠ none) → window →
        (s.copySpan k ps.isSome p ≠ 0 → s.TrapsWith i 0x04 (s.copySpan k ps.isSome p)) ∧
        (s.copySpan k ps.isSome p = 0 → ¬pages → s.TrapsWith i 0x02 0) ∧
        (s.copySpan k ps.isSome p = 0 → pages → s.Completes i fun t => let y := t.chan k ch
          (∃ m : CopyCmd, y.cmds = c.cmds ++ [m] ∧ m.id = s.nextId ∧ m.opcode = opc ∧ m.timed = ps.isSome ∧ m.start = c.end_.toNat ∧
            m.len = len ∧ m.dkind = d.dkind ∧ m.done = [] ∧ m.stamp = s.cur.stamp ∧ m.pc = s.cur.pc ∧
            m.rsem = (if d.h / 2 ^ 43 % 2 = 1 then some (d.h / 2 ^ 37 % 64) else none) ∧
            m.ssu = (if d.h / 2 ^ 47 % 2 = 1 then some (d.h / 2 ^ 44 % 8) else none)) ∧
          y.end_ = c.end_ + BitVec.ofNat 64 len ∧ y.wp = c.wp ∧ y.cstat = c.cstat ∧ y.cfst = c.cfst ∧ y.accepted = c.accepted + 1 ∧
          y.pieces = c.pieces ++ ps.getD [] ∧
          (awaits → t.here.regs.hs.getLsbD sem = false) ∧ (∀ j, ¬awaits ∨ j ≠ sem → t.here.regs.hs.getLsbD j = s.here.regs.hs.getLsbD j) ∧
          (∃ hs, t.here.regs = { s.here.regs with hs := hs }) ∧ t.here.sys = s.here.sys ∧ t.here.mat = s.here.mat ∧
          t.here.chan (ch + 1) = s.here.chan (ch + 1) ∧ (∀ j, j ≠ k → t.stn j = s.stn j) ∧ t.txns = s.txns ∧
          (ps ≠ none → t.uops = s.uops) ∧
          (ps = none → ∃ u : UOp, t.uops = s.uops ++ [u] ∧ u.k = k ∧ u.owner = .copy ch s.nextId ∧ u.rq = 2 + 2 * ch ∧
            u.wq = (if d.dkind = 0 then 3 + 2 * ch else 8) ∧ u.pieces = p.untimed s (s.partOf k)) ∧
          (bitOf (s.part (s.partOf k)).smpcfg 59 = false → t.pkg = s.pkg ∧ t.mem = s.mem))))

/-- R130, R136, R138, R328 to R333: tests and waits of a channel's position and of a completion bitmap, the binding of a bitmap to a tile,
fences of the channel's own queues, the head of a block-transfer channel, and aborts, which abandon every command of a channel. -/
def Obligations.copy_channels : Prop :=
  ∀ (s : State), let k := s.cur.k
    let up := fun (t : State) n => t.here.regs.hsNew.getLsbD n = true ∧ t.here.regs.hs = s.here.regs.hs ∧
      ∃ a b, t = s.onHere fun y => { y with regs := { y.regs with hsNew := a, hsovf := b } }
    let down := fun (t : State) n => t.here.regs.hs.getLsbD n = false ∧ (∀ j, j ≠ n → t.here.regs.hs.getLsbD j = s.here.regs.hs.getLsbD j) ∧
      ∃ a, t = s.onHere fun y => { y with regs := { y.regs with hs := a } }
    (∀ (c : BitVec 1) (h : BitVec 6) (m : BitVec 4) (x : Option (BitVec 32)), let ch := s.chan k c.toNat
      (ch.accepted < m.toNat + 1 → s.TrapsWith (.cwp c h m x) 0x02 0 ∧ s.TrapsWith (.cwait c m x) 0x02 0) ∧
      (∀ a len, m.toNat < ch.accepted → ch.starts.reverse[m.toNat]? = some (a, len) → let delta := (x.map (·.toNat)).getD len
        (len < delta → s.TrapsWith (.cwp c h m x) 0x02 0 ∧ s.TrapsWith (.cwait c m x) 0x02 0) ∧
        (delta ≤ len → exec (.cwait c m x) s = .next s ∧
          (a.toNat + delta ≤ ch.wp.toNat → s.Completes (.cwp c h m x) fun t => up t h.toNat) ∧
          (ch.wp.toNat < a.toNat + delta → s.Completes (.cwp c h m x) fun t => down t h.toNat)))) ∧
    (∀ (b : BitVec 3) (h : BitVec 6) (w : BitVec 3) (v : BitVec 32), let y := s.here.bitmap b.toNat
      let passed := ∀ j, j < 32 → v.getLsbD j = true → y.bits.getLsbD (32 * w.toNat + j) = true ∨ bitsOf y.cfg 7 0 + 1 ≤ 32 * w.toNat + j
      (bitOf y.cfg 63 = false → ∀ t, s.TrapsWith (.cmwait b h t w v) 0x02 0) ∧
      (bitOf y.cfg 63 = true → exec (.cmwait b h 0 w v) s = .next s ∧
        (passed → s.Completes (.cmwait b h 1 w v) fun t => up t h.toNat) ∧
        (¬passed → s.Completes (.cmwait b h 1 w v) fun t => down t h.toNat))) ∧
    (∀ (b : BitVec 3) (a : BitVec 4) (n : BitVec 8), let c := s.rc a; let old := s.here.bitmap b.toNat
      (∀ r, capCheck c s.nodeId 0 (512 * (n.toNat + 1)) 16 false false = .error r → s.TrapsWith (.cmap b a n) 0x03 r) ∧
      (∀ o, capCheck c s.nodeId 0 (512 * (n.toNat + 1)) 16 false false = .ok o →
        (o % 512 ≠ 0 ∨ 2 ^ 31 ≤ o / 512 → s.TrapsWith (.cmap b a n) 0x02 0) ∧
        (o % 512 = 0 → o / 512 < 2 ^ 31 → s.Completes (.cmap b a n) fun t => let y := t.here.bitmap b.toNat
          y.bits = 0 ∧ bitOf y.cfg 63 = true ∧ bitsOf y.cfg 11 8 = (bitsOf old.cfg 11 8 + 1) % 16 ∧ bitsOf y.cfg 7 0 = n.toNat ∧
          bitsOf y.obj 52 31 = c.obj ∧ bitsOf y.obj 30 0 = o / 512 ∧ (t = s.onHere fun x => { x with bitmaps := t.here.bitmaps }) ∧
          ∀ j, j % 8 ≠ b.toNat → t.here.bitmap j = s.here.bitmap j))) ∧
    (∀ (f : BitVec 3) (m : BitVec 9), ∀ e ∈ [(Engine.copy0, 12), (.copy1, 48)], s.cur.e = e.1 →
      (f = 0 ∧ m.toNat &&& e.2 ≠ m.toNat → s.TrapsWith (.cfence f m) 0x02 0) ∧
      (f ≠ 0 ∨ m.toNat &&& e.2 = m.toNat → (m.toNat % 256 = 0 → exec (.cfence f m) s = .next s) ∧
        (m.toNat % 256 ≠ 0 → exec (.cfence f m) s = .next { s with
          markers := s.markers ++ [⟨k, k.val, s.seq, m.toNat % 256, f.toNat, decide (256 ≤ m.toNat), false, s.cyc⟩], seq := s.seq + 1 }))) ∧
    (∀ (h : BitVec 6) (a : BitVec 4), let own := bitsOf (s.btc h.toNat).ctl 59 56 = s.partOf k
      let late := fun x => { s with pkg := { s.pkg with fab := { s.pkg.fab with late := s.pkg.fab.late ++ [(s.cyc + 2, x)] } } }
      (own → exec (.chead h a) s = .next (late (.head h.toNat (s.rc a))) ∧ exec (.cabortBt h) s = .next (late (.abortBt h.toNat))) ∧
      (¬own → s.TrapsWith (.chead h a) 0x02 0 ∧ s.TrapsWith (.cabortBt h) 0x02 0)) ∧
    (∀ (c : BitVec 1), let i := c.toNat; let ch := s.chan k i
      s.Completes (.cabort c) fun t => let y := t.chan k i
        y.cmds = [] ∧ y.end_ = ch.end_ ∧ y.accepted = ch.accepted ∧ bitOf y.cfst 63 = false ∧
        (∀ m, ch.cmds.getLast? = some m → (ch.cmds.map (·.id)).Nodup → (∀ x ∈ ch.cmds, x.start + x.len ≤ m.start + m.len) →
          ch.wp.toNat ≤ m.start + m.len → m.start + m.len < 2 ^ 64 → y.wp = BitVec.ofNat 64 (m.start + m.len)) ∧ (ch.cmds = [] → y.wp = ch.wp ∧ t.uops = s.uops) ∧
        (ch.cmds ≠ [] → (∀ m ∈ ch.cmds, s.parkedCmd k i m.id = false) → bitsOf y.cstat 63 60 = 2 ∧ bitsOf y.cstat 59 56 = 0) ∧
        t.chan k (i + 1) = s.chan k (i + 1) ∧ t.here.sys = s.here.sys ∧ t.here.mat = s.here.mat ∧ t.here.pend = s.here.pend ∧
        (∃ a b, t.here.regs = { s.here.regs with hsNew := a, hsovf := b }) ∧ (∀ j, j ≠ k → t.stn j = s.stn j) ∧
        (bitOf (s.part (s.partOf k)).smpcfg 59 = false → t.pkg = s.pkg ∧ t.mem = s.mem))

/-! ### The lane tap -/

/-- R54, R151, R174, R334 to R339: a tap delivers the beat that a lane brings in the cycle, or zeros where there is none, to an operand
FIFO or, through a capability as it then stands, to memory one cycle on, and `lfwd` drives it onto another lane; `ldrive` reads 256 bytes of its own bank for a lane; a
form of the cursor moves it to the next line of its window, which it does in the issue cycle: that cycle is the model's choice (log entry
112). A beat of another lag is a schedule miss; a slack read that has not landed leaves a tap, of either kind, to be released again, and
one that has landed gives its data. `lsel` and `lcfg` set the cursor and its window. -/
def Obligations.lane_taps : Prop :=
  (∀ (s : State) (l o : BitVec 5) (k : BitVec 3) (i : BitVec 10) (h : BitVec 7) (x : Option (BitVec 32)),
    let n := l.toNat; let at_ : TrapAt := ⟨s.cur.e.code, s.cur.stamp, s.cur.pc, s.cur.rpti⟩
    let own := n = bitsOf s.here.sys.blane 4 0 ∨ n = bitsOf s.here.sys.blane 9 5
    let free := ¬(o.toNat % 16 < 4 ∨ o.toNat = bitsOf s.here.sys.blane 4 0 ∨ o.toNat = bitsOf s.here.sys.blane 9 5)
    let beat := s.beats.find? fun b => b.stands (clusterOf s.cur.k) n (slotOf (localOf s.cur.k)) s.cyc
    let fresh := ∀ b, beat = some b → b.start ≠ s.cyc
    let fifo := k = 1 ∨ k = 2
    let tag := fun t => match x with
      | some w => (⟨w.extractLsb' 31 1, w.extractLsb' 29 2, w.extractLsb' 23 6⟩ : MapTag)
      | none => t
    let place := s.tapOperand k i x
    let next := fun (v w : Nat) => BitVec.ofNat 48 (v / 2 ^ (8 + w) * 2 ^ (8 + w) + (v + 256) % 2 ^ (8 + w))
    let stepped := fun z : State =>
      if k = 0 then z.onHere fun t => { t with tap := { t.tap with tco := next t.tap.tco.toNat t.tap.tw } } else z
    let gives := fun (z : State) (d : Line) (t : MapTag) =>
      (fifo → s.here.untimedFill (k == 2) = false → s.Completes (.ltap l k i x) fun u => z.Owes u [s.owed 1 (.tapFifo (k == 2) d (tag t) at_)]) ∧
      (¬fifo → s.Completes (.ltap l k i x) fun u => ∃ y : State,
        z.Owes y [s.owed 1 (.tapWrite place.1 place.2.1 place.2.2 d at_)] ∧ u = stepped y) ∧
      (free → s.Completes (.lfwd l o h) fun u => z.Owes u [s.owed 1 (.tapDrive o.toNat h.toNat d at_)])
    (own → s.TrapsWith (.ltap l k i x) 0x02 0 ∧ s.TrapsWith (.lfwd l o h) 0x02 0) ∧ (¬free → s.TrapsWith (.lfwd l o h) 0x02 0) ∧
    (¬own → fifo → s.here.untimedFill (k == 2) = true → s.TrapsWith (.ltap l k i x) 0x02 0) ∧
    (¬own → 4 ≤ n % 16 →
      (beat = none ∨ (∃ b, beat = some b ∧ (b.start = s.cyc ∨ b.data = none)) → gives s 0 ⟨0, 0, 0⟩) ∧
      (∀ b d, beat = some b → fresh → b.data = some d → b.lag = s.here.run.lag % 2 ^ 24 → b.poison = false → gives s d ⟨0, 0, 0⟩) ∧
      (∀ b d, beat = some b → fresh → b.data = some d → b.lag ≠ s.here.run.lag % 2 ^ 24 →
        (fifo → s.here.untimedFill (k == 2) = false → s.TrapsWith (.ltap l k i x) 0x05 7) ∧
        (¬fifo → s.TrapsWith (.ltap l k i x) 0x05 7) ∧ (free → s.TrapsWith (.lfwd l o h) 0x05 7))) ∧
    (¬own → n % 16 < 4 → s.pkg.ring.up = true →
      let w := s.weightSource s.cur.k n s.now; let z := s.count (s.partOf s.cur.k) 0x11 1; let q := s.quarter w.1 w.2.1 w.2.2.1 w.2.2.2.1
      (s.here.run.lag = 0 → w.2.2.2.2 = false → q.2 = false → gives z q.1 (hdrMap (s.header w.1 w.2.1))) ∧
      (s.here.run.lag ≠ 0 ∨ w.2.2.2.2 = true →
        let waits := fun (u : State) => u.stay = true ∧ u.here.tap.slack = some ⟨w.1, w.2.1, w.2.2.1, w.2.2.2.1, at_, none⟩ ∧
          u.here.tap.tco = s.here.tap.tco ∧ u.here.pend = s.here.pend ∧ u.here.regs = s.here.regs ∧ u.mem = s.mem
        (s.here.tap.slack = none → (free → s.Completes (.lfwd l o h) waits) ∧
          ((fifo → s.here.untimedFill (k == 2) = false) → s.Completes (.ltap l k i x) waits)) ∧
        ∀ y d, s.here.tap.slack = some y → y.ready = some (d, false) →
          gives (z.onHere fun t => { t with tap := { t.tap with slack := none } }) d (hdrMap (s.header w.1 w.2.1))))) ∧
  (∀ (s : State) (l : BitVec 5) (k : BitVec 3) (i : BitVec 10) (h : BitVec 7), let n := l.toNat; let place := s.tapOperand k i none
    let c := s.rc place.1; let check := capCheck c s.nodeId (tapDisp c place.2.1 place.2.2) 256 1 false false
    let free := ¬(n % 16 < 4 ∨ n = bitsOf s.here.sys.blane 4 0 ∨ n = bitsOf s.here.sys.blane 9 5)
    (¬free → s.TrapsWith (.ldrive l k i h) 0x02 0) ∧ (∀ r, free → check = .error r → s.TrapsWith (.ldrive l k i h) 0x03 r) ∧
    (∀ r, free → check = .ok r →
      (r % 256 ≠ 0 → s.TrapsWith (.ldrive l k i h) 0x02 0) ∧
      (r % 256 = 0 → s.segments s.cur.k c.obj 4 r 256 = none → s.TrapsWith (.ldrive l k i h) 0x03 8) ∧
      (∀ gs, r % 256 = 0 → s.segments s.cur.k c.obj 4 r 256 = some gs → let own := ∀ g ∈ gs, g.page.bank = some s.cur.k
        (¬own → s.TrapsWith (.ldrive l k i h) 0x02 0) ∧
        (own → tapFormat gs ≠ 0 → s.TrapsWith (.ldrive l k i h) 0x04 (tapFormat gs)) ∧
        (own → tapFormat gs = 0 → s.Completes (.ldrive l k i h) fun u => ∃ y : State,
          s.Sends y (.drive n h.toNat (k == 0)) gs (gs.map fun _ => .read) ∧ (k ≠ 0 → u = y) ∧
          (k = 0 → let c := s.here.tap.tco.toNat; let m := 2 ^ (8 + s.here.tap.tw)
            u = y.onHere fun t => { t with tap := { t.tap with tco := BitVec.ofNat 48 (c / m * m + (c + 256) % m) } }))))) ∧
  (∀ (s : State) (j : BitVec 6) (c : BitVec 4) (x : Option (BitVec 32)) (n : BitVec 10) (w : BitVec 4),
    exec (.lidle n) s = .next s ∧
    (s.Completes (.lcfg w) fun u => u.here.tap.tw = w.toNat ∧ u = s.onHere fun t => { t with tap := { t.tap with tw := u.here.tap.tw } }) ∧
    (s.Completes (.lsel j c x) fun u => u.here.tap.tcc = c ∧
      u.here.tap.tco.toNat = (((s.rc c).cursor + 256 * (match x with
        | some d => d.toInt
        | none => j.toInt)) % 2 ^ 48 : Int).toNat ∧
      u = s.onHere fun t => { t with tap := { t.tap with tcc := u.here.tap.tcc, tco := u.here.tap.tco } }))

/-! ### Fabric-queue commands -/

/-- R104, R108, R109, R340 to R347, R353, R356: a fabric-queue command finds its descriptor in the station's bank, its semaphore raised, its
fields, its capabilities and its pages in order, and room among the station's 16; then it stands behind the commands issued before it,
its bay PENDING and its semaphore lowered, with its operation in the queues that its kind names. -/
def Obligations.fabric_commands : Prop :=
  ∀ (s : State) (desc : BitVec 16) (f : BitVec 3) (w : BitVec 9), let off := desc.toNat * 16; let k := s.cur.k; let h := s.here
    let room := (s.pkg.fab.cmds.filter fun c => c.k == k).length < 16
    let read := fun n => s.descNat k off n; let awaits := fun d => d / 2 ^ 89 % 2 = 1; let sem := fun d => d / 2 ^ 83 % 64
    let src := fun d => s.rc (BitVec.ofNat 4 (d / 2 ^ 108 % 16)); let dst := fun d => s.rc (BitVec.ofNat 4 (d / 2 ^ 104 % 16))
    let soff := fun d => sint 48 (d / 2 ^ 160 % 2 ^ 48); let doff := fun d => sint 48 (d / 2 ^ 208 % 2 ^ 48)
    let len := fun d => d / 2 ^ 128 % 2 ^ 32; let bayOf := fun d => if d / 2 ^ 101 % 2 = 1 then some (d / 2 ^ 97 % 16) else none
    let bayFree := fun d => ∀ b, bayOf d = some b → (h.bay b).st ≠ .pending
    let mine := fun d => (s.slot (d / 2 ^ 70 % 64)).part = some h.run.part
    let graph := fun d => graphFields d = true ∧ mine d
    let ok := fun (c : Cap) (o : Int) n right remote => ∃ r, capCheck c s.nodeId o n right remote false = .ok r
    let moves := fun (op d : Nat) => let bay := d / 2 ^ 101 % 2 == 1; let p := s.transferPlan (src d) (dst d) d bay
      transferFields op d = true ∧ ok (src d) (soff d) (len d) 8 (op == 1) ∧ (d / 2 ^ 79 % 16 = 0 ∨ p.sv.fmt = 0xD) ∧
        (bay = true ∨ ok (dst d) (doff d) (p.extentBytes (len d)) 16 (op != 1)) ∧ s.transferSpan p (len d) = 0 ∧
        (bay = true ∨ pairsAgree (s.copyPairs k false p) = true) ∧ (op = 5 → s.reducible p (d / 2 ^ 102 % 4) = true)
    let atom := fun (cas : Bool) (d : Nat) => let n := if d / 2 ^ 72 % 2 = 1 then 8 else 4
      atomicFields cas d = true ∧ ∃ o, capCheck (dst d) s.nodeId (sint 48 (d / 2 ^ 256 % 2 ^ 48)) n 4 true false = .ok o ∧ o % n = 0
    let cast_ := fun (d : Nat) => let peers := mcastPeers d; let c := dst d
      d % 2 ^ 76 = 0 ∧ len d ≠ 0 ∧ d / 2 ^ 102 % 4 = 0 ∧ d / 2 ^ 101 % 2 = 0 ∧ d / 2 ^ 79 % 16 = 0 ∧ d / 2 ^ 414 % 2 ^ 98 = 0 ∧
        d / 2 ^ 260 % 16 = 0 ∧ peers ≠ [] ∧ s.nodeId ∉ peers ∧ distinct peers = true ∧ ok (src d) (soff d) (len d) 8 false ∧
        ok c (doff d) (len d) 16 true ∧
        s.transferSpan (s.transferPlan (src d) (Cap.make (peers.headD 0) c.obj c.rights c.limit c.cursor true) d false) (len d) = 0
    let load := fun (d : Nat) => graph d ∧ d / 2 ^ 62 % 2 ^ 8 = 0 ∧ d / 2 ^ 61 % 2 = 0 ∧ len d ≠ 0 ∧ ok (src d) (soff d) (len d) 8 false
    let run := fun (op d : Nat) => graph d ∧ d / 2 ^ 160 % 2 ^ 48 = 0 ∧ d / 2 ^ 108 % 16 = 0 ∧ (op = 8 → d / 2 ^ 61 % 2 = 1)
    let inject := fun (d : Nat) => h.run.level = .resident ∧ s.isManager h.run.part = true ∧ injectFields d = true ∧
      (s.rline (d / 2 ^ 152 % 2)).source = true ∧ d / 2 ^ 128 % 2 ^ 24 < (s.rline (d / 2 ^ 152 % 2)).k ∧ ok (src d) (soff d) 2097152 8 false
    (∀ (i : Instr) (op n : Nat) (pass : Nat → Prop) (caps : Nat → List Cap) (queues : Nat → Option (Nat × Nat)),
      (i, op, n, pass, caps, queues) ∈ [
        (.fput desc, 0, 32, moves 0, fun _ => [], fun _ => some (6, 7)),
        (.fget desc, 1, 32, moves 1, fun _ => [], fun d => some (6, if d / 2 ^ 101 % 2 = 1 then 8 else 7)),
        (.famo desc, 2, 48, atom false, fun _ => [], fun _ => some (8, 7)), (.facas desc, 3, 48, atom true, fun _ => [], fun _ => some (8, 7)),
        (.fmcast desc, 4, 64, cast_, fun _ => [], fun _ => some (6, 7)), (.fred desc, 5, 32, moves 5, fun _ => [], fun _ => some (6, 7)),
        (.gload desc, 6, 32, load, fun _ => [], fun _ => some (6, 8)), (.grun desc, 7, 32, run 7, s.patchCaps, fun _ => some (6, 7)),
        (.gpatch desc, 8, 32, run 8, s.patchCaps, fun _ => none), (.ringinj desc, 14, 32, inject, fun _ => [], fun _ => some (6, 8))] →
      let d := read n; let place := off + n ≤ 0xF_8000; let raised := awaits d → h.regs.hs.getLsbD (sem d) = true
      (op ≠ 14 ∨ inject d → (¬place → s.TrapsWith i 0x02 0) ∧ (place → ¬raised → s.TrapsWith i 0x05 1)) ∧
      (place → raised → pass d → bayFree d → (¬room → s.TrapsWith i 0x05 3) ∧
        (room → s.Completes i fun t => let bay := if op ≤ 3 then bayOf d else none
          (∃ c : FCmd, t.pkg = { s.pkg with fab := { s.pkg.fab with cmds := s.pkg.fab.cmds ++ [c] } } ∧ c.id = s.nextId ∧ c.k = k ∧
            c.op = op ∧ c.desc = off ∧ c.bits = d ∧ c.caps = caps d ∧ c.accepted = false ∧ c.status = 0 ∧ c.finished = false ∧
            c.ctx = bitsOf h.sys.ctxid 15 0 ∧ c.bay = bay ∧ c.issue = s.cyc ∧ c.level = h.run.level ∧
            c.rsem = if d / 2 ^ 96 % 2 = 1 then some (d / 2 ^ 90 % 64) else none) ∧
          (match queues d with
            | none => t.uops = s.uops
            | some q => ∃ u : UOp, t.uops = s.uops ++ [u] ∧ u.k = k ∧ u.owner = .fabric s.nextId ∧ u.rq = q.1 ∧ u.wq = q.2) ∧
          (awaits d → t.here.regs.hs.getLsbD (sem d) = false) ∧
          (∀ j, ¬awaits d ∨ j ≠ sem d → t.here.regs.hs.getLsbD j = h.regs.hs.getLsbD j) ∧
          (∀ b, bay = some b → (t.here.bay b).st = .pending) ∧ (∀ b : Nat, b < 16 → bay ≠ some b → t.here.bay b = h.bay b) ∧
          (∃ x y, t.here = { h with regs := { h.regs with hs := x, bays := y } }) ∧ (∀ j, j ≠ k → t.stn j = s.stn j) ∧
          t.mem = s.mem ∧ t.txns = s.txns))) ∧
    (s.cur.e = .fabric →
      (f = 0 ∧ w.toNat &&& 192 ≠ w.toNat → s.TrapsWith (.fsync f w) 0x02 0) ∧
      (f ≠ 0 ∨ w.toNat &&& 192 = w.toNat → (w.toNat % 256 = 0 → exec (.fsync f w) s = .next s) ∧
        (w.toNat % 256 ≠ 0 → exec (.fsync f w) s = .next { s with
          markers := s.markers ++ [⟨k, k.val, s.seq, w.toNat % 256, f.toNat, decide (256 ≤ w.toNat), false, s.cyc⟩], seq := s.seq + 1 })))

/-- R348 to R350, R353 to R355: the graph commands without a descriptor, and the ring manager's: a status read; an abort two cycles on,
which leaves the slot ABORTED with CAUSE 1, ends its `grun`s with STATUS 100 and abandons its operations, or does nothing to a slot that
is not RUNNING; a barrier arrival sent to every other member while some plane is up; a change at the next frame that its 9 bits name;
and a transition of the repair table, which traps where its needs fail. The model's choices: whether a new member holds the ring's time,
and whether the neighbour is lost of a member whose own input stands, are free choices (log entry 79); a barrier arrival is counted and
sent in the issue cycle, and not sent where no plane is up, which R350 does not give (log entry 86). -/
def Obligations.graph_and_ring_commands : Prop :=
  ∀ (s : State) (h m : BitVec 6) (d : BitVec 4) (k : BitVec 3) (l : BitVec 1) (f : BitVec 9) (v : BitVec 32),
    let g := s.slot h.toNat; let own := g.part = some s.here.run.part; let r := s.pkg.ring
    let manager := s.here.run.level = .resident ∧ r.manager = some s.here.run.part
    let next := (s.cyc + 2048 - s.phase + 2047) / 2048; let at_ := fun n => n % 512 = f.toNat ∧ next ≤ n ∧ n < next + 512
    (¬own → s.TrapsWith (.gstat h d) 0x02 0 ∧ s.TrapsWith (.gabort h) 0x02 0 ∧ s.TrapsWith (.fbar h m) 0x02 0) ∧
    (own → exec (.gabort h) s = .next { s with pkg := { s.pkg with fab := { s.pkg.fab with
      late := s.pkg.fab.late ++ [(s.cyc + 2, .abortGraph h.toNat)] } } }) ∧
    (∀ c, s.pkg.fab.late = [(c, .abortGraph h.toNat)] → c ≤ s.cyc → let t := s.lateActs
      t.mem = s.mem ∧ t.stns = s.stns ∧ t.pkg.fab.late = [] ∧
      (g.st ≠ .running → t.pkg.graphs = s.pkg.graphs ∧ t.pkg.fab.cmds = s.pkg.fab.cmds ∧ t.uops = s.uops) ∧
      (g.st = .running → t.slot h.toNat = { g with
          st := .aborted, cause := 1, frank := 0, pend := none, runner := none, runs := (g.runs + 1) % 2 ^ 32, own := none
          startAt := none, arrived := g.arrived.filter fun a => a.2 != g.bph.toNat } ∧
        (∀ n, n < 64 → n ≠ h.toNat → t.slot n = s.slot n) ∧
        t.pkg.fab.cmds = s.pkg.fab.cmds.map (fun x => if (g.runner = some x.id ∨ g.pend = some x.id) ∧ x.status = 0 then
          { x with status := 4, ecode := 0 } else x) ∧
        ∀ u ∈ t.uops, u.dead = false → u ∈ s.uops ∧ ∀ i, u.owner ≠ .graph h.toNat i)) ∧
    (own → (s.here.bay d.toNat).st = .pending → s.TrapsWith (.gstat h d) 0x02 0) ∧
    (own → (s.here.bay d.toNat).st ≠ .pending → s.Completes (.gstat h d) fun t =>
      (t.here.bay d.toNat).st = .pending ∧ (∀ b : Nat, b < 16 → b ≠ d.toNat → t.here.bay b = s.here.bay b) ∧ t.pkg = s.pkg ∧ t.mem = s.mem ∧
      (∃ b, t.here = { s.here with regs := { s.here.regs with bays := b } }) ∧ (∀ j, j ≠ s.cur.k → t.stn j = s.stn j) ∧
      ∃ u : UOp, t.uops = s.uops ++ [u] ∧ u.k = s.cur.k ∧ u.owner = .gstat d.toNat h.toNat ∧ u.rq = 6 ∧ u.wq = 8) ∧
    (g.st = .empty ∨ g.own.isSome = true → s.TrapsWith (.fbar h m) 0x02 0) ∧
    (own → g.st ≠ .empty → g.own = none →
      let all := ∀ x, x < g.members.length → x = g.rank ∨ (x, g.bph.toNat) ∈ g.arrived
      s.Completes (.fbar h m) fun t => let y := t.slot h.toNat
        t.mem = s.mem ∧ t.here.regs.s = s.here.regs.s ∧ t.here.sys = s.here.sys ∧ (∀ j, j ≠ s.cur.k → t.stn j = s.stn j) ∧
        (∀ n, n < 64 → n ≠ h.toNat → t.slot n = s.slot n) ∧
        (all → y.bph = g.bph + 1 ∧ y.own = none ∧ t.here.regs.hsNew.getLsbD m.toNat = true) ∧
        (¬all → y.bph = g.bph ∧ y.own = some (s.cur.k, m.toNat) ∧ t.stns = s.stns) ∧
        ∃ ps : List Packet, t.out = s.out ++ ps.map .packet ∧
          (∀ p ∈ ps, p.cls = 2 ∧ p.opk = 0x18 ∧ p.arg = g.group ∧ p.rseq = g.bph.toNat ∧ p.src = s.nodeId) ∧
          ((∃ i, i < 16 ∧ bitOf s.pkg.fab.fplane i = true) → ps.map (·.dst) = g.members.filter fun j => j ≠ s.nodeId) ∧
          ((∀ i, i < 16 → bitOf s.pkg.fab.fplane i = false) → ps = [])) ∧
    (¬manager → s.TrapsWith (.ringcfg k f v) 0x02 0) ∧
    (manager → let fit := k = 0 ∨ (v.toNat ≤ 8 ∧ ∀ n, n < 2 → (s.rline n).hop + v.toNat + 1 ≤ (s.rline n).segs_)
      (¬fit → s.TrapsWith (.ringcfg k f v) 0x02 0) ∧
      (fit → s.Completes (.ringcfg k f v) fun t => ∃ n, at_ n ∧ t = { s with pkg := { s.pkg with ring := { r with
        changes := r.changes.filter (·.1 != k.toNat) ++ [(k.toNat, n, v.toNat)] } } })) ∧
    (let drawn := { s with freeCount := s.freeCount + 1 }; let side := r.side = l.toNat
      (¬manager → exec (.ringbyp k l f) s = .next (drawn.trap 0x02 0)) ∧
      (manager → r.state ≠ .run → r.state ≠ .lost ∨ (s.rline l.toNat).inSel ≠ 2 → exec (.ringbyp 0 l f) s = .next (drawn.trap 0x02 0)) ∧
      (manager → r.state = .run → exec (.ringbyp 0 l f) s = .next (drawn.trap 0x02 0) ∨ ∃ n, at_ n ∧
        exec (.ringbyp 0 l f) s = .next { drawn with pkg := { s.pkg with ring := { r with transition := some (0, n), side := l.toNat } } }) ∧
      (manager → r.state ≠ .bypass ∨ ¬side → exec (.ringbyp 1 l f) s = .next (drawn.trap 0x02 0)) ∧
      (manager → r.state = .bypass → side → exec (.ringbyp 1 l f) s = .next (drawn.trap 0x02 0) ∨ ∃ n, at_ n ∧
        exec (.ringbyp 1 l f) s = .next { drawn with pkg := { s.pkg with ring := { r with transition := some (1, n) } } }) ∧
      (manager → r.state ≠ .admitting ∨ (¬side ∧ r.newcomer = false) ∨ (∀ n, at_ n → n < r.admitAt + r.qm + 1) →
        exec (.ringbyp 2 l f) s = .next (drawn.trap 0x02 0))) ∧
    (manager → r.state = .lost → (s.rline l.toNat).inSel = 2 → s.Completes (.ringbyp 0 l f) fun t => ∃ n, at_ n ∧
      t = { s with freeCount := t.freeCount, pkg := { s.pkg with ring := { r with transition := some (0, n), side := l.toNat } } }) ∧
    (manager → r.state = .admitting → r.side = l.toNat ∨ r.newcomer = true → (∀ n, at_ n → r.admitAt + r.qm + 1 ≤ n) →
      s.Completes (.ringbyp 2 l f) fun t => ∃ n, at_ n ∧
        t = { s with freeCount := t.freeCount, pkg := { s.pkg with ring := { r with transition := some (2, n) } } })

/-! ### Results -/

/-- R221, R233: the scalar results of a station that are due take effect in the order in which their instructions issued, so that of two
to one register the later-issued one remains; a write to s0 is discarded, and s0 reads zero. Nothing else changes. R233, R273: results
of the vector engine that are due take effect before those of the matrix engine, so that of two to one register the matrix engine's
value remains in the bytes that it writes. R21, R85, R131, R185, R273, R295, R297, R298, R307, R317, R336 to R338: what each kind of
late effect does when it is due, and that it does nothing else: predicates, flags, lines of operand FIFOs, rows and elements of tiles,
semaphores, routing counters, rows of the candidate heap, capability registers, where a register that two engines write in one cycle
takes neither value and the station a capability violation with subcode 0xC on the lower of them; and, of the lane tap, a drive onto a
lane, which an occupied stage refuses, and a store, whose checks are made as it is issued (log entry 134). R21: two engines that write
one capability register in one cycle: neither write takes effect, and the station takes a capability violation with subcode 0xC on the
lower engine. R225, R267: a register write that is due takes effect: the register named then reads the written value in its writable
bits, the reserved bits 0; a W1C register loses the bits written as 1. Nothing else of the station, and no memory, is written; a
register of the partition changes in that partition alone. PMVAL takes its value at the start of the cycle after its `csr`: behind the
counts of that `csr`'s cycle, and before those of its own (R403). -/
def Obligations.late_results : Prop :=
  (∀ (s : State) (k : Stn), let h := s.stn k
    let due := h.pend.filter fun p => decide (p.due ≤ s.workNom k) && Pend.of (fun e => e != 2 && e != 3) p && !p.eff.ofTap
    (∀ p ∈ due, ∃ d v, p.eff = .sreg d v) → ∃ t : State, exec (.scalarResultWrite k) s = .next t ∧ let y := t.stn k
      y.sreg 0 = 0 ∧
      (∀ d, d ≠ 0 → (∀ p ∈ due, ∀ v, p.eff ≠ .sreg d v) → y.sreg d = h.sreg d) ∧
      (∀ d v a b p, d ≠ 0 → due = a ++ p :: b → p.eff = .sreg d v → (∀ q ∈ b, ∀ w, q.eff ≠ .sreg d w) → y.sreg d = v) ∧
      (∀ p, p ∈ y.pend ↔ p ∈ h.pend ∧ p ∉ due) ∧
      (∃ r, y = { h with pend := y.pend, regs := { h.regs with s := r } }) ∧ (∀ j, j ≠ k → t.stn j = s.stn j) ∧
      t = { s with stns := t.stns }) ∧
  (∀ (s : State) (k : Stn), let h := s.stn k
    let due := fun n => h.pend.filter fun p => decide (p.due ≤ s.workNom k) && Pend.of (fun e => e == n) p && !p.eff.ofTap
    ∀ (p q : Pend) (d : BitVec 6) (m v n w : Line), due 2 = [p] → due 3 = [q] → p.eff = .vreg d m v → q.eff = .vreg d n w →
      ∃ t : State, exec (.vectorResultWrite k) s = .next t ∧ let y := t.stn k
        (∀ i, (y.vreg d).getLsbD i =
          if n.getLsbD i then w.getLsbD i else if m.getLsbD i then v.getLsbD i else (h.vreg d).getLsbD i) ∧
        (∀ e, e ≠ d → y.vreg e = h.vreg e) ∧ (∀ x, x ∈ y.pend ↔ x ∈ h.pend ∧ x ∉ due 2 ∧ x ∉ due 3) ∧
        (∃ r, y = { h with pend := y.pend, regs := { h.regs with v := r } }) ∧ (∀ j, j ≠ k → t.stn j = s.stn j) ∧
        t = { s with stns := t.stns }) ∧
  (∀ (s : State) (k : Stn) (p : Pend), let h := s.stn k
    h.pend = [p] → p.due ≤ s.workNom k →
    let does := fun (P : Station → Prop) => ∃ t : State, exec (.vectorResultWrite k) s = .next t ∧ P (t.stn k) ∧
      (∀ j, j ≠ k → t.stn j = s.stn j) ∧ t = { s with stns := t.stns }
    let fifo := fun (b : Bool) (m : Matrix) => if b then m.fb else m.fa
    (p.eng = 2 →
      (∀ d m v, p.eff = .qreg d m v → does fun y => y.pend = [] ∧ (∀ e, e ≠ d → y.qreg e = h.qreg e) ∧
        (∀ i, (y.qreg d).getLsbD i = if m.getLsbD i then v.getLsbD i else (h.qreg d).getLsbD i) ∧
        ∃ r, y = { h with pend := [], regs := { h.regs with q := r } }) ∧
      (∀ f, p.eff = .flags f → does fun y => (∀ i, y.sys.fflags.getLsbD i = (h.sys.fflags.getLsbD i || f.getLsbD i)) ∧
        y = { h with pend := [], sys := { h.sys with fflags := y.sys.fflags } }) ∧
      (∀ b d, p.eff = .push b d → (fifo b h.mat).lines.length < (if b then 256 else 128) → does fun y =>
        (fifo b y.mat).lines = (fifo b h.mat).lines ++ [⟨d, ⟨0, 0, 0⟩, false⟩] ∧ (fifo b y.mat).pos = (fifo b h.mat).pos + 1 ∧
        (fifo b y.mat).con = (fifo b h.mat).con ∧ (fifo (!b) y.mat) = (fifo (!b) h.mat) ∧ y.regs = h.regs ∧ y.sys = h.sys ∧ y.pend = []) ∧
      (∀ b d l r, p.eff = .pop b d → (fifo b h.mat).lines = l :: r → l.poison = false → does fun y =>
        (fifo b y.mat).lines = r ∧ (fifo b y.mat).con = (fifo b h.mat).con + 1 ∧ (fifo b y.mat).pos = (fifo b h.mat).pos ∧
        y.pend = [⟨p.due + 1, p.iss, 2, .vreg d (BitVec.allOnes 2048) l.data⟩] ∧ y.regs = h.regs ∧ y.sys = h.sys) ∧
      (∀ ids, p.eff = .counts ids → ids.Nodup → (∀ i ∈ ids, i < 64) → does fun y =>
        (∀ i : Fin 64, (y.mat.counters[i]).toNat = if i.val ∈ ids then min ((h.mat.counters[i]).toNat + 1) 0xFFFF_FFFF
          else (h.mat.counters[i]).toNat) ∧ y = { h with pend := [], mat := { h.mat with counters := y.mat.counters } })) ∧
    (p.eng = 3 →
      (∀ i q, p.eff = .zeroRows i q → does fun y => (∀ j, j ≠ i → y.tile j = h.tile j) ∧
        (∀ r c, r < 64 → c < 128 → (y.tile i).elem r c = if q.getLsbD r then none else (h.tile i).elem r c) ∧
        ∃ x, y = { h with pend := [], regs := { h.regs with tiles := x } }) ∧
      (∀ i r b ws, p.eff = .setRow i r b ws → does fun y => (∀ j, j ≠ i → y.tile j = h.tile j) ∧
        (∀ x c, x < 64 → c < 128 → (x ≠ r → (y.tile i).elem x c = (h.tile i).elem x c) ∧
          (x = r → ∃ e, (y.tile i).elem x c = some e ∧ e.int = b ∧ e.lo = 0 ∧ e.hi = 0 ∧ e.entries = [] ∧
            (readElem (some e)).1.v = ws.getD c 0)) ∧
        ∃ x, y = { h with pend := [], regs := { h.regs with tiles := x } }) ∧
      (∀ i r c e, p.eff = .setElem i r c e → does fun y => (∀ j, j ≠ i → y.tile j = h.tile j) ∧
        (∀ x z, x < 64 → z < 128 → (y.tile i).elem x z = if x = r ∧ z = c then e else (h.tile i).elem x z) ∧
        ∃ x, y = { h with pend := [], regs := { h.regs with tiles := x } }) ∧
      (∀ n, p.eff = .raise n → n < 64 → does fun y => y.regs.hsNew.getLsbD n = true ∧ y.regs.hs = h.regs.hs ∧
        ((h.regs.hs.getLsbD n || h.regs.hsNew.getLsbD n) = true → y.regs.hsovf.getLsbD n = true) ∧
        ∃ a b, y = { h with pend := [], regs := { h.regs with hsNew := a, hsovf := b } }) ∧
      (∀ off bs, p.eff = .heap off bs → does fun y => (∀ n, cellsRead y.mat.heap n = if off ≤ n ∧ n < off + bs.length then bs.getD (n - off) 0
        else cellsRead h.mat.heap n) ∧ y = { h with pend := [], mat := { h.mat with heap := y.mat.heap } })) ∧
    (∀ d c, p.eng ≠ 2 → p.eng ≠ 3 → p.eff = .creg d c → ∃ t : State, exec (.scalarResultWrite k) s = .next t ∧ t = { s with stns := t.stns } ∧
      (∀ j, j ≠ k → t.stn j = s.stn j) ∧ let y := t.stn k
      y.creg d = c ∧ (∀ e, e ≠ d → y.creg e = h.creg e) ∧ ∃ x, y = { h with pend := [], regs := { h.regs with c := x } }) ∧
    (∀ d w l a, p.eff = .tapDrive d w l a → let b : LaneBeat := ⟨clusterOf k, d, slotOf (localOf k), s.cyc, w, some l, h.run.lag % 2 ^ 24, false⟩
      let left := s.onStn k fun x => { x with pend := [] }
      ((∀ x ∈ s.beats, x.stands b.cl d b.slot s.cyc = false) → s.tapOutputs k true = { left with beats := s.beats ++ [b] }) ∧
      ((∃ x ∈ s.beats, x.stands b.cl d b.slot s.cyc = true) → s.tapOutputs k true = left.lateTrap k 0x07 2 a) ∧ s.tapOutputs k false = s) ∧
    (∀ r o x l a, p.eff = .tapWrite r o x l a → let c := h.creg r; let left := s.onStn k fun x => { x with pend := [] }
      let check := capCheck c s.nodeId (tapDisp c o x) 256 2 false false; let fails := fun cause sub => s.tapOutputs k false = left.lateTrap k cause sub a
      s.tapOutputs k true = s ∧ (∀ z, check = .error z → fails 0x03 z) ∧ (∀ z, check = .ok z → (z % 256 ≠ 0 → fails 0x02 0) ∧
        (z % 256 = 0 → s.segments k c.obj 4 z 256 = none → fails 0x03 8) ∧
        ∀ gs, z % 256 = 0 → s.segments k c.obj 4 z 256 = some gs →
          ((∃ g ∈ gs, g.page.fmt ≠ 0) → fails 0x04 (max 1 (tapFormat gs))) ∧
          ((∀ g ∈ gs, g.page.fmt = 0) → h.run.lag = 0 ∨ (∀ g ∈ gs, g.page.bank.isSome = true) → let u := s.tapOutputs k false
            u.stn k = { h with pend := [] } ∧ (∀ j, j ≠ k → u.stn j = s.stn j) ∧ u.mem = s.mem ∧ u.pkg = s.pkg ∧
            ∃ y : Txn, u.txns = s.txns ++ [y] ∧ y.k = k ∧ y.eng = 6 ∧ y.use = .none ∧
              y.parts.map (fun q => (q.stack, q.bank, q.line, q.op)) =
                (writeSegs gs (bytesOf l) none).map fun w => (w.1.page.bank.isNone, w.1.page.bank.getD 0, w.1.addr / 256 * 256, w.2.2))))) ∧
  (∀ (s : State) (k : Stn) (p q : Pend) (d : BitVec 4) (a b : Cap), let h := s.stn k
    (h.pend = [p, q] ∨ h.pend = [q, p]) → p.due ≤ s.workNom k → q.due ≤ s.workNom k → 1 ≤ p.eng → p.eng < q.eng → q.eng ≤ 7 →
    (∀ n ∈ [2, 3], p.eng ≠ n ∧ q.eng ≠ n) → p.eff = .creg d a → q.eff = .creg d b → h.trap.halted = false → h.trap.taking = none →
    ∃ t : State, exec (.scalarResultWrite k) s = .next t ∧ t = { s with stns := t.stns } ∧ (∀ j, j ≠ k → t.stn j = s.stn j) ∧
      let y := t.stn k; y.regs = h.regs ∧ y.sys = h.sys ∧ y.pend = [] ∧ ∃ at_ : TrapAt, at_.eng = p.eng ∧
        y.trap = { h.trap with taking := some (⟨0x03, 0xC, 0, true, 2 ^ (p.eng - 1), at_⟩, s.nom k) }) ∧
  (∀ (s : State) (k : Stn) (p : Pend) (n : Nat) (v : DWord), let h := s.stn k; let q := s.partOf k
    h.pend = [p] → p.due ≤ s.workNom k → p.eng ≠ 2 → p.eng ≠ 3 → p.eff = .csr n v →
    let does := fun (P : State → Prop) => ∃ t : State, exec (.scalarResultWrite k) s = .next t ∧ t.mem = s.mem ∧ t.cyc = s.cyc ∧
      t.txns = s.txns ∧ t.uops = s.uops ∧ (t.stn k).pend = [] ∧ (t.stn k).streams = h.streams ∧ (∀ j, j ≠ k → t.stn j = s.stn j) ∧ P t
    (∀ m, (n, m) ∈ [(0x003, 0xFFFF), (0x005, 0x8000_0000_0000_03FF), (0x006, 0xFFFF), (0x00F, 0x3FF), (0x013, 0xFFFF_0000_000F_FFF8),
        (0x015, 0x8000_0000_0000_0FFF), (0x016, 0x8FFF_FFFF_8FFF_FFFF), (0x017, 0x8FFF_FFFF_8FFF_FFFF), (0x018, 0x3),
        (0x01A, 0xF_FFF8), (0x01C, 0x1FFF), (0x01E, 0x3FFF_FFFF_FFFF), (0x112, 0x1_FFFF)] →
      does fun t => t.csrRead k n = some (v &&& BitVec.ofNat 64 m) ∧ t.pkg = s.pkg ∧
        ∃ y, t.stn k = { h with pend := [], sys := y } ∧ y.fflags = h.sys.fflags) ∧
    (n = 0x00D → does fun t => t.csrRead k n = some (h.sys.fflags &&& ~~~v) ∧ t.pkg = s.pkg ∧
      ∃ y, t.stn k = { h with pend := [], sys := { h.sys with fflags := y } }) ∧
    (n = 0x011 → does fun t => t.csrRead k n = some v ∧ t.pkg = s.pkg ∧ t.stn k = { h with pend := [], regs := { h.regs with hs := v } }) ∧
    (n = 0x012 → does fun t => t.csrRead k n = some (h.regs.hsovf &&& ~~~v) ∧ t.pkg = s.pkg ∧
      ∃ y, t.stn k = { h with pend := [], regs := { h.regs with hsovf := y } }) ∧
    (∀ m, (n, m) ∈ [(0x10D, 0x803F_FFFF_0000_FFFF), (0x111, 0x8000_0000_003F_FFFF), (0x300, 0xF800_0007_FFFF_FFFF),
        (0x301, 0x8F00_0000_0003_FFFF), (0x303, 0x1F_FFFF), (0x304, 7), (0x305, 0x8000_0000_0000_00FF), (0x607, 0x8F00_7FC0_0003_FFFF),
        (0x609, 0x1_FFFF)] →
      does fun t => t.csrRead k n = some (v &&& BitVec.ofNat 64 m) ∧ t.stn k = { h with pend := [] } ∧
        ∃ y, t.pkg = { s.pkg with parts := y } ∧ ∀ i : Fin 16, i.val ≠ q % 16 → y[i] = s.pkg.parts[i]) ∧
    (∀ m, (n, m) ∈ [(0x601, 7), (0x606, 0x8000_FFFF_0000_0000), (0x60B, 0x8000_FFFF_03FF_FFFF), (0x60D, 0x81F0_0000_0003_FFFF)] →
      does fun t => t.csrRead k n = some (v &&& BitVec.ofNat 64 m) ∧ t.pkg = s.pkg ∧
        ∃ y, t.stn k = { h with pend := [], trap := y } ∧ y.tcause = h.trap.tcause) ∧
    (n = 0x500 → does fun t => t.csrRead k n = some (v &&& 0xFFFF_FFFF) ∧ t.stn k = { h with pend := [] }) ∧
    (∀ m, (n, m) ∈ [(0x400, 0xFFFF_FFFF_FF80_0000), (0x401, 0xFFFF_FFFF)] →
      does fun t => t.csrRead k n = some (v &&& BitVec.ofNat 64 m) ∧ t.pkg = s.pkg ∧ ∃ y, t.stn k = { h with pend := [], mat := y }) ∧
    (n = 0x402 → does fun t => t.csrRead k n = some v ∧ t.pkg = s.pkg ∧ t.stn k = { h with pend := [], mat := { h.mat with mxfmt := v } }) ∧
    (n = 0x306 → (does fun t => t.csrRead k n = some (v &&& 0xFFFF_FFFF_FFFF) ∧ t.stn k = { h with pend := [] }) ∧
      let t := s.writeCounts; (∀ j, j ≠ k → (s.stn j).pend = []) → t.csrRead k n = some (v &&& 0xFFFF_FFFF_FFFF) ∧
        t.stn k = { h with pend := [] } ∧ t.mem = s.mem ∧ ∃ y, t.pkg = { s.pkg with parts := y } ∧ ∀ i : Fin 16, i.val ≠ q % 16 → y[i] = s.pkg.parts[i]))

/-! ### Trap entry, return and block starts -/

/-- R377 to R381, R386: a trap of a past group is entered once its station has drained: TCAUSE, TSTATE, TPC and TFRAME name it, the shadows
hold each stream, the level becomes resident and LAG zero, and the handler's block is fetched, errors in its table entry corrected; the
block starts when it lies in the rings. -/
def Obligations.trap_entry : Prop :=
  ∀ (s : State) (k : Stn), let h := s.stn k; let b := bitsOf h.trap.tvec 47 32
    (∀ t n, h.trap.entering = false → h.trap.taking = some (t, n) → n < s.nom k → h.running = true → h.pre.st ≠ .hold →
      s.pkg.rollbacks.contains (s.partOf k, s.teamNo k) = false → s.drained k = true → s.blockOk k b = true →
      t.mask < 128 → t.cause < 256 → t.at_.eng < 16 → t.sub < 16 → t.code < 2 ^ 32 → t.at_.pc < 1024 →
      ∃ u, exec (.trapEntry k) s = .next u ∧ let y := u.stn k; let c := y.trap.tcause
        bitOf c 63 = true ∧ (bitOf c 62 = true ↔ t.cause ∉ [0x06, 0x10, 0x11, 0x13]) ∧ bitOf c 61 = t.async ∧ bitsOf c 54 48 = t.mask ∧
        bitsOf c 47 40 = t.cause ∧ bitsOf c 39 36 = t.at_.eng ∧ bitsOf c 35 32 = t.sub ∧ bitsOf c 31 0 = t.code ∧
        bitOf y.trap.tstate 54 = t.at_.rpti.isSome ∧ bitsOf y.trap.tstate 39 0 = t.at_.stamp % 2 ^ 40 ∧
        (∀ i, t.at_.rpti = some i → i < 512 → bitsOf y.trap.tstate 63 55 = i) ∧
        y.trap.tpc.toNat = t.at_.pc ∧ y.trap.tframe = BitVec.ofNat 64 (s.frameOf n) ∧ y.trap.tnom = n ∧
        y.trap.taskBlock = h.run.block ∧ y.trap.taskBase = h.run.base ∧ y.trap.taking = none ∧ y.trap.entering = true ∧
        y.trap.inHandler = true ∧ y.trap.forked = false ∧ y.run.level = .resident ∧ y.run.lag = 0 ∧ y.run.half = h.run.half ∧
        (∃ f, y.run.fetch = some f ∧ f.block = b ∧ f.start = s.cyc ∧ f.res = true ∧ f.fault = false) ∧
        (∀ e, let w := y.trap.shadows[(engIdx e).val]; let x := h.stream e
          w.pc = x.pc ∧ w.stamp = x.stamp ∧ w.loops = x.loops ∧ w.first = x.first ∧ w.idle = !h.busy e ∧ w.rptv = x.rep.isSome ∧
            w.rpti = x.rep.getD 0) ∧
        y.regs = h.regs ∧ y.sys = h.sys ∧ u.mem = (s.readEntry k b).mem ∧ u.pkg = (s.readEntry k b).pkg ∧ ∀ j, j ≠ k → u.stn j = s.stn j) ∧
    (∀ f, h.trap.entering = true → h.run.fetch = some f → f.fault = false → (f.whole s.cyc = false → exec (.trapEntry k) s = .next s) ∧
      (f.whole s.cyc = true → ∃ u, exec (.trapEntry k) s = .next u ∧ let y := u.stn k
        y.trap.entering = false ∧ y.run.level = .resident ∧ y.run.base = s.cyc + 1 ∧ y.run.block = f.block ∧ y.run.half = !h.run.half ∧
        y.run.fetch = none ∧
        (∀ e, (y.stream e).pc = (if h.run.half then 0 else 512) ∧ (y.stream e).stamp = f.base ∧ (y.stream e).first = true ∧
          (y.stream e).rep = none ∧ (y.stream e).loops = Vector.replicate 2 ⟨0, 0, 0, false⟩) ∧
        y.regs = h.regs ∧ y.sys = h.sys ∧ u.mem = s.mem ∧ u.pkg = s.pkg ∧ ∀ j, j ≠ k → u.stn j = s.stn j))

/-- R168, R175, R189, R242, R382: what a cycle does after its issue groups: `fork` starts the fetched block in the other half, at the level of
its table entry, with every stream at its first word; `eret` gives the streams back what the shadows hold, at task level, so that the
next cycle is the nominal cycle of the trap; `resync` leaves its lag. -/
def Obligations.group_ends : Prop :=
  ∀ (s : State) (k : Stn) (r : List Act), let h := s.stn k
    let rest := fun (u : State) => u.todo = r ∧ u.mem = s.mem ∧ u.pkg = s.pkg ∧ (u.stn k).regs = h.regs ∧ (u.stn k).sys = h.sys ∧
      ∀ j, j ≠ k → u.stn j = s.stn j
    (∀ base f, s.todo = .start k base :: r → h.run.fetch = some f → ∃ u, step s = .next u ∧ rest u ∧ let y := u.stn k
      y.run.level = (if f.res then .resident else .task) ∧ y.run.base = base ∧ y.run.block = f.block ∧ y.run.half = !h.run.half ∧
      y.run.fetch = none ∧ y.run.lag = h.run.lag ∧ y.trap.inHandler = false ∧
      ∀ e, (y.stream e).pc = (if h.run.half then 0 else 512) ∧ (y.stream e).stamp = f.base ∧ (y.stream e).first = true ∧
        (y.stream e).rep = none ∧ (y.stream e).loops = Vector.replicate 2 ⟨0, 0, 0, false⟩) ∧
    (s.todo = .resume k :: r → h.trap.held = [] → h.trap.slipDue = none → h.pre.st ≠ .pending →
      (let f := s.frameOf h.trap.tnom + (if s.phase ≤ h.trap.tnom then 1 else 0); s.cyc < s.phase + 2048 * f + bitsOf h.sys.lagcfg 15 0) →
      ∃ u, step s = .next u ∧ rest u ∧ let y := u.stn k
        y.run.level = .task ∧ y.run.lag = s.cyc + 1 - h.trap.tnom ∧ y.run.half = !h.run.half ∧ y.run.block = h.trap.taskBlock ∧
        y.run.base = h.trap.taskBase ∧ y.trap.inHandler = false ∧ bitOf y.trap.tcause 63 = false ∧
        (∀ i, i < 63 → bitOf y.trap.tcause i = bitOf h.trap.tcause i) ∧
        ∀ e, let w := h.trap.shadows[(engIdx e).val]; let x := y.stream e
          x.stamp = w.stamp ∧ x.loops = w.loops ∧ x.first = w.first ∧ x.rep = (if w.rptv = true ∧ 0 < w.rpti then some w.rpti else none) ∧
          (w.idle = false → x.pc = w.pc) ∧ (w.idle = true → y.busy e = decide (w.rptv = true ∧ 0 < w.rpti))) ∧
    (∀ lag, s.todo = .relag k lag :: r → step s = .next { s with
      todo := r, stns := s.stns.set k.val { h with run := { h.run with lag := lag } } })

/-! ### Steps of the stations -/

/-- R167, R213, R214: in each cycle the fetch unit puts the words of the line read before into the rings and reads the next line that is
due; a line that is not well formed, or whose 513th word overfills a ring, is recorded in FTST with the first cause in lane order and
abandons the fetch. -/
def Obligations.fetch_lines : Prop :=
  ∀ (s : State) (k : Stn), let h := s.stn k
    let quiet := fun (t : State) => t.pkg = s.pkg ∧ t.txns = s.txns ∧ t.todo = s.todo ∧ (t.stn k).regs = h.regs ∧ ∀ j, j ≠ k → t.stn j = s.stn j
    (h.run.fetch = none → exec (.fetchLine k) s = .next s) ∧
    (∀ f, h.run.fetch = some f → f.fault = true → exec (.fetchLine k) s = .next s) ∧
    (∀ f, h.run.fetch = some f → f.fault = false → f.buf = [] → s.mem.soft = [] →
      let due := f.start + 2 + f.next ≤ s.cyc ∧ f.next < f.lines; let at_ := s.remap k (if f.res then .resident else .task) (f.line0 + 32 * f.next)
      let lane : Nat → Word := fun j => BitVec.ofNat 32 (s.mem.readLe (bankKey k.val (at_ + 4 * j)) 4)
      (¬due → exec (.fetchLine k) s = .next s) ∧
      (∀ ls, due → lineLanes lane f.next h.ringRoom = .ok ls → ∃ t : State, exec (.fetchLine k) s = .next t ∧ quiet t ∧ t.mem = s.mem ∧
        (t.stn k).sys = h.sys ∧ (t.stn k).run.fetch = some { f with
          next := f.next + 1, buf := (List.range 8).map lane, base := if f.next = 0 then (lane 0).toNat / 2 ^ 16 else f.base }) ∧
      (∀ c, due → lineLanes lane f.next h.ringRoom = .error c → ∃ t : State, exec (.fetchLine k) s = .next t ∧ quiet t ∧ t.mem = s.mem ∧
        (∃ g, (t.stn k).run.fetch = some g ∧ g.fault = true) ∧
        (bitOf h.sys.ftst 63 = true → (t.stn k).sys = h.sys) ∧
        (bitOf h.sys.ftst 63 = false → f.block < 2 ^ 16 → f.next < 2 ^ 32 → c < 16 →
          (t.stn k).sys.ftst.toNat = 2 ^ 63 + c * 2 ^ 48 + f.block * 2 ^ 32 + f.next))) ∧
    (∀ f e w c, h.run.fetch = some f → f.fault = false → f.buf ≠ [] → f.next = f.lines → s.mem.wf = true →
      lineLanes (fun i => f.buf.getD i 0) (f.next - 1) h.ringRoom = .ok [(e, w, c)] →
      let n := if h.run.half then (h.stream e).len0 else (h.stream e).len1; let i := (if h.run.half then 0 else 512) + n
      let at_ := bankKey k.val (0xF_8000 + (e.code - 1) * 4096 + 4 * i)
      i < 1024 → ∃ t : State, exec (.fetchLine k) s = .next t ∧ quiet t ∧ t.ringWord k e i = (w, c) ∧
        (if h.run.half then ((t.stn k).stream e).len0 = n + 1 else ((t.stn k).stream e).len1 = n + 1) ∧
        (∀ g, g ≠ e → (t.stn k).stream g = h.stream g) ∧ (∀ a, a < at_ ∨ at_ + 4 ≤ a → t.byteAt a = s.byteAt a))

/-- R127, R151, R170, R173, R177, R180, R194, R293, R383: the issue group of a station that is held at a clean point or for a recovery point, or that has
saved and is gated (log entry 39), or whose instruction waits, freezes: LAG rises and nothing issues, and where it waits or is gated the line accesses whose request
is not yet made stand still for the cycle; a group that waits for nothing issues whole. The timetable slip, the completion of a barrier phase and the
end of a budget, each at its cycle. -/
def Obligations.issue_and_time : Prop :=
  (∀ (s : State) (k : Stn), let h := s.stn k; let es := s.dueStreams k; let z := s.release k es
    let frozen := fun (t : State) => (t.stn k).run.lag = h.run.lag + 1 ∧ (t.stn k).streams = h.streams ∧ (t.stn k).regs = h.regs ∧
      t.todo = s.todo ∧ t.mem = s.mem ∧ t.pkg = s.pkg ∧ ∀ j, j ≠ k → t.stn j = s.stn j
    let late := fun (p : TPart) => if s.cyc < p.drive ∧ p.st = .sent then
      { p with drive := p.drive + 1, arr := p.arr + 1, reply := p.reply + 1, still := p.still + 1 } else p
    let still := fun (t : State) => t.txns = s.txns.map fun x => if x.k = k then { x with parts := x.parts.map late } else x
    (h.stands = true → ∃ t : State, exec (.issueGroup k) s = .next t ∧ frozen t ∧ t.txns = s.txns) ∧
    (h.stands = false → 2 ≤ s.pkg.svc.power.toNat → h.pre.st = .saved → ∃ t : State, exec (.issueGroup k) s = .next t ∧ frozen t ∧ still t) ∧
    (h.stands = false → s.gated k = false → s.mayIssue k = true → s.faultDue k = false →
      ((∀ e ∈ es, z.waitOf k e = none) → ∃ t : State, exec (.issueGroup k) s = .next t ∧
        t.todo = es.map (fun e => if ((h.stream e).rep).isSome then .ev (.repeatIteration k e) else .issue k e) ++ s.todo ∧
        t.mem = s.mem ∧ (t.stn k).run = { h.run with stall := 0, waitTag := none } ∧ (t.stn k).regs = h.regs ∧
        (t.stn k).streams = h.streams ∧ ∀ j, j ≠ k → t.stn j = s.stn j) ∧
      (∀ r g l, es.filterMap (z.waitOf k) = (r, g) :: l → ∃ t : State, exec (.issueGroup k) s = .next t ∧ frozen t ∧ still t ∧
        (t.stn k).run.stall = r ∧ (t.stn k).run.waitTag = g)) ∧
    (h.stands = false → s.gated k = false → s.mayIssue k = true → s.faultDue k = true → ∃ t : State, exec (.issueGroup k) s = .next t ∧
      (∃ x, (t.stn k).trap.taking = some x ∧ x.1.cause = 0x12 ∧ x.1.async = true) ∧ t.todo = s.todo ∧ t.mem = s.mem ∧
      bitOf (t.part (s.partOf k)).fqhead 62 = false)) ∧
  (∀ (s : State) (k : Stn), let h := s.stn k
    let at_ : TrapAt := ⟨1, s.nom k - h.run.base, (h.stream .conductor).pc, none⟩
    (∀ f, s.cyc = s.phase + 2048 * f + bitsOf h.sys.lagcfg 15 0 → h.running = true → h.run.level = .task → h.trap.taking = none →
      (s.nom k < s.phase + 2048 * f → ∃ t : State, exec (.timetableSlipCheck k) s = .next t ∧
        (t.stn k).trap.taking = some (⟨0x06, 1, 0, true, 1, at_⟩, s.nom k) ∧ (t.stn k).trap.slipDue = none) ∧
      (s.phase + 2048 * f ≤ s.nom k → exec (.timetableSlipCheck k) s = .next s)) ∧
    (∀ c, h.trap.slipDue = some c → h.running = true → h.run.level = .task → h.trap.taking = none →
      (s.cyc < c → exec (.teamSlipTrap k) s = .next s) ∧
      (c ≤ s.cyc → ∃ t : State, exec (.teamSlipTrap k) s = .next t ∧ (t.stn k).trap.taking = some (⟨0x06, 2, 0, true, 1, at_⟩, s.nom k) ∧
        (t.stn k).trap.slipDue = none ∧ (t.stn k).regs = h.regs ∧ t.mem = s.mem ∧ ∀ j, j ≠ k → t.stn j = s.stn j)) ∧
    (h.run.on = true → bitOf h.sys.tskcur 62 = true → bitOf h.sys.budget 62 = true → bitsOf h.sys.budget 47 0 = 1 → h.pre.st = .run →
      ∃ t : State, exec (.budgetExpiry k) s = .next t ∧ bitsOf (t.stn k).sys.budget 47 0 = 0 ∧ bitOf (t.stn k).sys.budget 63 = true ∧
        (t.stn k).pre.st = .pending ∧ (t.stn k).pre.ovr = true ∧ (t.stn k).pre.frame = (s.cyc + 2047 - s.phase) / 2048 ∧
        (t.stn k).regs = h.regs ∧ t.mem = s.mem)) ∧
  (∀ (s : State) (n : BitVec 3) (c : Nat), let x := s.tag n
    x.due = some c → (s.cyc < c → exec (.barrierPhaseComplete n.toNat) s = .next s) ∧
    (c ≤ s.cyc → ∃ t : State, exec (.barrierPhaseComplete n.toNat) s = .next t ∧ let y := t.tag n
      bitsOf y.ctl 47 32 = (bitsOf x.ctl 47 32 + 1) % 2 ^ 16 ∧ bitsOf y.ctl 8 0 = 0 ∧ (∀ i, 48 ≤ i → i < 64 → bitOf y.ctl i = bitOf x.ctl i) ∧
      y.arrived = 0 ∧ y.due = none ∧ y.mask = x.mask ∧ (∀ m, m ≠ n → t.tag m = s.tag m) ∧ t.stns = s.stns ∧ t.mem = s.mem))

/-! ### Accesses under way -/

/-- R51, R55, R58, R60, R62 to R64, R101, R174, R195: a line access drives its request, is performed at its place in its cycle unless the
hazard checker refuses it, and drives its reply; a read takes the line as it stands, a write changes its own bytes and clears the tag
of their granules, an atomic reads with the reads of its cycle and then stands as the write of its result, with the writes of the cycle,
and a compare-and-swap that fails writes nothing. A refused one has no effect at its place. -/
def Obligations.timed_performances : Prop :=
  ∀ (s : State) (id : Nat) (x : Txn) (p : TPart), s.findPart id = some (x, p) → let key := s.lineKey x.level p
    let lag := (s.stn x.k).run.lag % 2 ^ 24; let simple := ∀ a b c d e, x.use ≠ .map a b c d ∧ x.use ≠ .copyWrite a b e ∧ x.use ≠ .copyRead a b e
    let arrives := (p.own = true ∨ s.cyc ≠ p.drive ∨ p.st ≠ .sent) ∧ s.cyc = p.arr ∧ (p.st = .sent ∨ p.st = .atPort)
    let met := p.stack = true ∨ p.own = true ∨ p.lag = (s.stn p.bank).run.lag % 2 ^ 24
    let same := fun (t : State) => t.pkg = s.pkg ∧ (∀ j, (t.stn j).regs = (s.stn j).regs) ∧ t.todo = s.todo
    (p.own = false → s.cyc = p.drive → p.st = .sent → s.stage (clusterOf x.k) p.lane (slotOf (localOf x.k)) = none →
      exec (.timedAccessPerform id) s = .next { s.onTPart p.id (fun q => { q with lag := lag }) with
        beats := s.beats ++ [⟨clusterOf x.k, p.lane, slotOf (localOf x.k), s.cyc, p.hop, none, lag, false⟩] }) ∧
    (arrives → ¬met → simple → exec (.timedAccessPerform id) s = .next (s.onTPart p.id fun q => { q with st := .skew })) ∧
    (arrives → met → simple → p.own = false → s.hazard key p ≠ 0 →
      exec (.timedAccessPerform id) s = .next (s.onTPart p.id fun q => { q with st := .refused (s.hazard key p) })) ∧
    (arrives → met → simple → p.own = true → s.hazard key p ≠ 0 → x.reported = none → (s.stn x.k).trap.taking = none →
      (s.stn x.k).trap.halted = false → ∃ t : State, exec (.timedAccessPerform id) s = .next t ∧ t.mem = s.mem ∧ same t ∧
        ∃ u, (t.stn x.k).trap.taking = some u ∧ u.1.cause = 0x07 ∧ u.1.sub = s.hazard key p ∧ u.1.async = true) ∧
    (arrives → met → simple → s.hazard key p = 0 → p.op = .read → s.mem.soft = [] → p.line < 0xF_F000 ∨ p.stack = true →
      ∃ q, exec (.timedAccessPerform id) s = .next (s.onTPart p.id fun _ => q) ∧ q.st = .done ∧ q.tag = s.mem.tagAt (key + p.lo) ∧
        (∀ i, i < 256 → byteOf q.data i = s.byteAt (key + i)) ∧
        (q.poison = true ↔ ∃ o ∈ p.offs, (key + o) / 8 ∈ s.mem.poison) ∧ q.id = p.id ∧ q.offs = p.offs ∧ q.lo = p.lo ∧ q.len = p.len) ∧
    (∀ bs tag, arrives → met → simple → s.hazard key p = 0 → p.op = .write bs tag → (bs.map (·.1)).Nodup → s.mem.wf = true →
      ∃ t : State, exec (.timedAccessPerform id) s = .next t ∧ same t ∧
        (∀ o b, (o, b) ∈ bs → t.byteAt (key + o) = b) ∧ (∀ a, (∀ o b, (o, b) ∈ bs → a ≠ key + o) → t.byteAt a = s.byteAt a) ∧
        (tag = none → ∀ o b, (o, b) ∈ bs → t.mem.tagAt (key + o) = false) ∧ (∀ v, bs ≠ [] → tag = some v → t.mem.tagAt (key + p.lo) = v) ∧
        (bs = [] → t.mem = s.mem)) ∧
    (∀ a, arrives → met → simple → s.hazard key p = 0 → p.op = .atomic a → s.mem.soft = [] →
      let old := s.mem.readLe (key + p.lo) a.size; let r := a.apply old
      ∃ q, exec (.timedAccessPerform id) s = .next (s.onTPart p.id fun _ => q) ∧ q.id = p.id ∧ q.st = p.st ∧ q.arr = p.arr ∧
        q.op = .write (if a.cas = true ∧ r.2.2 = false then [] else (leBytes a.size r.1).zipIdx.map fun b => (p.lo + b.2, b.1)) none ∧
        q.data = atomLine old false r.2.2 r.2.1 ∧
        (∀ n, a.cas = false → a.op = 0 → a.size = n → r.1 = (old + a.opnd.toNat % 2 ^ (8 * n)) % 2 ^ (8 * n)) ∧
        (a.cas = true → (r.2.2 = true ↔ old = a.opnd.toNat % 2 ^ (8 * a.size)) ∧ (r.2.2 = false → r.1 = old))) ∧
    (p.own = false → s.cyc ≠ p.drive → s.cyc ≠ p.arr → s.cyc = p.reply →
      let slot := if p.stack then 103 else slotOf (localOf p.bank)
      (s.stage (clusterOf x.k) p.back slot = none → exec (.timedAccessPerform id) s = .next { s with
        beats := s.beats ++ [⟨clusterOf x.k, p.back, slot, s.cyc, p.hop, none, p.lag, false⟩] }) ∧
      (s.stage (clusterOf x.k) p.back slot ≠ none →
        exec (.timedAccessPerform id) s = .next (s.onTPart p.id fun q => { q with lost := true }))) ∧
    (∃ t : State, exec (.timedStackRequest id) s = .next t ∧ t = { s with txns := t.txns } ∧
      (∀ y ∈ s.txns, ∀ q ∈ y.parts, q.id = id → q.stack = true → q.st = .sent → ∃ z ∈ t.txns, { q with st := .atPort } ∈ z.parts) ∧
      ∀ y ∈ s.txns, (∀ q ∈ y.parts, q.id ≠ id) → y ∈ t.txns)

/-- R44, R55, R60, R64, R174, R233, R387, R419: the outcome of a line access reaches its station, and after the last the access is
finished: a load's value is due, a capability one cycle later (log entry 116), a bay is FULL, or VOID where the access failed, and a
refusal traps once, in one cycle, with the lowest subcode that its lines bring in that cycle. R125, R127, R129, R130, R173: timed
copies read and write their pieces. The read of piece p is issued in its nominal cycle, f + p; its bytes, converted where the command
converts, stand in the piece, to be written in the nominal cycle in which they come, or 4 cycles later where the command converts; the
write of a piece that is due is issued, each byte to its place; and when the last line of that write is performed, the bytes stand in
memory and the performed bytes of the command grow by the piece: WP rises to the end of the performed prefix, and a command that is
performed whole raises its semaphore and leaves. A refused piece abandons its command. R131, R309, R336: lines of operand FIFOs are
appended: a timed fill's in the nominal cycle in which its write would be performed, and the lane tap's when it is due; a full FIFO is
a schedule miss, with which a fill is abandoned with CAUSE 4. R48, R151: a slack read lands in a cycle of its channel that nothing
else has taken, and outside the window it traps. -/
def Obligations.timed_deliveries : Prop :=
  (∀ (s : State) (id : Nat) (x : Txn) (p : TPart), s.findPart id = some (x, p) → x.parts = [p] → p.id = id → let h := s.stn x.k
    let good := p.st = .done ∧ p.lost = false ∧ p.poison = false
    let gone := fun (t : State) => t.txns = s.txns.filter (fun y => y.parts.all fun q => q.id != id) ∧ t.mem = s.mem ∧ t.pkg = s.pkg ∧
      ∀ j, j ≠ x.k → t.stn j = s.stn j
    let v := leNat (((bytesOf p.data).drop p.lo).take p.len)
    let own := fun n => (⟨0x07, n, 0, true, 2 ^ (x.eng - 1), ⟨x.eng, x.stamp, x.pc, x.rpti⟩⟩ : Trap)
    let told := fun n => ∀ (t : State), exec (.timedReplyDeliver id) s = .next t → x.reported = none ∨ x.reported = some s.cyc → h.trap.halted = false →
      (h.trap.taking = none → (t.stn x.k).trap.taking = some (own n, s.nom x.k)) ∧
      (∀ m, h.trap.taking = some (own m, s.nom x.k) → ∃ u, (t.stn x.k).trap.taking = some (u, s.nom x.k) ∧ u.cause = 0x07 ∧ u.sub = min m n)
    (∀ d n signed, good → x.use = .load d n signed → p.len = n → n ≤ 8 → ∃ t : State, exec (.timedReplyDeliver id) s = .next t ∧ gone t ∧
      (t.stn x.k).pend.Perm (⟨s.workNom x.k, x.nom, x.eng, .sreg d
        (if signed ∧ 0 < n ∧ 2 ^ (8 * n - 1) ≤ v then BitVec.ofInt 64 (v - 2 ^ (8 * n)) else BitVec.ofNat 64 v)⟩ :: h.pend) ∧
      (t.stn x.k).regs = h.regs) ∧
    (∀ d, good → x.use = .loadCap d → ∃ t : State, exec (.timedReplyDeliver id) s = .next t ∧ gone t ∧ (t.stn x.k).regs = h.regs ∧
      (t.stn x.k).pend.Perm (⟨s.workNom x.k + 1, x.nom, x.eng, .creg d ⟨BitVec.ofNat 128 v, p.tag⟩⟩ :: h.pend)) ∧
    (∀ b : Nat, b < 16 → x.use = .bay b → ∃ t : State, exec (.timedReplyDeliver id) s = .next t ∧
      (good → gone t ∧ (t.stn x.k).bay b = ⟨p.data, .full, false⟩) ∧
      ((∃ n, p.st = .refused n) → (t.stn x.k).bay b = ⟨0, .void, false⟩) ∧
      (p.lost = true → (t.stn x.k).bay b = ⟨0, .void, false⟩) ∧
      (p.lost = true → told 2) ∧ (∀ n, p.st = .refused n → p.lost = false → told n) ∧
      (good → (t.stn x.k).trap = h.trap) ∧
      (∀ c, p.lost = true ∨ (∃ n, p.st = .refused n) → x.reported = some c → c ≠ s.cyc → (t.stn x.k).trap = h.trap) ∧
      (∀ c : Nat, c < 16 → c ≠ b → (t.stn x.k).bay c = h.bay c) ∧ t.mem = s.mem)) ∧
  ((∀ (s : State) (k : Stn) (i : Nat), let h := s.stn k; let c := s.chan k i
    let clear := fun (l : List (Nat × Nat)) => h.run.lag = 0 ∨ ∀ r ∈ l, 2 ^ 34 ≤ r.1
    let sent := fun (t : State) (y : Txn) (m : CopyCmd) (use : TUse) (segs : List (Nat × Nat)) => t.txns = s.txns ++ [y] ∧ y.k = k ∧ y.use = use ∧
      y.level = m.level ∧ y.parts.map (fun q => (q.stack, q.line + q.lo, q.len)) = segs.map fun r =>
        (decide (r.1 < 2 ^ 34), if r.1 < 2 ^ 34 then r.1 else (r.1 - 2 ^ 34) % 2 ^ 20, r.2)
    let puts := fun (y : Txn) => y.parts.flatMap fun q => match q.op with
      | .write l none => l.map fun b => (q.line + b.1, b.2)
      | _ => []
    let same := fun (t : State) => t.mem = s.mem ∧ t.pkg = s.pkg ∧ (t.stn k).regs = h.regs ∧ (t.chan k i).wp = c.wp
    let due := fun (p : Piece) => !p.written && decide (p.wdue ≤ s.pieceNow k) && p.data.isSome &&
      (c.cmds.find? fun m => m.id == p.cmd && m.dkind == 0).isSome
    let next := c.cmds.find? fun m => m.timed && decide (m.nextPiece < m.nPieces)
    (∀ m p, s.channelStill k i = false → (∀ p ∈ c.pieces, p.raw = none) → c.pieces.filter due = [] → h.noPieces = false → next = some m →
      c.pieces.find? (fun p => p.cmd == m.id && p.idx == m.nextPiece) = some p → clear p.src →
      (s.nom k < m.firstNom + m.nextPiece → exec (.copyTimedPiece k i) s = .next s) ∧
      (m.firstNom + m.nextPiece ≤ s.nom k → ∃ t : State, exec (.copyTimedPiece k i) s = .next t ∧ same t ∧
        (∃ y, sent t y m (.copyRead i m.id p.idx) p.src ∧ ∀ q ∈ y.parts, q.op = .read) ∧
        (t.chan k i).cmds = c.cmds.map fun y => if y.id = m.id then { y with nextPiece := y.nextPiece + 1 } else y)) ∧
    (∀ w m bs, s.channelStill k i = false → (∀ p ∈ c.pieces, p.raw = none) → c.pieces.filter due = [w] → w.data = some bs →
      c.cmds.find? (fun m => m.id == w.cmd && m.dkind == 0) = some m → clear w.dst → bs.length = (w.dst.map (·.2)).sum →
      (h.noPieces = true ∨ ∀ y, next = some y → s.nom k < y.firstNom + y.nextPiece) →
      ∃ t : State, exec (.copyTimedPiece k i) s = .next t ∧ same t ∧ (t.chan k i).cmds = c.cmds ∧
        (∃ y, sent t y m (.copyWrite i m.id w.idx) w.dst ∧ puts y = (w.dst.flatMap fun r =>
          (List.range r.2).map fun j => (if r.1 < 2 ^ 34 then r.1 else (r.1 - 2 ^ 34) % 2 ^ 20) + j).zip bs) ∧
        (t.chan k i).pieces = c.pieces.map fun q => if q.cmd = w.cmd ∧ q.idx = w.idx then { q with written := true } else q) ∧
    (∀ w m u bs, c.pieces = [w] → w.raw = some bs → c.cmds = [m] → m.id = w.cmd → m.ssu = some u → m.convert = true →
      s.channelStill k i = true ∨ h.noPieces = true ∧ h.stands = false → let n := bs.length / (fmtUnit m.srcFmt w.geom.1).2
      let o := encodeRun m.dstFmt w.geom.2 0 (n * (fmtUnit m.srcFmt w.geom.1).1 / (fmtUnit m.dstFmt w.geom.2).1)
        (decodeRun m.srcFmt w.geom.1 n bs) (some (h.scaleUnit u))
      ∃ t : State, exec (.copyTimedPiece k i) s = .next t ∧ same t ∧ t.txns = s.txns ∧ (∀ v, o.unit = some v → (t.stn k).scaleUnit u = v) ∧
        (t.chan k i).pieces = [{ w with raw := none, data := some o.bytes, flags := o.flags, wdue := s.workNom k + 4 }])) ∧
  (∀ (s : State) (id : Nat) (x : Txn) (p : TPart) (ch c idx : Nat) (m : CopyCmd) (q : Piece), s.findPart id = some (x, p) →
    let y := s.chan x.k ch; let bs := ((bytesOf p.data).drop p.lo).take p.len; let n := bs.length / (fmtUnit m.srcFmt q.geom.1).2
    x.parts = [p] → p.id = id → x.use = .copyRead ch c idx → y.cmds.find? (·.id == c) = some m →
    y.pieces.find? (fun p => p.cmd == c && p.idx == idx) = some q →
    let becomes := fun (z : Piece) => ∃ t : State, exec (.timedReplyDeliver id) s = .next t ∧ t.mem = s.mem ∧ (t.chan x.k ch).cmds = y.cmds ∧
      (t.chan x.k ch).wp = y.wp ∧ (t.chan x.k ch).pieces = y.pieces.map fun r => if r.cmd = c ∧ r.idx = idx then z else r
    let good := p.st = .done ∧ p.lost = false ∧ p.poison = false
    (good → m.ssu = none → m.convert = false → becomes { q with raw := none, data := some bs, flags := 0, wdue := s.workNom x.k }) ∧
    (good → m.ssu = none → m.convert = true →
      let o := encodeRun m.dstFmt q.geom.2 0 (n * (fmtUnit m.srcFmt q.geom.1).1 / (fmtUnit m.dstFmt q.geom.2).1) (decodeRun m.srcFmt q.geom.1 n bs) none
      becomes { q with raw := none, data := some o.bytes, flags := o.flags, wdue := s.workNom x.k + 4 }) ∧
    (p.lost = true ∨ (∃ n, p.st = .refused n) → ∃ t : State, exec (.timedReplyDeliver id) s = .next t ∧
      (∀ z ∈ (t.chan x.k ch).cmds, z.id ≠ c) ∧ (∀ z ∈ (t.chan x.k ch).pieces, z.cmd ≠ c) ∧ bitsOf (t.chan x.k ch).cstat 63 60 = 1)) ∧
  (∀ (s : State) (id : Nat) (x : Txn) (p : TPart) (ch c idx : Nat) (bs : List (Nat × Byte)) (m : CopyCmd) (q : Piece),
    s.findPart id = some (x, p) → x.use = .copyWrite ch c idx → let key := s.lineKey x.level p; let y := s.chan x.k ch
    p.own = true ∨ s.cyc ≠ p.drive ∨ p.st ≠ .sent → s.cyc = p.arr → p.st = .sent ∨ p.st = .atPort →
    p.stack = true ∨ p.own = true ∨ p.lag = (s.stn p.bank).run.lag % 2 ^ 24 → s.hazard key p = 0 → p.op = .write bs none → p.poison = false →
    (bs.map (·.1)).Nodup → s.mem.wf = true → y.cmds = [m] → m.id = c → y.pieces.find? (fun p => p.cmd == c && p.idx == idx) = some q →
    m.done = (if q.pos = 0 then [] else [(0, q.pos)]) → q.pos + q.len ≤ m.len → y.wp.toNat ≤ m.start + q.pos → m.start + m.len < 2 ^ 64 →
    bitOf (s.part (s.partOf x.k)).smpcfg 59 = false → 0 < q.len →
    ∃ t : State, exec (.timedAccessPerform id) s = .next t ∧ let z := t.chan x.k ch
      (∀ o b, (o, b) ∈ bs → t.byteAt (key + o) = b) ∧ (∀ a, (∀ o b, (o, b) ∈ bs → a ≠ key + o) → t.byteAt a = s.byteAt a) ∧
      (1 < q.left → z.wp = y.wp ∧ z.cmds = y.cmds ∧ z.pieces = y.pieces.map fun r =>
        if r.cmd = c ∧ r.idx = idx then { r with left := r.left - 1 } else r) ∧
      (q.left ≤ 1 → z.wp.toNat = m.start + q.pos + q.len ∧ (t.stn x.k).sys.fflags = (s.stn x.k).sys.fflags ||| q.flags.zeroExtend 64 ∧
        (q.pos + q.len < m.len → z.cmds = [{ m with done := [(0, q.pos + q.len)] }]) ∧
        (q.pos + q.len = m.len → z.cmds = [] ∧ ∀ n, n < 64 → m.rsem = some n → (t.stn x.k).regs.hsNew.getLsbD n = true)))) ∧
  ((∀ (s : State) (k : Stn) (p : Pend) (b : Bool) (d : Line) (tag : MapTag) (a : TrapAt), let h := s.stn k
    h.pend = [p] → p.due ≤ s.workNom k → p.eff = .tapFifo b d tag a → b = false ∨ tag.mape = 0 →
      ((h.fifo b).lines.length < (if b then 256 else 128) → ∃ t : State, exec (.fifoLineAppend k 2) s = .next t ∧ (t.stn k).pend = [] ∧
        ((t.stn k).fifo b).lines = (h.fifo b).lines ++ [⟨d, if b then tag else ⟨0, 0, 0⟩, false⟩] ∧ ((t.stn k).fifo b).pos = (h.fifo b).pos + 1 ∧
        (t.stn k).fifo (!b) = h.fifo (!b) ∧ (t.stn k).regs = h.regs ∧ t.mem = s.mem ∧ ∀ j, j ≠ k → t.stn j = s.stn j) ∧
      ((if b then 256 else 128) ≤ (h.fifo b).lines.length → h.trap.taking = none → h.trap.halted = false →
        ∃ (t : State) (u : Trap × Nat), exec (.fifoLineAppend k 2) s = .next t ∧ (t.stn k).trap.taking = some u ∧ u.1.cause = 0x05 ∧ u.1.sub = 2 ∧
          (t.stn k).mat = h.mat ∧ t.mem = s.mem)) ∧
  (∀ (s : State) (k : Stn) (i : Nat) (m : CopyCmd) (p : Piece) (bs : List Byte) (b : Bool), let h := s.stn k; let c := s.chan k i
    i < 2 → c.cmds = [m] → m.timed = true → m.dkind = (if b then 2 else 1) → m.done = (if p.pos = 0 then [] else [(0, p.pos)]) → p.pos + 256 ≤ m.len →
    c.pieces.filter (fun q => q.cmd == m.id && decide (p.pos ≤ q.pos) && decide (q.pos < p.pos + 256)) = [p] → p.data = some bs → bs.length = 256 →
    b = false ∨ m.tag.mape = 0 → m.start + m.len < 2 ^ 64 → c.wp.toNat ≤ m.start + p.pos →
      (s.pieceNow k < p.wdue + 1 → exec (.fifoLineAppend k i) s = .next s) ∧
      (p.wdue + 1 ≤ s.pieceNow k → (h.fifo b).lines.length < (if b then 256 else 128) →
        ∃ t : State, exec (.fifoLineAppend k i) s = .next t ∧ (t.chan k i).wp.toNat = m.start + p.pos + 256 ∧
          (t.chan k i).cmds = (if p.pos + 256 < m.len then [{ m with done := [(0, p.pos + 256)] }] else []) ∧ ((t.stn k).fifo b).pos = (h.fifo b).pos + 1 ∧
          ((t.stn k).fifo b).lines = (h.fifo b).lines ++ [⟨lineOfBytes bs, if b then m.tag else ⟨0, 0, 0⟩, false⟩] ∧
          (t.stn k).fifo (!b) = h.fifo (!b) ∧
          (p.pos + 256 < m.len → (t.stn k).regs = h.regs ∧ t.mem = s.mem ∧ ∀ j, j ≠ k → t.stn j = s.stn j)) ∧
      (p.wdue + 1 ≤ s.pieceNow k → (if b then 256 else 128) ≤ (h.fifo b).lines.length → h.trap.taking = none → h.trap.halted = false →
        ∃ (t : State) (u : Trap × Nat), exec (.fifoLineAppend k i) s = .next t ∧ (t.stn k).trap.taking = some u ∧ u.1.cause = 0x05 ∧ u.1.sub = 2 ∧
          (t.stn k).mat = h.mat ∧ (t.chan k i).cmds = [] ∧ bitsOf (t.chan k i).cstat 63 60 = 4))) ∧
  (∀ (s : State) (k : Stn) (l : Nat) (g : Int) (j q : Nat) (a : TrapAt), let h := s.stn k; let d := s.quarter l g j q
    h.tap.slack = some ⟨l, g, j, q, a, none⟩ →
      (s.inWindow g = true → let ph := Phys.stack ((s.rline l).slotAddr g j + 256 * q)
        (s.placeTaken ph = true → exec (.slackRead k) s = .next s) ∧
        (s.placeTaken ph = false → s.mem.soft = [] → exec (.slackRead k) s = .next { s.serve ph with
          stns := s.stns.set k.val { h with tap := { h.tap with slack := some ⟨l, g, j, q, a, some d⟩ } } })) ∧
      (s.inWindow g = false → h.trap.taking = none → h.trap.halted = false → ∃ (t : State) (u : Trap × Nat), exec (.slackRead k) s = .next t ∧
        (t.stn k).trap.taking = some u ∧ u.1.cause = 0x06 ∧ u.1.sub = 3 ∧ u.1.at_ = a ∧ (t.stn k).tap.slack = none ∧ t.mem = s.mem))

/-! ### Untimed operations, the host's and peers' completions, block transfers -/

/-- R35, R39, R44, R48, R56, R100, R102, R115, R139, R208, R249, R370, R371: a part of an untimed operation is performed once it may be: bytes are read, or
written, or an atomic replaces its operand; where its translation sets bits of a leaf entry, that swap is the one access of the cycle, and the
part follows in a later one; a page that a landing bay may not read gives a void reply; a parked part is tried again, behind those that
arrived before it. A
completion of the host, or a reply, ends its part and fills its bay. A line access of a unit waits while its place serves another or an
earlier one of that line is left; then it is the place's one access of the cycle, and stores, reads or moves its bytes. -/
def Obligations.untimed_parts : Prop :=
  (∀ (s : State) (id : Nat), let t := s.runJob id; let x := s.pkg.jobs.find? (·.id == id)
    (x = none → t = s) ∧
    (∀ j, x = some j → let key := s.physKey .resident j.ph; let left := s.pkg.jobs.filter (·.id != id); let bytes := s.mem.readN key j.n
      let bad := s.mem.badWords key j.n
      (s.placeTaken j.ph = true → t = s) ∧
      ((∃ e ∈ s.pkg.jobs, e.id < j.id ∧ ∃ a b, e.ph = .stack a ∧ j.ph = .stack b ∧ a / 256 = b / 256) → t = s) ∧
      (s.jobReady j = true → (∀ n, servedKey j.ph = some n → n ∈ t.served) ∧ (∀ k, (t.stn k).regs = (s.stn k).regs) ∧
        (∀ bs w, j.use = .store bs w → t.stns = s.stns ∧ t.pkg.jobs = left ∧ (s.mem.wf = true → (∀ i, i < bs.length → t.byteAt (key + i) = bs.getD i 0) ∧
          ∀ a, a < key ∨ key + bs.length ≤ a → t.byteAt a = s.byteAt a)) ∧
        (∀ o, j.use = .gather o → (∀ a, t.byteAt a = s.byteAt a) ∧ t.pkg.jobs = left ∧ t.pkg.lines = s.pkg.lines ++ [⟨j.owner, o, bytes, bad⟩]) ∧
        (∀ p, j.use = .copyTo p → (∀ a, t.byteAt a = s.byteAt a) ∧ t.pkg.jobs.find? (·.id == id) = some { j with ph := p, use := .store bytes bad }) ∧
        (∀ keep k o, j.use = .forget keep → j.ph = .bank k o → t.stns = s.stns ∧ t.pkg.jobs = left ∧ (s.mem.wf = true → ∀ a,
          (a < bankKey k 0 ∨ bankKey k 0 + 0xF_8000 ≤ a ∨ ∃ g ∈ keep, bankKey k g.1 ≤ a ∧ a < bankKey k g.1 + g.2) → t.byteAt a = s.byteAt a))))) ∧
  (∀ (s : State) (id : Nat) (u : UOp) (p : UPiece) (w : Bool), s.uops.find? (·.id == id) = some u → u.pieces = [p] → s.serving id = none →
    let run := exec (.untimedPartPerform id (if w then 1 else 0)) s
    let place := s.partAt u p w; let o := place.2.1; let n := place.2.2
    let found := s.translate u place.1 w o n
    let has := fun (t : State) (q : UPiece) => ∃ v, t.uops.find? (·.id == id) = some v ∧ v.owner = u.owner ∧ v.pieces = [q]
    (p.waitsUnit = false → s.partReady u 0 w = false → run = .next s) ∧
    (∀ m n e q, p.waitsUnit = false → p.rep = some n → e ∈ s.uops → e.part = u.part → q ∈ e.pieces → q.rep = some m → m < n → q.stop = none →
      q.st ≠ .done → q.st ≠ .failed → run = .next s) ∧
    (∀ v, p.waitsUnit = false → s.partReady u 0 w = true → (∀ b n, u.owner ≠ .gstat b n) → u.seg = none → found = .error v →
      ∃ t : State, run = .next t ∧ t.mem = v.mem ∧ t.stns = s.stns ∧ has t p) ∧
    (p.waitsUnit = true → s.cfmtOf u = 0 → u.convert = true → let e := fmtUnit u.srcFmt p.geom.1; let n := p.data.length / e.2
      let o := (s.encodeBy u u.dstFmt p.geom.2 (n * e.1 / (fmtUnit u.dstFmt p.geom.2).1) (decodeRun u.srcFmt p.geom.1 n p.data)).1
      ∃ t : State, run = .next t ∧ t.mem = s.mem ∧ has t { p with st := .held, sent := 0, data := o.bytes, flags := o.flags }) ∧
    (p.waitsUnit = false → s.partReady u 0 w = true → u.dead = false → s.mem.soft = [] →
      (∀ z a e l b m, w = false → u.owner = .rld b m → u.convert = false → found = .ok (.at_ (.stack a) e l, z) →
        p.srcLen = p.sent + n → let key := a % 2 ^ 34
          (leafRes e ≠ 1 → ∃ t : State, run = .next t ∧ t.mem = z.mem ∧ t.stns = s.stns ∧ has t { p with
            st := .held, sent := 0, data := p.data ++ z.mem.readN key n, poison := p.poison || z.mem.poisonIn key n, flags := 0 }) ∧
          (leafRes e = 1 → ∃ t : State, run = .next t ∧ t.mem = z.mem ∧ t.stns = s.stns ∧ has t { p with st := .failed, code := 1 })) ∧
      (∀ z c b m, w = false → u.owner = .rld b m → found = .ok (.fault c, z) ∨ found = .ok (.transit, z) ∧ c = 1 → ∃ t : State, run = .next t ∧
        t.mem = z.mem ∧ t.stns = s.stns ∧ has t { p with st := .failed, code := c }) ∧
      (∀ z a e l, w = true → ((∃ c f, u.owner = .fabric c ∧ s.fcmd c = some f ∧ f.op = 0) ∨ ∃ ch r, u.owner = .bt ch r) → u.add = 0 →
        p.far = false → found = .ok (.at_ (.stack a) e l, z) → p.poison = false → p.dstLen = p.sent + n →
          ∃ t : State, run = .next t ∧ t.mem = z.mem.writeN (a % 2 ^ 34) ((p.data.drop p.sent).take n) ∧ t.stns = s.stns ∧
            has t { p with st := .done, sent := p.sent + n }) ∧
      (∀ a b k off pl ord, w = true → u.owner = .atom a (some b) → u.pinned = some (.bank k off, pl, ord) → pl % 4 ≠ 2 → off < 0xF_8000 →
        s.mem.poison = [] → (∀ ph e l, s.look u.part ((u.target true).1) o a.size = .at_ ph e l → leafPlace e ≠ 2) →
          let key := bankKey k (s.remap (stnOf k) u.level off); let old := s.mem.readLe key a.size; let r := a.apply old
          ∃ t : State, run = .next t ∧ t.mem = (if a.cas = true ∧ r.2.2 = false then s.mem else s.mem.writeN key (leBytes a.size r.1)) ∧ (∀ j, (t.stn j).regs = (s.stn j).regs) ∧
            has t { p with st := .done, data := bytesOf (atomLine old false r.2.2 r.2.1), poison := false }))) ∧
  (∀ (s : State) (h i n : Nat) (u : UOp) (p : UPiece), (∀ ch, (s.btc ch).state ≠ 3) →
    (s.stops h = [] → exec (.pkretry h) s = .next s) ∧
    (s.stops h = [(n, i, 0)] → s.uops = [{ u with id := i, pieces := [p] }] →
      exec (.pkretry h) s = .next { s with uops := [{ u with id := i, pieces := [{ p with stop := none, rep := some n }] }] })) ∧
  (∀ (s : State) (c : HostCompletion) (r : HostReq) (u : UOp) (p : UPiece) (b m : Nat), s.pkg.hostl.waiting.find? (·.id == c.id) = some r →
    s.uops.find? (·.id == r.op) = some u → u.pieces = [p] → r.piece = 0 → s.serving r.op = none →
    let rest := s.pkg.hostl.waiting.filter (·.id != c.id)
    let has := fun (t : State) (q : UPiece) => ∃ v, t.uops.find? (·.id == r.op) = some v ∧ v.owner = u.owner ∧ v.pieces = [q]
    (r.atom = none → r.write = false → u.owner = .copy b m → u.dead = false → u.ssu = none → u.convert = false → p.st = .reading → p.srcLen = p.sent + c.data.length →
      ∃ t : State, exec (.hostCompletion c) s = .next t ∧ t.pkg.hostl = { s.pkg.hostl with waiting := rest } ∧ t.mem = s.mem ∧ t.stns = s.stns ∧
        has t { p with st := .held, sent := 0, data := p.data ++ c.data, poison := p.poison || c.poison, flags := 0, far := false }) ∧
    (∀ a, r.atom = some a → r.log = none → u.owner = .atom a (some b) → u.dead = false → p.st = .writing →
      ∃ t : State, exec (.hostCompletion c) s = .next t ∧ t.pkg.hostl = { s.pkg.hostl with waiting := rest } ∧ t.mem = s.mem ∧ t.stns = s.stns ∧
        (c.aborted = true → has t { p with st := .failed, code := 3 }) ∧
        (c.aborted = false → let old := leNat (c.data.take 8)
          has t { p with st := .done, data := bytesOf (atomLine old false (a.cas && old == a.opnd.toNat % 2 ^ (8 * a.size)) 0) }))) ∧
  (∀ (s : State) (k : Stn) (b : Nat) (r : BayReply), let h := s.stn k; let g : Bay := if r.void then ⟨0, .void, false⟩ else ⟨r.data, .full, r.poison⟩
    ((h.bay b).st ≠ .pending → exec (.bayReplyLand k b r) s = .next s) ∧
    ((h.bay b).st = .pending → r.void = true ∨ r.poison = false → ∃ t : State, exec (.bayReplyLand k b r) s = .next t ∧ (t.stn k).bay b = g ∧
      (∀ j, j ≠ k → t.stn j = s.stn j) ∧ (∀ c : Nat, c < 16 → c ≠ b % 16 → (t.stn k).bay c = h.bay c) ∧ t.mem = s.mem ∧
      (∀ u, s.awaiting k b none = some u → (∀ c, u.owner ≠ .fabric c) → ∀ v ∈ t.uops, v.id ≠ u.id) ∧
      (∀ u m, s.awaiting k b none = some u → u.owner = .rld b m → r.void = true → bitsOf h.sys.voidst 31 0 < 0xFFFF_FFFF →
        bitOf (t.stn k).sys.voidst 63 = true ∧ bitsOf (t.stn k).sys.voidst 31 0 = bitsOf h.sys.voidst 31 0 + 1))) ∧
  (∀ (s : State) (ctx : Nat) (k : Stn) (b : Nat) (r : BayReply),
    (s.redirect ctx k b = none → exec (.redirectedReply ctx k b r) s = .next s) ∧
    (∀ e, s.redirect ctx k b = some e → e.live = none → s.imageFree e.image b = false → exec (.redirectedReply ctx k b r) s = .next s) ∧
    (∀ e, s.redirect ctx k b = some e → s.mayLand ctx k b = true → s.awaiting k b (some ctx) = none → r.void = true ∨ r.poison = false →
      ∃ t : State, exec (.redirectedReply ctx k b r) s = .next t ∧ t.pkg.redirects = s.pkg.redirects.erase e ∧
        (e.live = none → b < 16 → s.mem.wf = true → let a := e.image * 2 ^ 21 + 0x1000 + 256 * b
          t.stns = s.stns ∧ (∀ i, i < 256 → t.byteAt (a + i) = if r.void then 0 else byteOf r.data i) ∧
          (∀ x, x < e.image * 2 ^ 21 + 24 ∨ (e.image * 2 ^ 21 + 32 ≤ x ∧ x < a) ∨ a + 256 ≤ x → t.byteAt x = s.byteAt x)) ∧
        (∀ j, e.live = some j → ((s.stn j).bay b).st = .pending → t.mem = s.mem ∧
          (t.stn j).bay b = if r.void then ⟨0, .void, false⟩ else ⟨r.data, .full, r.poison⟩)))

/-- R35, R132 to R135: a write of BTHEAD starts an idle channel and is latched by one that runs; the next record of a chain is checked, started
or left to software, and where its translation sets bits of a leaf entry that swap comes first; a channel is IDLE at the end of its chain
once every record has been handed back (the model's choice, log entry 148); the oldest record whose writes have all been performed is handed back with its status. -/
def Obligations.block_transfers : Prop :=
  ∀ (s : State) (ch : Nat), let b := s.btc ch
    let alone := fun (t : State) => t.stns = s.stns ∧ ∀ c, c % 64 ≠ ch % 64 → t.btc c = s.btc c
    (∀ bits tag, let at_ : Cap := ⟨bits, tag⟩; ∃ t : State, exec (.btheadWrite ch bits tag) s = .next t ∧ alone t ∧ t.mem = s.mem ∧ (t.btc ch).head = at_ ∧
      ((b.state = 1 ∨ b.state = 3) → bitOf (t.btc ch).ctl 51 = true ∧ (t.btc ch).cur = b.cur ∧ (t.btc ch).state = b.state) ∧
      (b.state ≠ 1 → b.state ≠ 3 → (t.btc ch).cur = at_ ∧ (t.btc ch).state = 1 ∧ bitsOf (t.btc ch).ctl 55 52 = 0 ∧ bitOf (t.btc ch).ctl 51 = false)) ∧
    (b.follows = false → exec (.btChainRecord ch) s = .next s) ∧
    (b.follows = true → let c := b.cur
      (∀ x, capCheck c s.nodeId 0 64 (Right.read ||| Right.write) true true = .error x → b.recs = [] → ∃ t : State, exec (.btChainRecord ch) s = .next t ∧
        alone t ∧ t.mem = s.mem ∧ (t.btc ch).state = 4 ∧ bitsOf (t.btc ch).ctl 55 52 = x) ∧
      (∀ x i a, capCheck c s.nodeId 0 64 (Right.read ||| Right.write) true true = .ok x → x % 64 = 0 → c.node = s.nodeId → i < 4 →
        (∀ j, j < 4 → ∃ g, s.granule b.part c.obj (c.cursor + 16 * j) = .ok (some g)) →
        let v := fun (j : Nat) => (s.walk 0 b.part c.obj (c.cursor + 16 * j) 16 false).2
        (∀ j, j < i → (v j).1 = none) → (v i).1 = some a → exec (.btChainRecord ch) s = .next (s.afterSwap (v i).2 a)) ∧
      (∀ x k0 k1 k2 k3, capCheck c s.nodeId 0 64 (Right.read ||| Right.write) true true = .ok x → x % 64 = 0 → c.node = s.nodeId →
        ((List.range 4).map fun i => s.granule b.part c.obj (c.cursor + 16 * i)) = [.ok (some k0), .ok (some k1), .ok (some k2), .ok (some k3)] →
        (∀ a ∈ [k0, k1, k2, k3], s.placeTaken (placeOfKey a) = false) → s.mem.soft = [] →
        (∀ i, i < 4 → (s.walk 0 b.part c.obj (c.cursor + 16 * i) 16 false).2.1 = none) →
        let h := s.mem.readLe k0 16; let len := nbits h 95 64
        let src : Cap := ⟨BitVec.ofNat 128 (s.mem.readLe k1 16), s.mem.tagAt k1⟩; let dst : Cap := ⟨BitVec.ofNat 128 (s.mem.readLe k2 16), s.mem.tagAt k2⟩
        let link : Cap := ⟨BitVec.ofNat 128 (s.mem.readLe k3 16), s.mem.tagAt k3⟩
        (nbits h 127 127 = 0 → bitOf b.ctl 51 = false → ∃ t : State, exec (.btChainRecord ch) s = .next t ∧ alone t ∧ t.mem = s.mem ∧
          (t.btc ch).state = 2 ∧ (t.btc ch).recs = b.recs ∧ t.uops = s.uops) ∧
        (nbits h 127 127 = 1 → nbits h 123 120 = 0 → nbits h 99 96 = 0 → nbits h 63 0 = 0 → nbits h 119 119 = 0 → len ≠ 0 →
          capCheck src s.nodeId 0 len Right.copySrc true false = .ok src.cursor → capCheck dst s.nodeId 0 len Right.copyDst true false = .ok dst.cursor →
          ∃ (t : State) (r : BtRec) (u : UOp), exec (.btChainRecord ch) s = .next t ∧ alone t ∧ t.mem = s.mem ∧ (t.btc ch).recs = b.recs ++ [r] ∧ r.cap = c ∧ r.head = h ∧
            r.len = len ∧ r.finished = none ∧ t.uops = s.uops ++ [u] ∧ u.owner = .bt ch r.id ∧ u.src = some ⟨src.node, src.obj, 0⟩ ∧
            u.dst = some ⟨dst.node, dst.obj, 0⟩ ∧ u.add = 0 ∧ (link.tag = true → (t.btc ch).cur = link) ∧
            (link.tag = false → (t.btc ch).ends = true)))) ∧
    (b.recs = [] → exec (.btHandBack ch) s = .next s) ∧
    (∀ r rest, b.recs = r :: rest →
      (s.recordStatus ch r = none → exec (.btHandBack ch) s = .next s) ∧
      (∀ x, s.recordStatus ch r = some x → (∀ y ∈ rest, y.id ≠ r.id) → ∃ t : State, exec (.btHandBack ch) s = .next t ∧ alone t ∧ t.mem = s.mem ∧
        (r.backing = false → (t.btc ch).recs = { r with finished := some x, backing := true } :: rest ∧ (t.btc ch).ctl = b.ctl ∧ ∃ (u : UOp) (q : UPiece),
          t.uops = (s.uops.filter fun u => u.owner != .bt ch r.id) ++ [u] ∧ u.owner = .bt ch r.id ∧ u.src = none ∧
          u.dst = some ⟨r.cap.node, r.cap.obj, 0⟩ ∧ u.pieces = [q] ∧ q.st = .held ∧ q.sent = 0 ∧ q.dst = r.cap.cursor ∧ q.dstLen = 16 ∧
          q.data.length = 16 ∧ (x < 8 → r.head < 2 ^ 128 → let h := leNat q.data
            nbits h 127 127 = 0 ∧ nbits h 126 124 = x ∧ nbits h 106 100 = r.flags.toNat ∧ nbits h 99 0 = nbits r.head 99 0 ∧
              nbits h 123 107 = nbits r.head 123 107)) ∧
        (r.backing = true → (t.btc ch).recs = rest ∧ t.uops = (s.uops.filter fun u => u.owner != .bt ch r.id) ∧
          bitsOf (t.btc ch).ctl 31 0 = (bitsOf b.ctl 31 0 + 1) % 2 ^ 32 ∧ (rest ≠ [] → (t.btc ch).state = b.state) ∧
          (rest = [] → ∀ c, b.haltWith = some c → c < 16 → (t.btc ch).state = 4 ∧ bitsOf (t.btc ch).ctl 55 52 = c) ∧
          (rest = [] → b.haltWith = none → b.ends = true → bitOf b.ctl 51 = false → (t.btc ch).state = 0))))
/-! ### The weight ring and the coachmen -/

/-- R142, R143, R147 to R150, R162, R164: in each cycle each line's head reads a beat, which goes out and whose tag is recorded; an arriving
beat is written at the tail after its latency, behind a lost input a void one; at a segment's end its CRC gives a verdict, which makes
a bad segment absent or stops the teams that boarded on it. The model's choices in it: a beat is recorded as sent with its head read, where R147 drives it
four cycles later (log entry 76), the rotation is counted in every header (log entry 145), the frames of the first fill (log entry 128), and the void beats
and the rest of a tail that a change of the ring has moved (log entry 143). -/
def Obligations.ring_beats : Prop :=
  ∀ (s : State) (line : Nat), let g := s.pkg.ring; let r := s.rline line
    (g.up = false → exec (.transportHeadRead line) s = .next s ∧ exec (.tailWrite line) s = .next s) ∧
    (g.up = true → s.mem.soft = [] →
      let f := s.headAt.1; let j := s.headAt.2; let a := r.slotAddr f j; let h := s.header line f
      ∃ t : State, exec (.transportHeadRead line) s = .next t ∧ t.stns = s.stns ∧
        (let b : Out := .beat line (BitVec.ofNat 8192 (t.mem.readLe a 1024)) false
         let skip : List Out := if s.skipDriven line then [.beat line (BitVec.ofNat 8192 (t.mem.readLe a 1024)) true] else []
         t.out = s.out ++ [b] ++ skip) ∧
        (j ≠ 0 ∨ r.source = false → t.mem = s.mem) ∧
        (j = 0 → r.source = true → s.mem.wf = true → t.mem.readLe (a + 4) 2 = (nbits h 47 32 + 1) % 2 ^ 16 ∧ ∀ x, x < a + 4 ∨ a + 6 ≤ x → t.byteAt x = s.byteAt x) ∧
        (j ≠ 0 → t.pkg = s.pkg) ∧ (j = 0 → (t.rline line).tags = (r.tags ++ [(f, s.segTag line f)]).drop (r.tags.length - 15))) ∧
    (∀ beat good, ((g.up = false ∨ r.inSel = 2) → exec (.ringBeatArrival line beat good) s = .next s) ∧
      (g.up = true → r.inSel ≠ 2 → ∃ t : State, exec (.ringBeatArrival line beat good) s = .next t ∧ t.mem = s.mem ∧ t.stns = s.stns ∧
        t.rline line = { r with input := r.input ++ [(s.cyc + 2 + r.trim, beat, good)], badRun := if good then 0 else r.badRun } ∧
        t.rline (line + 1) = s.rline (line + 1))) ∧
    (g.up = true → s.cyc < r.rest → ∃ t : State, exec (.tailWrite line) s = .next t ∧ t.stns = s.stns ∧ t.mem = s.mem ∧ t.out = s.out ∧
      t.rline line = { r with badRun := r.badRun + 1, input := r.input.filter fun x => decide (s.cyc < x.1) } ∧ t.rline (line + 1) = s.rline (line + 1)) ∧
    (∀ (w : Beat) (ok : Bool), let f := (s.tailAt line).1; let j := (s.tailAt line).2; let dead := r.inSel = 2 ∨ g.state = .failed ∨ s.cyc < r.mute
      let e := if j = 0 then s.stagedFor line f else r.inject
      let staged := e.bind fun e => (g.buffer.find? (·.1 == e)).bind fun x => x.2.data
      let bs := match staged with
        | some d => (d.drop (1024 * j)).take 1024
        | none => leBytes 1024 w.toNat
      let good := staged.isSome || ok; let h := leNat (bs.take 64)
      let crc := if j = 0 then 0xFFFF_FFFF else r.crc; let left := if j = 0 then nbits h 116 96 else r.left; let body := if j = 0 then bs.drop 64 else bs
      g.up = true → r.rest ≤ s.cyc → (dead → w = BitVec.ofNat 8192 (if j = 0 then 15 * 2 ^ 64 else 0) ∧ ok = true) →
      (¬dead → r.fills f = true → w = s.imageBeat line f j ∧ ok = true) →
      (¬dead → r.fills f = false → ∃ c, r.input.find? (·.1 == s.cyc) = some (c, w, ok)) →
      ∃ t : State, exec (.tailWrite line) s = .next t ∧ t.stns = s.stns ∧ t.mem = s.mem.writeN (r.slotAddr f j) bs ∧
        (let x := t.rline line
         x.badRun = r.badRun + 1 ∧ x.left = left - (body.take left).length ∧ x.want = (if j = 0 then nbits h 511 480 else r.want) ∧ x.tags = r.tags ∧
         x.cfg = r.cfg ∧ x.linkBad = ((j != 0 && r.linkBad) || !good) ∧ x.crc = crcRun crc (body.take left) ∧
         (j ≠ 2047 → x.judged = r.judged ∧ x.inject = e ∧ t.pkg.ring.buffer = g.buffer) ∧
         (j = 2047 → x.judged = r.judged ++ [(f, x.linkBad || (~~~x.crc).toNat != x.want, s.cyc + 3)] ∧ x.inject = none ∧
           t.pkg.ring.buffer = g.buffer.filter fun y => e.all (· != y.1)))) ∧
    (∀ f bad c, r.judged.find? (·.1 == f) = some (f, bad, c) →
      let h := s.header line f; let tag := hdrTag h; let present := hdrPresent (s.modelAt f) line h
      ∃ t : State, exec (.segmentCrcVerdict line f) s = .next t ∧ (t.rline line).judged = r.judged.filter (·.1 != f) ∧
        (bad = false → t.mem = s.mem ∧ t.stns = s.stns ∧ t.out = s.out ∧ (t.rline line).bad = r.bad) ∧
        (bad = true → t.out = s.out ++ [.badTag line tag] ∧ t.pkg.ring.reinject = g.reinject.filter (· != tag) ++ [tag] ∧
          (t.rline line).bad = (if s.cyc + 64 ≤ s.fs f then r.bad ++ [f] else r.bad)) ∧
        (bad = true → present = false ∨ s.cyc + 64 ≤ s.fs f → t.mem = s.mem ∧ t.stns = s.stns) ∧
        (bad = true → present = true → s.fs f < s.cyc + 64 → ∀ (cl : Fin 4) (b : Boarded) (k : Stn), b ∈ (s.coachman cl.val).frames → b.frame = f →
          b.tag = tag → b.cue = false → b.rows ≠ [] → k ∈ s.teamHere cl.val b.part b.team → (s.partOf k, s.teamNo k) ∈ t.pkg.rollbacks))

/-- R160, R162, R163, R354, R356: bring-up sets the transport's registers and CYC; a lost input makes the ring lost, or failed where no skip
port bridges it; a bypass, an admission and a rejoin change the line and NM1 at their frame, and where they lengthen the line's delay the slots that its tail passes
over are void; a `ringcfg` change takes effect at its
frame; a segment read for injection is staged where it is well formed. The model's choices in it: a second lost input leaves a lost ring lost (log
entry 78), one in ADMIT fails the ring (log entry 144), the first filled frame at bring-up (log entry 128), and how a moved tail goes on (log entry 143). -/
def Obligations.ring_states : Prop :=
  (∀ (s : State) (c : RingCfg), ∃ t : State, exec (.ringBringUp c) s = .next t ∧ t.cyc = c.cyc ∧ t.mem = s.mem ∧ t.stns = s.stns ∧ t.pkg.fab = s.pkg.fab ∧
    (let g := t.pkg.ring
     g.up = true ∧ g.ringcfg = c.ringcfg &&& 0xFFFF_0F00_0000_07FF#64 ∧ g.rmodel = c.rmodel &&& 0xFFFF_FFFF#64 ∧
     g.stkcirc = c.stkcirc &&& 0x0003_FFFF_0003_FFFF#64 ∧ g.state = (if c.newcomer then .admitting else .run) ∧ g.image = c.image ∧
     ∀ l : Fin 2, let w := if l = 0 then c.rlcfg0 else c.rlcfg1; let v := if l = 0 then c.rlsrc0 else c.rlsrc1; let x := t.rline l.val
       bitsOf x.cfg 63 45 = bitsOf w 63 45 ∧ bitOf x.cfg 44 = decide (l = 1) ∧ bitsOf x.cfg 43 2 = bitsOf w 43 2 ∧
       x.inSel = (if bitsOf w 1 0 = 3 then 0 else bitsOf w 1 0) ∧ x.src = v &&& 0x8000_FFFF_FFFF_FFFF#64 ∧ (x.source = false → x.fill = none) ∧
       (x.source = true → ∃ n, x.fill = some n ∧ c.cyc + x.delay ≤ bitsOf c.ringcfg 10 0 + 2048 * n ∧
         ∀ m, c.cyc + x.delay ≤ bitsOf c.ringcfg 10 0 + 2048 * m → n ≤ m))) ∧
  (∀ (s : State) (line : Nat), let g := s.pkg.ring; let r := s.rline line
    (g.up = false ∨ r.inSel = 2 → exec (.linkLost line) s = .next s) ∧
    (g.up = true → r.inSel ≠ 2 → ∃ t : State, exec (.linkLost line) s = .next t ∧ t.stns = s.stns ∧ t.out = s.out ++ [.linkLost line] ∧
      (t.rline line).inSel = 2 ∧ (t.rline line).input = [] ∧ (t.rline line).hop = r.hop ∧ t.rline (line + 1) = s.rline (line + 1) ∧
      (g.state = .run → t.pkg.ring.state = (if bitsOf g.ringcfg 63 56 = 1 then .failed else .lost) ∧ t.pkg.ring.side = line % 2) ∧
      (g.state = .lost → t.pkg.ring.state = .lost) ∧ (g.state ≠ .run → g.state ≠ .lost → t.pkg.ring.state = .failed))) ∧
  (∀ (s : State) (qm lnk trim : Nat) (toff : Option Nat), let g := s.pkg.ring; let r := s.rline g.side; let n := bitsOf g.ringcfg 63 56
    let go := fun (kind : Nat) => exec (.ringStateTransition kind qm lnk trim toff) s
    let same := fun (t : State) => t.mem = s.mem ∧ t.stns = s.stns
    let moved := fun (t : State) => let x := t.rline g.side; let hi := s.cyc + x.delay
      let lo := max (s.cyc + 1) (s.phase + 2048 * ((s.cyc + r.delay - s.phase) / 2048)); let slot := fun c => r.slotAddr (s.frameOf c) ((c - s.phase) % 2048)
      let passed := fun c => s.cyc + r.delay < hi ∧ lo ≤ c ∧ c < hi
      t.stns = s.stns ∧ x.segs_ = r.segs_ ∧ (∀ a, (∀ c, passed c → a < slot c ∨ slot c + 1024 ≤ a) → t.byteAt a = s.byteAt a) ∧
        (s.mem.wf = true → ∀ c, passed c → t.mem.readLe (slot c) 1024 = if (c - s.phase) % 2048 = 0 then 15 * 2 ^ 64 else 0)
    (g.state ≠ .lost → (g.state = .run → ∀ m, g.transition ≠ some (0, m)) → go 0 = .next s) ∧ (g.state ≠ .bypass → go 1 = .next s) ∧ (g.state ≠ .admitting → go 2 = .next s) ∧
    (g.state = .lost ∨ (g.state = .run ∧ ∃ m, g.transition = some (0, m)) → ∃ t : State, go 0 = .next t ∧ moved t ∧ t.pkg.ring.state = .bypass ∧ t.pkg.ring.transition = none ∧
      bitsOf t.pkg.ring.ringcfg 63 56 = n - 1 ∧
      (let x := t.rline g.side
       x.hop = (qm + r.hop) % 2 ^ 13 ∧ x.lnk = lnk % 2 ^ 11 ∧ x.trim = trim % 2 ^ 5 ∧ x.inSel = 1 ∧ x.base = r.base ∧ x.mute = s.cyc + 6 + lnk + trim ∧ x.inject = none ∧
       (toff = none → x.src = r.src) ∧ ∀ o, toff = some o → x.source = true ∧ x.toff = (o + r.k - r.hop % r.k) % r.k % 2 ^ 24)) ∧
    (g.state = .bypass → ∃ t : State, go 1 = .next t ∧ same t ∧ t.pkg.ring = { g with
      state := .admitting, qm := qm, admitAt := s.frameOf s.cyc, transition := none }) ∧
    (g.state = .admitting → ∃ t : State, go 2 = .next t ∧ t.pkg.ring.state = .run ∧
      (g.newcomer = true → same t ∧ t.pkg.ring.lines = g.lines) ∧
      (g.newcomer = false → moved t ∧ bitsOf t.pkg.ring.ringcfg 63 56 = (n + 1) % 256 ∧
        (let x := t.rline g.side
         x.hop = (r.hop - g.qm) % 2 ^ 13 ∧ x.lnk = lnk % 2 ^ 11 ∧ x.trim = trim % 2 ^ 5 ∧ x.inSel = 0 ∧ x.base = r.base ∧
           x.rest = s.cyc + (r.delay - x.delay) ∧ x.crc = r.crc))) ∧
    (∃ t : State, go 3 = .next t ∧ same t ∧ t.pkg.ring = { g with state := .failed, transition := none }) ∧
    (∃ t : State, go 4 = .next t ∧ same t ∧ bitsOf t.pkg.ring.ringcfg 63 56 = n - 1 ∧ t.pkg.ring.lines = g.lines) ∧
    (∃ t : State, go 5 = .next t ∧ same t ∧ bitsOf t.pkg.ring.ringcfg 63 56 = (n + 1) % 256 ∧ t.pkg.ring.lines = g.lines) ∧
    (∃ t : State, go 6 = .next t ∧ same t ∧ t.pkg.ring = { g with up := false, transition := none })) ∧
  (∀ (s : State) (form f v : Nat), s.pkg.ring.changes = [(form, f, v)] →
    (s.cyc < s.fs f → exec .ringConfigEffective s = .next s) ∧
    (s.fs f ≤ s.cyc → form < 2 → ∃ t : State, exec .ringConfigEffective s = .next t ∧ t.pkg.ring.changes = [] ∧ t.mem = s.mem ∧ t.stns = s.stns ∧
      (form = 0 → t.pkg.ring.rmodel = BitVec.ofNat 64 v ∧ t.pkg.ring.ringcfg = s.pkg.ring.ringcfg) ∧
      (form = 1 → t.slackS = v % 16 ∧ t.pkg.ring.rmodel = s.pkg.ring.rmodel ∧ t.phase = s.phase ∧ t.ringNM1 = s.ringNM1))) ∧
  (∀ (s : State) (e : Nat) (data : List Byte), let b := s.pkg.ring.buffer
    let ends := fun (t : State) (id st : Nat) => t.pkg.fab.cmds = s.pkg.fab.cmds.map fun c =>
      if c.id = id ∧ c.status = 0 then { c with status := st, ecode := 0 } else c
    (b.find? (·.1 == e) = none → exec (.ringInjectionStaged e data) s = .next s) ∧
    (∀ g, b = [(e, g)] → (∀ u, s.uops.find? (·.owner == .fabric g.cmd) = some u → ∀ q ∈ u.pieces, q.poison = false) → (g.data.isSome = true → exec (.ringInjectionStaged e data) s = .next s) ∧
      (g.data = none → let h := leNat (data.take 64); let n := nbits h 116 96
        let good := nbits h 24 0 = g.line * 2 ^ 24 + g.idx ∧ nbits h 159 128 = bitsOf s.pkg.ring.rmodel 31 0 ∧ n ≤ 2097088 ∧
          (crc32 ((data.drop 64).take n)).toNat = nbits h 511 480
        ∃ t : State, exec (.ringInjectionStaged e data) s = .next t ∧ t.mem = s.mem ∧ t.stns = s.stns ∧
          (good → t.pkg.ring.buffer = [(e, { g with data := some data })] ∧ ends t g.cmd 1) ∧
          (¬good → t.pkg.ring.buffer = [] ∧ ends t g.cmd 6))))

/-- R155 to R158, R202, R262, R263, R378: 64 cycles before a frame a coachman boards, for the team of a cluster, the ready rows of the tag that
its waybill entry, no catch-up entry, matches; a cycle later its records follow, or a table write that is due takes effect; the
result reaches a station when the frame starts in its nominal time. -/
def Obligations.coachman_frames : Prop :=
  (∀ (s : State) (cl : Nat), (∀ n, s.cyc + 64 ≠ s.fs n) → exec (.coachmanFrame cl) s = .next s) ∧
  (∀ (s : State) (cl f p tm : Nat), cl < 4 → s.cyc + 64 = s.fs f → s.clusterTeams cl = [(p, tm)] → let ks := s.teamHere cl p tm; let c := s.coachman cl
    let arr := [s.arrTag 0 f, s.arrTag 1 f]; let kept := c.frames.filter fun b => decide (f < b.frame + 64)
    let mine := c.records.filter fun x => crV x.2 && crTeam x.2 == tm && c.recPart x.1 == p
    (s.teamAway ks f = true → ∃ t : State, exec (.coachmanFrame cl) s = .next t ∧ t.stns = s.stns ∧ (t.coachman cl).frames = kept ∧
      (t.coachman cl).updates = c.updates ∧ (t.coachman cl).arrived = c.arrived ++ arr.filterMap id) ∧
    (s.teamAway ks f = false → ∀ l e, c.matching arr p tm = some (l, e) → wbCue e = false →
      let ready := (mine.filter fun x => crTag x.2 == wbTag e && crRdy x.2).take (wbRows e); let rows := ready.map (·.1)
      let missed := mine.filter fun x => arr.contains (some (crTag x.2)) && !rows.contains x.1
      ∃ t : State, exec (.coachmanFrame cl) s = .next t ∧ (t.coachman cl).frames = kept ++ [⟨p, tm, f, wbTag e, false, rows⟩] ∧
        (t.coachman cl).updates = c.updates ++ ready.map (fun x => (x.1, none)) ++ missed.map (fun x => (x.1, some f)) ∧
        (t.coachman cl).arrived = c.arrived ++ arr.filterMap id ∧
        (∀ k ∈ ks, ∃ b : Boarding, (t.stn k).boardings = (s.stn k).boardings ++ [b] ∧ (t.stn k).regs = (s.stn k).regs ∧ b.frame = f ∧ b.map = rows ∧
          b.q = BitVec.ofNat 64 (2 ^ rows.length - 1) ∧ b.slksel = 0 ∧
          b.wbblk = BitVec.ofNat 64 (2 ^ 63 + l * 2 ^ 61 + rows.length * 2 ^ 48 + wbBlock e)) ∧
        ∀ k, k ∉ ks → t.stn k = s.stn k) ∧
    (s.teamAway ks f = false → c.matching arr p tm = none → ∃ t : State, exec (.coachmanFrame cl) s = .next t ∧
      (t.coachman cl).frames = kept ++ [⟨p, tm, f, 0, false, []⟩] ∧ ∀ k ∈ ks, ∃ b : Boarding,
        (t.stn k).boardings = (s.stn k).boardings ++ [b] ∧ b.q = 0 ∧ b.map = [] ∧ b.wbblk = 0)) ∧
  (∀ (s : State) (cl : Nat), cl < 4 → let c := s.coachman cl
    (∀ w, c.updates = [] → c.arrived = [] → c.writes = [w] → w.stn < 384 → w.way = true → c.waybill.Pairwise (fun x y => x.1 < y.1) →
      (s.cyc < w.at_ → ∃ t : State, exec (.coachmanTableUpdate cl) s = .next t ∧ t.stns = s.stns ∧ t.mem = s.mem ∧ (t.coachman cl).writes = [w] ∧
        ∀ i, (t.coachman cl).entry i = c.entry i) ∧
      (w.at_ ≤ s.cyc → ∃ t : State, exec (.coachmanTableUpdate cl) s = .next t ∧ t.mem = s.mem ∧ (t.coachman cl).writes = [] ∧
        (t.coachman cl).records = c.records ∧ (∀ i, i ≠ w.idx → (t.coachman cl).entry i = c.entry i) ∧
        (let old := c.entry w.idx; let x := (t.coachman cl).entry w.idx; let h := stnOf w.stn
         (w.mode = 0 → x = w.val2 ++ w.val) ∧ (w.mode = 1 → wbV x = false ∧ x.setWidth 127 = old.setWidth 127) ∧ (w.mode = 2 → x = old) ∧
         (w.mode = 3 → x = old ||| BitVec.ofNat 128 (2 ^ 125)) ∧ (w.mode ≠ 2 → t.stns = s.stns) ∧
         (w.mode = 2 → (t.stn h).pend.Perm (⟨w.readAt, w.readAt - 5, 1, .sreg w.d (old.setWidth 64)⟩ ::
           ⟨w.readAt, w.readAt - 5, 1, .sreg (w.d + 1) (old.extractLsb' 64 64)⟩ :: (s.stn h).pend))))) ∧
    (∀ w, c.updates = [] → c.arrived = [] → c.writes = [w] → w.stn < 384 → w.way = false → c.records.Pairwise (fun x y => x.1 < y.1) →
      (s.cyc < w.at_ → ∃ t : State, exec (.coachmanTableUpdate cl) s = .next t ∧ t.stns = s.stns ∧ t.mem = s.mem ∧ (t.coachman cl).writes = [w] ∧
        (t.coachman cl).records = c.records) ∧
      (w.at_ ≤ s.cyc → ∃ t : State, exec (.coachmanTableUpdate cl) s = .next t ∧ t.mem = s.mem ∧ (t.coachman cl).writes = [] ∧
        (∀ i, i ≠ w.idx → (t.coachman cl).record i = c.record i) ∧
        (let old := c.record w.idx; let x := (t.coachman cl).record w.idx
         (w.mode = 0 → x = putBits w.val 47 32 (bitsOf old 47 32)) ∧ (w.mode = 1 → x = putBit old 62 true) ∧ (w.mode = 2 → x = putBit old 62 false) ∧
         (w.mode = 3 → x = putBit (putBits old 24 0 (bitsOf w.val 24 0)) 62 true) ∧ (w.mode = 4 → x = old) ∧ (w.mode = 5 → x = 0) ∧
         (w.mode = 4 → (t.stn (stnOf w.stn)).pend.Perm (⟨w.readAt, w.readAt - 5, 1, .sreg w.d old⟩ :: (s.stn (stnOf w.stn)).pend)) ∧
         (w.mode ≠ 4 → t.stns = s.stns)))) ∧
    (∀ i v, c.writes = [] → c.updates = [(i, v)] → c.records.Pairwise (fun x y => x.1 < y.1) → ∃ t : State, exec (.coachmanTableUpdate cl) s = .next t ∧ t.stns = s.stns ∧ t.mem = s.mem ∧
      (t.coachman cl).updates = [] ∧ (t.coachman cl).arrived = [] ∧
      (t.coachman cl).record i = (match v with
        | none => putBit (putBit (c.record i) 61 false) 60 false
        | some f => putBits (putBit (c.record i) 61 true) 47 32 f) ∧
      (∀ j, j ≠ i → (t.coachman cl).record j = c.record j))) ∧
  (∀ (s : State) (k : Stn), let h := s.stn k
    (33 ≤ (s.boardingHeld k).length → ∃ t : State, exec (.coachmanPresent k) s = .next t ∧ (t.stn k).regs = h.regs ∧ (t.stn k).sys = h.sys ∧
      (t.stn k).boardings = h.boardings.filter fun b => !(s.boardingHeld k).contains b) ∧
    ((s.boardingHeld k).length < 33 → s.boardingDue k = [] → exec (.coachmanPresent k) s = .next s) ∧
    (∀ b r, (s.boardingHeld k).length < 33 → s.boardingDue k = b :: r → b.map.length ≤ 64 → (∀ x ∈ b.map, x < 2 ^ 16) →
      ∃ t : State, exec (.coachmanPresent k) s = .next t ∧ t.mem = s.mem ∧ (∀ j, j ≠ k → t.stn j = s.stn j) ∧
        (t.stn k).boardings = h.boardings.erase b ∧ (t.stn k).qreg 7 = b.q ∧ (∀ d, d ≠ 7 → (t.stn k).qreg d = h.qreg d) ∧
        (t.stn k).sys.wbblk = b.wbblk ∧ (t.stn k).sys.slksel = b.slksel ∧ (t.stn k).sys.tagin = b.tagin ∧ (t.stn k).regs.s = h.regs.s ∧
        (∀ i : Fin 16, ∀ j : Fin 4, bitsOf (t.stn k).sys.rowmap[i.val] (16 * j.val + 15) (16 * j.val) = b.map.getD (4 * i.val + j.val) 0xFFFF)))
/-! ### Pre-emption, images and recovery -/

/-- R48, R198, R199, R201 to R210, R305, R378: a pre-emption request makes a team's stations pending, and leaves one that restores as it is (the model's choice,
log entry 58); each holds at the checkpoint, with a full image where it cannot stop cleanly, halts 48 cycles later, and leaves its image
when R204 lets it: the reads that lead to the manifest record, then the lines of the image, are line accesses of their own, and once all are made
the station is SAVED. A restore reads the header, the sections and the ranges line by line, sets the registers, and fetches the two blocks;
a team of one station resumes at its cycle. The pre-empted and the restore-refused trap are entered at either level (the model's
choice, log entry 59), and a team whose load waits resumes at a later frame (log entry 153). -/
def Obligations.preemptions : Prop :=
  (∀ (s : State) (k : Stn) (v : DWord), let tm := bitsOf v 9 0
    (bitOf v 63 = false → exec (.prereq k v) s = .next { s with pkg := { s.pkg with prereq := BitVec.ofNat 64 tm } }) ∧
    (bitOf v 63 = true → ∃ t : State, exec (.prereq k v) s = .next t ∧ t.pkg = { s.pkg with prereq := BitVec.ofNat 64 tm } ∧ t.mem = s.mem ∧
      (∀ j, j ∉ s.team (s.partOf k) tm → t.stn j = s.stn j) ∧
      ∀ j ∈ s.team (s.partOf k) tm, let h := s.stn j
        ((h.pre.st = .run ∨ h.pre.st = .saved) → (t.stn j).regs = h.regs ∧ (t.stn j).pre = { h.pre with
          st := .pending, full := false, xd := false, ovr := false, mal := false, nit := 0, frame := (s.cyc + 2047 - s.phase) / 2048 }) ∧
        (h.pre.st ≠ .run → h.pre.st ≠ .saved → t.stn j = h)) ∧
    (bitOf v 63 = false → exec (.prrst k v) s = .next s) ∧
    (bitOf v 63 = true → let area := bitsOf v 12 0; let h := s.imageHeader area
      ∃ t : State, exec (.prrst k v) s = .next t ∧ (s.mem.soft = [] → t.mem = s.mem) ∧ (∀ j, j ≠ k → t.stn j = s.stn j) ∧
        (let x := (t.stn k).pre
         x.st = .restore ∧ x.area = area ∧ x.half = bitOf v 62 ∧ x.loaded = false ∧ x.resumeAt = none ∧ s.cyc < x.loadAt ∧ x.stage = 0 ∧ x.roll = false) ∧
        (t.stn k).run = { (s.stn k).run with stall := 6 } ∧
        (∀ b, b < 16 → (t.stn k).bay b = if (h / 2 ^ 224).testBit b then { (s.stn k).bay b with st := .pending } else (s.stn k).bay b) ∧
        (t.stn k).regs.s = (s.stn k).regs.s ∧
        t.pkg.redirects = s.pkg.redirects.map fun r => if r.ctx = h / 2 ^ 112 % 2 ^ 16 then { r with live := some k } else r)) ∧
  (∀ (s : State) (k : Stn), let h := s.stn k
    let held := fun (t : State) (f : Nat) (full : Bool) => (t.stn k).pre = { h.pre with st := .hold, full := full, haltAt := s.cyc + 48 } ∧
      (t.stn k).run = { h.run with stall := 5, waitTag := none } ∧ (t.stn k).boardings = h.boardings.filter (fun b => decide (b.frame < f)) ∧
      (t.stn k).regs = h.regs ∧ (t.stn k).streams = h.streams ∧ t.mem = s.mem
    let slips := fun (t : State) => ∃ u, (t.stn k).trap.taking = some u ∧ u.1.cause = 0x06 ∧ u.1.sub = 1
    (s.ckptAct k = none → exec (.checkpoint k) s = .next s) ∧
    (∀ f, s.ckptAct k = some (.hold f) → ∃ t : State, exec (.checkpoint k) s = .next t ∧ held t f (s.unclean k) ∧
      (s.unclean k = (h.unclean || s.txns.any fun x => x.k == k && x.parts.any fun p => decide (s.cyc < p.drive) && p.st == .sent)) ∧
      (s.unclean k = false → (t.stn k).trap = h.trap ∧ ∀ j, j ≠ k → t.stn j = s.stn j) ∧ (s.unclean k = true → slips t)) ∧
    (∀ f, s.ckptAct k = some (.lag f) → ∃ t : State, exec (.checkpoint k) s = .next t ∧ held t f true ∧ slips t) ∧
    (¬(h.pre.st = .hold ∧ h.pre.haltAt ≤ s.cyc) → exec (.preemptHalt k) s = .next s) ∧
    (h.pre.st = .hold → h.pre.haltAt ≤ s.cyc → ∃ t : State, exec (.preemptHalt k) s = .next t ∧ t.mem = s.mem ∧ t.pkg = s.pkg ∧ t.txns = s.txns ∧
      (t.stn k).pre = { h.pre with st := .halted, xd := s.repliesOut k, full := h.pre.full || h.trap.taking.isSome } ∧
      (t.stn k).run = { h.run with stall := 6 } ∧ (t.stn k).mat.ops = [] ∧ (t.stn k).mat.heap = h.mat.heap ∧
      (t.stn k).regs.s = h.regs.s ∧ (t.stn k).regs.c = h.regs.c ∧ (t.stn k).regs.v = h.regs.v ∧ (t.stn k).regs.bays = h.regs.bays ∧
      ((∀ o ∈ h.mat.ops, o.done = true) → (t.stn k).regs = h.regs) ∧ ∀ j, j ≠ k → t.stn j = s.stn j) ∧
    (s.saveGoes k = false → exec (.saveImage k) s = .next s) ∧
    (∀ o n off, s.saveGoes k = true → h.pre.stage ≠ 8 → h.pre.full = false → s.manifestNeeds k h.pre.frame = some (o, n, off) →
      exec (.saveImage k) s = .next (s.nextLoad k (h.pre.stage + 1) (s.bankReads k o n off))) ∧
    (s.saveGoes k = true → h.pre.stage ≠ 8 → h.pre.full = true ∨ s.manifestNeeds k h.pre.frame = none →
      let area := bitsOf h.sys.savcfg 12 0; let m := if h.pre.full then none else s.manifest k h.pre.frame
      let bays := (List.range 16).filter fun i => (h.bay i).st == .pending
      ∃ (t : State) (img : SavedImage), exec (.saveImage k) s = .next t ∧ (∀ j, j ≠ k → t.stn j = s.stn j) ∧ t.txns = s.txns.filter (·.k != k) ∧
        t.mem = s.mem ∧ t.stn k = { h with pre := { h.pre with full := m.isNone, mal := !h.pre.full && m.isNone, nit := bays.length, stage := 8 } } ∧
        t.pkg.redirects = s.pkg.redirects ++ bays.map (fun i => ⟨bitsOf h.sys.ctxid 15 0, k, i, area, none⟩) ∧
        t.pkg.images = s.pkg.images ++ [img] ∧ img.area = area ∧ img.stn = h ∧ img.txns = s.txns.filter (·.k == k) ∧ img.masks = m.map (·.masks) ∧
        (t.jobsOf (.station k)).map (fun j => (j.ph, j.n, j.use)) = s.imageJobs k h.pre.frame area m.isNone (m.getD Manifest.full) img.ctl) ∧
    (s.saveGoes k = true → h.pre.stage = 8 → ∃ t : State, exec (.saveImage k) s = .next t ∧ (∀ j, j ≠ k → t.stn j = s.stn j) ∧ t.txns = s.txns ∧
      (t.stn k).pre = { h.pre with st := .saved, stage := 0 } ∧ (t.stn k).pend = [] ∧ (t.stn k).regs = h.regs ∧ (t.stn k).trap.taking = none ∧
      (bitOf h.trap.tvec 63 = true → (t.stn k).run.level = .resident ∧ bitsOf (t.stn k).trap.tcause 47 40 = 0x10) ∧
      (bitOf h.trap.tvec 63 = false → (t.stn k).trap.halted = true)) ∧
    (s.loadGoes k = false → exec (.restoreLoad k) s = .next s) ∧
    (s.loadGoes k = true → let w := s.gotNat k 0 64; let kind := w / 2 ^ 60 % 16
      (h.pre.stage = 0 → exec (.restoreLoad k) s = .next (s.nextLoad k 1 (readJobs (h.pre.area * 2 ^ 21) 0x1000 0))) ∧
      (h.pre.stage = 1 → kind = 1 ∨ kind = 2 → exec (.restoreLoad k) s = .next (s.nextLoad k 2 (s.loadJobs k))) ∧
      (h.pre.stage = 1 → kind ≠ 1 → kind ≠ 2 → ∃ t : State, exec (.restoreLoad k) s = .next t ∧ (t.stn k).pre = { h.pre with st := .run, stage := 0 } ∧
        (t.stn k).regs = h.regs ∧ (bitOf h.trap.tvec 63 = true → (t.stn k).run.level = .resident ∧ bitsOf (t.stn k).trap.tcause 47 40 = 0x11) ∧
        (bitOf h.trap.tvec 63 = false → (t.stn k).trap.halted = true)) ∧
      (h.pre.stage = 2 → let img := s.imageRead k; let half := s.loadHalf k
        ∃ t : State, exec (.restoreLoad k) s = .next t ∧ (t.stn k).pre.st = .restore ∧ (t.stn k).pre.loaded = false ∧ (t.stn k).pre.stage = 3 ∧
          (t.stn k).sys.ctxid = BitVec.ofNat 64 (w / 2 ^ 112 % 2 ^ 16) ∧ (h.pre.roll = false → (t.stn k).sys.savcfg = BitVec.ofNat 64 h.pre.area) ∧
          bitOf (t.stn k).sys.banksel 1 = half ∧ bitOf (t.stn k).sys.banksel 0 = (w / 2 ^ 240 % 2 == 1) ∧ (t.stn k).run.on = h.run.on ∧
          (h.pre.roll = true → bitsOf (t.stn k).sys.sbst 63 62 = 3) ∧ (∀ j ∈ t.pkg.jobs, j.owner ≠ .station k) ∧
          (s.mem.soft = [] → t.mem = s.mem ∧ let r := if h.pre.roll then h.trap else img.stn.trap
            (t.stn k).trap.eccst = r.eccst ∧ (t.stn k).trap.rpcfg = r.rpcfg ∧ (t.stn k).trap.exlcfg = r.exlcfg ∧ (t.stn k).trap.exlst = r.exlst) ∧
          (∀ i : Fin 32, maskHas img.masks 0 i.val = true → (t.stn k).regs.s[i.val] = img.stn.regs.s[i.val]) ∧
          (∀ i : Fin 64, maskHas img.masks 4 i.val = true →
            (t.stn k).regs.v[i.val] = lineOfBytes (s.gathered (.station k) (0x2000 + 256 * i.val) 256)) ∧
          (∀ b, b < 16 → (w / 2 ^ 224).testBit b = true → (t.stn k).bay b = h.bay b) ∧
          (∀ b, b < 16 → (w / 2 ^ 224).testBit b = false → maskHas img.masks 6 b = true →
            ((t.stn k).bay b).data = lineOfBytes (s.gathered (.station k) (0x1000 + 256 * b) 256))) ∧
      (h.pre.stage = 3 → ∃ t : State, exec (.restoreLoad k) s = .next t ∧ (t.stn k).pre = { h.pre with stage := 4 } ∧ (t.stn k).regs = h.regs ∧
        (t.stn k).run.half = !h.run.half ∧ (h.pre.kept = none → (t.stn k).run.fetch = none) ∧ ∀ j, j ≠ k → t.stn j = s.stn j) ∧
      (h.pre.stage = 4 → (∀ j, j ≠ k → (s.stn j).pre.st ≠ .restore) → h.run.on = true →
        ∃ t : State, exec (.restoreLoad k) s = .next t ∧ t.mem = s.mem ∧ t.pkg = s.pkg ∧ (∀ j, j ≠ k → t.stn j = s.stn j) ∧
          t.stn k = { h with pre := { h.pre with
            loaded := true, stage := 0, resumeAt := some (s.phase + 2048 * ((s.cyc + 64 + 2047 - s.phase) / 2048)) } }))) ∧
  (∀ (s : State) (p tm : Nat) (k : Stn), s.restoring p tm = [k] → let h := s.stn k; let img := s.imageOf k; let d : Int := (s.cyc : Int) - img.nom
    (h.pre.loaded = false ∨ h.pre.resumeAt = none → exec (.teamResume p tm) s = .next s) ∧
    (∀ c, h.pre.loaded = true → h.pre.resumeAt = some c →
      (s.cyc < c → exec (.teamResume p tm) s = .next s) ∧
      (c ≤ s.cyc → s.parked k = true → exec (.teamResume p tm) s = .next (s.onStn k fun x =>
        { x with pre := { x.pre with resumeAt := some (s.phase + 2048 * ((s.cyc + 64 + 2047 - s.phase) / 2048)) } })) ∧
      (c ≤ s.cyc → s.parked k = false → h.trap.taking = none → ∃ t : State, exec (.teamResume p tm) s = .next t ∧ t.mem = s.mem ∧ t.pkg = s.pkg ∧
        (t.stn k).pre = { h.pre with
          st := .run, rp := 0, loaded := false, resumeAt := none, image := none, roll := false, kept := none } ∧ (t.stn k).regs = h.regs ∧
        (t.stn k).run = { h.run with base := ((h.run.base : Int) + d).toNat, resyncAt := moved d h.run.resyncAt, resyncEnd := ((h.run.resyncEnd : Int) + d).toNat, lag := 0, stall := 0 } ∧
        t.txns = s.txns ++ img.txns.map (fun x => { x with k := k, nom := ((x.nom : Int) + d).toNat }) ∧ ∀ j, j ≠ k → t.stn j = s.stn j)))

/-- R340, R349, R389 to R392: a station that takes recovery points holds at the checkpoint, writes the lines of its image in the other area and goes on; the point
commits when every station of the team has written its own, and leaves all of EXLST zero (the model's choice, log entry 62: R390 names COUNT); a
requested rollback of a team of one station stops its work, whose fabric commands end by their write-back, and drops its unfired signals
(the model's choice, log entry 63: R392 does not name them); then it begins to load its committed point, or halts where there is none. -/
def Obligations.recovery_points : Prop :=
  (∀ (s : State) (k : Stn), let h := s.stn k
    (∀ f, s.ckptAct k = some (.point f) → ∃ t : State, exec (.checkpoint k) s = .next t ∧ t.mem = s.mem ∧ t.pkg = s.pkg ∧ (∀ j, j ≠ k → t.stn j = s.stn j) ∧
      (t.stn k).pre = { h.pre with rp := 1, rpFrame := f, rpNom := s.nom k, rpLag := h.run.lag, rpFull := s.unclean k } ∧ bitOf (t.stn k).trap.rpst 61 = true ∧
      (t.stn k).regs = h.regs ∧ (t.stn k).run = { h.run with stall := 5 }) ∧
    (s.pointGoes k = false → exec (.recoveryPointSave k) s = .next s) ∧
    (∀ o n off, s.pointGoes k = true → h.pre.stage ≠ 8 → h.pre.rpFull = false → s.manifestNeeds k h.pre.rpFrame = some (o, n, off) →
      exec (.recoveryPointSave k) s = .next (s.nextLoad k (h.pre.stage + 1) (s.bankReads k o n off))) ∧
    (s.pointGoes k = true → h.pre.stage ≠ 8 → h.pre.rpFull = true ∨ s.manifestNeeds k h.pre.rpFrame = none →
      ∃ (t : State) (img : SavedImage), exec (.recoveryPointSave k) s = .next t ∧ (∀ j, j ≠ k → t.stn j = s.stn j) ∧ t.mem = s.mem ∧
        t.pkg.images = s.pkg.images ++ [img] ∧ img.area = h.trap.pointArea true ∧ img.nom = h.pre.rpNom ∧ (t.stn k).pre = { h.pre with stage := 8 } ∧
        (h.pre.rpFull = false → t.stn k = { h with pre := { h.pre with stage := 8 } } ∧ img.stn = h ∧ let m := s.manifest k h.pre.rpFrame
          (t.jobsOf (.station k)).map (fun j => (j.ph, j.n, j.use)) = s.imageJobs k h.pre.rpFrame img.area m.isNone (m.getD Manifest.full) img.ctl) ∧
        (h.pre.rpFull = true → img.masks = none ∧ (t.stn k).mat.ops = [] ∧ (t.stn k).run = h.run ∧ (t.stn k).regs.s = h.regs.s)) ∧
    (s.pointGoes k = true → h.pre.stage = 8 → ∃ t : State, exec (.recoveryPointSave k) s = .next t ∧ (∀ j, j ≠ k → t.stn j = s.stn j) ∧ t.mem = s.mem ∧
      (t.stn k).pre = { h.pre with rp := 2, stage := 0 } ∧ bitOf (t.stn k).trap.rpst 61 = false ∧ bitOf (t.stn k).trap.rpst 63 = bitOf h.trap.rpst 63 ∧
      (t.stn k).run = { h.run with stall := 0 } ∧ (t.stn k).regs = h.regs ∧ (t.stn k).mat = h.mat)) ∧
  (∀ (s : State) (p tm : Nat), let ks := s.pointTeam p tm
    (s.mayCommit p tm = false → exec (.recoveryPointCommit p tm) s = .next s) ∧
    (s.mayCommit p tm = true → ∃ t : State, exec (.recoveryPointCommit p tm) s = .next t ∧ t.mem = s.mem ∧ t.pkg = s.pkg ∧ (∀ k, k ∉ ks → t.stn k = s.stn k) ∧
      ∀ k ∈ ks, let h := s.stn k
        (t.stn k).pre = { h.pre with rp := 0 } ∧ (t.stn k).trap.exlst = 0 ∧ bitOf (t.stn k).trap.rpst 63 = !bitOf h.trap.rpst 63 ∧
          bitOf (t.stn k).trap.rpst 62 = true ∧ bitsOf (t.stn k).trap.rpst 31 0 = h.pre.rpFrame % 2 ^ 32 ∧ (t.stn k).regs = h.regs)) ∧
  (∀ (s : State) (k : Stn) (v : DWord), let x := (s.partOf k, bitsOf v 9 0); let z := { s with pkg := { s.pkg with rbreq := BitVec.ofNat 64 x.2 } }
    (bitOf v 63 = false ∨ x ∈ s.pkg.rollbacks → exec (.rbreq k v) s = .next z) ∧
    (bitOf v 63 = true → x ∉ s.pkg.rollbacks → exec (.rbreq k v) s = .next { z with pkg := { z.pkg with rollbacks := s.pkg.rollbacks ++ [x] } })) ∧
  (∀ (s : State) (p tm : Nat) (k : Stn), s.team p tm = [k] → let z := s.stopWork k; let h := z.stn k
    let usable := bitOf h.trap.rpst 62 = true ∧ bitOf h.trap.exlst 63 = false
    ((p, tm) ∉ s.pkg.rollbacks → exec (.rollbackRestore p tm) s = .next s) ∧
    (∀ c ∈ z.pkg.fab.cmds, c.k = k → c.status ≠ 0) ∧
    ((p, tm) ∈ s.pkg.rollbacks → z.teamQuiet [k] = false → exec (.rollbackRestore p tm) s = .next z) ∧
    ((p, tm) ∈ s.pkg.rollbacks → z.teamQuiet [k] = true → ∃ t : State, exec (.rollbackRestore p tm) s = .next t ∧ (p, tm) ∉ t.pkg.rollbacks ∧
      t.mem = z.mem ∧ (∀ j, j ≠ k → t.stn j = z.stn j) ∧ bitOf (t.stn k).trap.rpst 61 = false ∧ (∀ j ∈ t.pkg.jobs, j.owner ≠ .station k) ∧
      (¬usable → (t.stn k).trap.halted = true ∧ t.out = z.out ++ [.halted k]) ∧
      (usable → (t.stn k).pre = { h.pre with
          st := .restore, area := h.trap.pointArea false, rp := 0, loaded := false, loadAt := s.cyc, resumeAt := none, stage := 0, team := tm, image := none, roll := true, kept := none } ∧ (t.stn k).sigs = [] ∧ (t.stn k).regs = h.regs ∧
        bitsOf (t.stn k).trap.exlst 41 21 = 0 ∧ bitsOf (t.stn k).trap.exlst 20 0 = bitsOf h.trap.exlst 20 0 ∧
        bitOf (t.stn k).trap.exlst 62 = (bitsOf h.trap.exlst 20 0 != 0) ∧ ∀ x ∈ t.txns, x.k ≠ k)))

/-! ### Signals, the host, telemetry -/

/-- R56, R112, R190 to R192, R195, R264, R370, R372 to R374, R401: a signal fires once the writes that it covers are performed; its completion counts,
its semaphore is raised or its flag store follows. The host's window accesses and atomics are performed where their page allows it
and refused elsewhere; its posts are appended or counted, and one waits, behind earlier ones, while its slot or the slot's channel is in use; a sample
is written to the telemetry ring. A misaligned host atomic aborts with HWERR set, and a read of a post window has the shape given here (the
model's choices, log entries 68 and 70: R373 and R374 are silent). -/
def Obligations.signals_and_host : Prop :=
  (∀ (s : State) (k : Stn), let h := s.stn k; let p := s.partOf k; let slot := bitsOf h.sys.tskcur 11 0
    let count := fun (t : State) => ((t.part p).done.find? (·.1 == slot)).map (·.2); let old := ((s.part p).done.find? (·.1 == slot)).map (·.2)
    (s.sigReady k = none → exec (.sigFire k) s = .next s) ∧
    (∀ g, s.sigReady k = some g → bitOf h.trap.exlst 62 = false → bitOf h.trap.exlcfg 63 = false →
      ∃ t : State, exec (.sigFire k) s = .next t ∧ t.mem = s.mem ∧ (∀ j, j ≠ k → t.stn j = s.stn j) ∧ (t.stn k).sigs = h.sigs.drop 1 ∧
        count t = some (old.getD 0 + 1) ∧ (s.cyc + 24, slot) ∈ (t.part p).doneDue ∧ (t.stn k).regs.s = h.regs.s ∧ (t.stn k).regs.hs = h.regs.hs ∧
        (g.form = 1 → ∀ i, i < 64 → (t.stn k).regs.hsNew.getLsbD i = (h.regs.hsNew.getLsbD i || decide (i = g.n % 64))) ∧
        (g.form ≠ 1 → (t.stn k).regs = h.regs) ∧
        (g.form = 2 → (t.stn k).flagStores = h.flagStores ++ [(g, (old.getD 0 + 1).toNat)]) ∧
        (g.form ≠ 2 → (t.stn k).flagStores = h.flagStores)) ∧
    (s.flagReady k = none → exec (.sigFlagStore k) s = .next s) ∧
    (∀ g n, s.flagReady k = some (g, n) → ∃ (t : State) (u : UOp), exec (.sigFlagStore k) s = .next t ∧ t.mem = s.mem ∧ t.pkg = s.pkg ∧ (t.stn k).regs = h.regs ∧
      (t.stn k).flagStores = h.flagStores.drop 1 ∧ t.uops = s.uops ++ [u] ∧ u.owner = .flag ∧ u.k = k ∧ u.level = g.level ∧ u.issue = g.issue ∧ u.dst = some ⟨g.cap.node, g.cap.obj, 0⟩ ∧
      u.src = none ∧ u.pieces = [{ UPiece.plain 0 g.cap.cursor 8 0 (leBytes 8 n) with st := .held }])) ∧
  (∀ (s : State) (mb : Nat) (aligned : Bool) (data : List Byte), let v := s.mailbox mb; let p := bitsOf v 62 59; let d := bitsOf v 47 40
    let post := exec (.hostMailboxPost mb aligned data) s; let err := (s.part p).mberr
    let bad := aligned = false ∨ data.length ≠ 64; let full := bitOf v 63 = false ∨ bitsOf v 56 48 = d + 1
    let a := bitsOf v 19 0 * 16384 + bitsOf v 35 28 * 64
    let waits := (∃ x ∈ s.pkg.posts, x.1 = mb) ∨ (¬full ∧ (s.placeTaken (.stack a) = true ∨ s.mailUnread a = true))
    (bad → ∃ t : State, post = .next t ∧ t.mem = s.mem ∧ t.stns = s.stns ∧ t.pkg.boxes = s.pkg.boxes ∧
      bitsOf (t.part p).mberr 31 0 = min (bitsOf err 31 0 + 1) 0xFFFF_FFFF ∧ bitsOf (t.part p).mberr 63 32 = bitsOf err 63 32) ∧
    (¬bad → waits → post = .next { s with pkg := { s.pkg with posts := s.pkg.posts ++ [(mb, data)] } }) ∧
    (¬bad → ¬waits → full → ∃ t : State, post = .next t ∧ t.mem = s.mem ∧ t.stns = s.stns ∧ t.pkg.boxes = s.pkg.boxes ∧
      bitsOf (t.part p).mberr 63 32 = min (bitsOf err 63 32 + 1) 0xFFFF_FFFF ∧ bitsOf (t.part p).mberr 31 0 = bitsOf err 31 0) ∧
    (¬bad → ¬waits → ¬full → ∃ t : State, post = .next t ∧ t.stns = s.stns ∧ t.pkg.parts = s.pkg.parts ∧ (s.mem.wf = true → ∀ i, i < 64 → t.byteAt (a + i) = data.getD i 0) ∧
        (∀ x, x < a ∨ a + 64 ≤ x → t.byteAt x = s.byteAt x) ∧ (∀ m, m ≠ mb → t.mailbox m = s.mailbox m) ∧
        (let w := t.mailbox mb
         bitsOf w 56 48 = (bitsOf v 56 48 + 1) % 512 ∧ bitsOf w 35 28 = (bitsOf v 35 28 + 1) % (d + 1) ∧ bitsOf w 27 0 = bitsOf v 27 0 ∧
           bitsOf w 47 36 = bitsOf v 47 36 ∧ bitsOf w 63 57 = bitsOf v 63 57)) ∧
    exec (.hostPostWindowRead mb) s = .next { s with out := s.out ++ [.hostRead (leBytes 64 (bitsOf v 56 48 + d * 2 ^ 16)) false] } ∧
    ∀ a, exec (.hostSnoop a) s = .next { s with out := s.out ++ [.snoop a] }) ∧
  (∀ (s : State) (off n : Nat) (bs : List Byte), 0 < n → off % 16 + n ≤ 16 → bs.length = n →
    let refused := fun (t : State) (c : Nat) => t.mem = s.mem ∧ t.stns = s.stns ∧ (bitOf s.pkg.hostl.hwerr 63 = true → t.pkg.hostl = s.pkg.hostl) ∧
      (bitOf s.pkg.hostl.hwerr 63 = false → let e := t.pkg.hostl.hwerr
        bitOf e 63 = true ∧ bitsOf e 62 60 = c ∧ bitsOf e 59 40 = 0 ∧ bitsOf e 39 0 = off % 2 ^ 40)
    let place : Option Loc := some ⟨s.nodeId, bitsOf s.pkg.hostl.hwin 21 0, 0⟩
    let begun := fun (t : State) (read : Bool) (p : UPiece) => t.mem = s.mem ∧ t.stns = s.stns ∧ t.out = s.out ∧ ∃ u : UOp, t.uops = s.uops ++ [u] ∧
      u.owner = .window none read ∧ u.part = bitsOf s.pkg.hostl.hwin 59 56 ∧ u.level = .task ∧ u.src = (if read then place else none) ∧
      u.dst = (if read then none else place) ∧ u.add = 0 ∧ u.pieces = [p]
    (∀ e, s.windowAt off n false = .ok e → ∃ t : State, exec (.hostWindowAccess (.read off n)) s = .next t ∧ begun t true (UPiece.plain off 0 n 0 [])) ∧
    (∀ c, s.windowAt off n false = .error c → ∃ (t : State) (x : List Byte), exec (.hostWindowAccess (.read off n)) s = .next t ∧ refused t c ∧
      t.out = s.out ++ [.hostRead x true] ∧ x.length = n) ∧
    (∀ e, s.windowAt off n true = .ok e → ∃ t : State, exec (.hostWindowAccess (.write off bs)) s = .next t ∧
      begun t false { UPiece.plain 0 off n 0 bs with st := .held }) ∧
    (∀ c, s.windowAt off n true = .error c → ∃ t : State, exec (.hostWindowAccess (.write off bs)) s = .next t ∧ refused t c ∧ t.out = s.out)) ∧
  (∀ (s : State) (a : HostAtomic), let op : Atom := ⟨if a.swap then 6 else 0, if a.wide then 8 else 4, a.cas, a.opnd, a.newv⟩
    let n := op.size; let aborts := ∃ t : State, exec (.hostAtomic a) s = .next t ∧ t.mem = s.mem ∧ t.stns = s.stns ∧
      t.out = s.out ++ [.hostAtomic 0 true] ∧ bitOf t.pkg.hostl.hwerr 63 = true
    (a.off % n ≠ 0 → aborts) ∧ (∀ c, s.windowAt a.off n true = .error c → aborts) ∧ (∀ e, s.windowAt a.off n true = .ok e → leafPlace e ≠ 3 → aborts) ∧
    (∀ e, a.off % n = 0 → s.windowAt a.off n true = .ok e → leafPlace e = 3 → ∃ (t : State) (u : UOp), exec (.hostAtomic a) s = .next t ∧ t.mem = s.mem ∧
      t.stns = s.stns ∧ t.out = s.out ∧ t.uops = s.uops ++ [u] ∧ u.owner = .window (some op) false ∧
      u.dst = some ⟨s.nodeId, bitsOf s.pkg.hostl.hwin 21 0, 0⟩ ∧ u.pieces = [UPiece.plain 0 a.off n 0 []])) ∧
  (∀ (s : State) (id a e l : Nat) (u : UOp) (p : UPiece) (w : Bool), s.uops.find? (·.id == id) = some u → u.pieces = [p] → s.serving id = none →
    p.waitsUnit = false → s.partReady u 0 w = true → u.pinned = none → u.dead = false → s.mem.soft = [] →
    let run := exec (.untimedPartPerform id (if w then 1 else 0)) s; let o := (s.partAt u p w).2.1; let n := (s.partAt u p w).2.2
    let found := s.translate u (s.partAt u p w).1 w o n; let key := a % 2 ^ 34
    let ended := fun (t : State) => t.stns = s.stns ∧ ∀ v ∈ t.uops, v.id ≠ id
    ∀ z, found = .ok (.at_ (.stack a) e l, z) →
    (w = false → u.owner = .window none true → u.convert = false → u.dst = none → p.srcLen = p.sent + n → ∃ t : State, run = .next t ∧ ended t ∧
      t.mem = z.mem ∧ t.out = s.out ++ [.hostRead (p.data ++ z.mem.readN key n) (p.poison || z.mem.poisonIn key n)]) ∧
    (w = true → u.owner = .window none false → u.src = none → u.add = 0 → p.poison = false → p.dstLen = p.sent + n → ∃ t : State, run = .next t ∧ ended t ∧
      t.mem = z.mem.writeN key ((p.data.drop p.sent).take n) ∧ t.out = s.out) ∧
    (∀ op : Atom, w = true → u.owner = .window (some op) false → u.src = none → l ≠ 0 → leafPlace (z.stackNat l 16) = 3 → z.mem.poison = [] →
      key + op.size ≤ l % 2 ^ 34 ∨ l % 2 ^ 34 + 16 ≤ key → let old := z.mem.readLe key op.size; let r := op.apply old
      ∃ t : State, run = .next t ∧ ended t ∧ t.mem = (if op.cas = true ∧ r.2.2 = false then z.mem else z.mem.writeN key (leBytes op.size r.1)) ∧
        t.out = s.out ++ [.hostAtomic (BitVec.ofNat 64 old) false])) ∧
  (∀ (s : State) (p : Nat), let q := s.part p
    (s.sampleDue p = false → exec (.telemetrySample p) s = .next s) ∧
    (∀ k e, s.sampleDue p = true → bitsOf q.smpcfg 34 32 = e.code → allStns.filter (fun k => (s.stn k).run.part == p && s.running k) = [k] →
      let x := s.samplePoint k e
      ∃ (t : State) (r : Rec), exec (.telemetrySample p) s = .next t ∧ t.stns = s.stns ∧ t.mem = s.mem ∧ t.pkg.parts = s.pkg.parts ∧
        t.pkg.records.Perm (r :: s.pkg.records) ∧ r.part = p % 16 ∧ r.port = clusterOf k ∧ r.fault = false ∧ r.cyc = s.cyc ∧ r.words =
          [s.cyc, 2 ^ 60 + clusterOf k * 2 ^ 54 + localOf k * 2 ^ 47 + e.code * 2 ^ 44 + x.1 * 2 ^ 34,
            s.frameOf (s.nom k) % 2 ^ 32 * 2 ^ 32 + s.stallOf k, x.2 % 2 ^ 40]))
/-! ### Steps of the fabric engine -/

/-- R39, R120, R208, R340 to R343, R345, R347, R356 to R363: the fabric engine accepts the next command and writes a status back; an
unanswered packet is resent and times out; a reply ends its part, of a multicast the report of the last peer does; a request of a peer is performed in the order of
its sequence number and answered; a packet of an unknown kind is counted. The model's choices in it: an error reply carries the peer's index in ARG[7:4] (log entry 130),
the reports of a multicast chain (log entry 131), bring-up drops held packets and the reply cache and ends what awaits an answer (log entry 87), and a slot is
EMPTY while its image is read (log entry 86). -/
def Obligations.fabric_steps : Prop :=
  (∀ (s : State), (s.acceptable = none → exec .fabricCommandAccept s = .next s) ∧
    (∀ c, s.acceptable = some c → bitOf (s.part (s.partOf c.k)).smpcfg 61 = false → (∀ x ∈ s.pkg.fab.cmds, x.id = c.id → x.status = 0) →
      let taken := s.pkg.fab.cmds.map fun x => if x.id = c.id then { x with accepted := true, unit := s.nextId } else x
      let n := nbits c.bits 75 70; let g := s.slot n
      (c.op < 6 → ∃ t : State, exec .fabricCommandAccept s = .next t ∧ t.pkg.fab.cmds = taken ∧ t.mem = s.mem ∧ t.stns = s.stns ∧ t.uops = s.uops ∧
        t.pkg.graphs = s.pkg.graphs) ∧
      (c.op = 7 → (g.st = .idle ∨ g.st = .aborted) → nbits c.bits 61 61 = 0 → ∃ t : State, exec .fabricCommandAccept s = .next t ∧ t.pkg.fab.cmds = taken ∧
        t.slot n = { g with st := .running, runner := some c.id, startAt := some s.cyc, progress := s.cyc } ∧ t.mem = s.mem) ∧
      (c.op = 6 → g.st ≠ .running → ∃ t : State, exec .fabricCommandAccept s = .next t ∧ t.pkg.fab.cmds = taken ∧ (t.slot n).st = .empty ∧ t.mem = s.mem) ∧
      ((c.op = 7 ∨ c.op = 8) → g.st = .empty → ∃ t : State, exec .fabricCommandAccept s = .next t ∧ t.slot n = g ∧ t.mem = s.mem ∧
        t.pkg.fab.cmds = taken.map fun x => if x.id = c.id then { x with status := 6, ecode := 0 } else x) ∧
      (c.op = 14 → s.pkg.ring.buffer = [] → ∃ t : State, exec .fabricCommandAccept s = .next t ∧ t.pkg.fab.cmds = taken ∧ t.mem = s.mem ∧
        t.pkg.ring.buffer = [(nbits c.bits 155 153, ⟨nbits c.bits 152 152, nbits c.bits 151 128, none, c.id⟩)]))) ∧
  (∀ (s : State) (id : Nat),
    (s.fcmd id = none → exec (.fabricWriteBack id) s = .next s) ∧
    (∀ c, s.fcmd id = some c → s.cmdEnd c = none → exec (.fabricWriteBack id) s = .next s) ∧
    (∀ c, s.fcmd id = some c → s.placeTaken (.bank c.k.val c.desc) = true → exec (.fabricWriteBack id) s = .next s) ∧
    (∀ c b, s.fcmd id = some c → c.bay = some b → s.mayLand c.ctx c.k b = false → exec (.fabricWriteBack id) s = .next s) ∧
    (∀ c st ec, s.fcmd id = some c → s.cmdEnd c = some (st, ec) → s.placeTaken (.bank c.k.val c.desc) = false → c.op < 6 → st < 8 → ec < 16 →
      bitOf (s.part (s.partOf c.k)).smpcfg 61 = false → (∀ b, c.bay = some b → s.redirect c.ctx c.k b = none) →
      let a := bankKey c.k.val (s.remap c.k .task c.desc)
      ∃ t : State, exec (.fabricWriteBack id) s = .next t ∧ (∀ x, x < a ∨ a + 16 ≤ x → t.byteAt x = s.byteAt x) ∧
        t.pkg.fab.cmds = s.pkg.fab.cmds.filter (fun x => x.id != c.id) ∧ (∀ u ∈ t.uops, u.owner ≠ .fabric c.id) ∧
        (s.mem.wf = true → let h := t.mem.readLe a 16
         nbits h 127 127 = 1 ∧ nbits h 126 124 = st ∧ nbits h 115 112 = ec ∧ nbits h 111 0 = nbits c.bits 111 0) ∧
        (∀ b : Nat, b < 16 → c.bay = some b → ((s.stn c.k).bay b).st = .pending → (t.stn c.k).bay b = ⟨0, .void, false⟩) ∧
        (∀ n, c.rsem = some n → (s.cyc + 1, FabLate.raise c.k n) ∈ t.pkg.fab.late) ∧ (t.stn c.k).regs.s = (s.stn c.k).regs.s)) ∧
  (∀ (s : State) (i : Nat), let l := s.pkg.fab.unacked
    (l[i]? = none → exec (.fabricResend i) s = .next s ∧ exec (.fabricTimeout i) s = .next s) ∧
    (∀ u n, l[i]? = some u → s.nextPlane (s.peer u.pkt.dst).plane = some n → ∃ t : State, exec (.fabricResend i) s = .next t ∧ t.mem = s.mem ∧
      t.stns = s.stns ∧ t.out = s.out ++ [.packet { u.pkt with plane := n }] ∧ t.pkg.fab.unacked.length = l.length ∧
      t.pkg.fab.unacked[i]? = some { u with last := s.cyc, resent := u.resent + 1 } ∧ ∀ j, j ≠ i → t.pkg.fab.unacked[j]? = l[j]?) ∧
    (∀ u v p b m, l[i]? = some u → u.fwd = none → u.piece = 0 → s.uops.find? (·.id == u.op) = some v → v.pieces = [p] → v.owner = .rld b m →
      v.dead = false → s.serving u.op = none → (p.st = .reading ∨ p.st = .writing) → ∃ (t : State) (w : UOp), exec (.fabricTimeout i) s = .next t ∧ t.mem = s.mem ∧ t.stns = s.stns ∧
        t.pkg.fab.unacked = l.eraseIdx i ∧ t.uops.find? (·.id == u.op) = some w ∧ w.pieces = [{ p with st := .failed, code := 6 }])) ∧
  (∀ (s : State) (x : Packet), let l := s.pkg.fab.unacked; let found := l.find? fun u => u.pkt.dst == x.src && u.pkt.seq == x.rseq
    (x.cls ≠ 1 ∨ x.rsv % 2 ^ 18 ≠ 0 ∨ x.opk ∉ [0x10, 0x11, 0x12] → ∃ t : State, exec (.fabricReplyArrival x) s = .next t ∧ t.mem = s.mem ∧ t.stns = s.stns ∧
      t.out = s.out ∧ t.uops = s.uops ∧ t.pkg.fab.unacked = l ∧
      t.pkg.fab.fplane = putBits s.pkg.fab.fplane 47 16 (min (bitsOf s.pkg.fab.fplane 47 16 + 1) 0xFFFF_FFFF)) ∧
    let multi := l.find? fun u => u.chained && u.pkt.peers == x.peers && u.pkt.seq == x.rseq
    (x.cls = 1 → x.rsv % 2 ^ 18 = 0 → x.opk ∈ [0x10, 0x11, 0x12] → (x.peers = [] ∧ found = none) ∨ (x.peers ≠ [] ∧ multi = none) →
      exec (.fabricReplyArrival x) s = .next s) ∧
    (∀ u, x.cls = 1 → x.rsv % 2 ^ 18 = 0 → x.opk ∈ [0x10, 0x11, 0x12] → x.peers = [] → found = some u → u.fwd = none → 1 < u.pkt.peers.length →
      exec (.fabricReplyArrival x) s = .next { s with pkg := { s.pkg with fab := { s.pkg.fab with
        unacked := l.map fun v => if v = u then { v with resent := 3 } else v } } }) ∧
    (∀ u, x.cls = 1 → x.rsv % 2 ^ 18 = 0 → x.peers ≠ [] → multi = some u →
      (x.opk = 0x11 → x.chx + 1 ≠ u.pkt.peers.length → exec (.fabricReplyArrival x) s = .next s) ∧
      (∀ v p c, s.uops.find? (·.id == u.op) = some v → v.pieces = [p] → u.piece = 0 → v.owner = .fabric c → v.dead = false → p.st = .writing →
        (x.opk = 0x12 → nbits x.arg 7 0 % 16 ≠ 6 → x.chx + 1 ≠ u.pkt.peers.length → ∃ (t : State) (w : UOp), exec (.fabricReplyArrival x) s = .next t ∧ t.mem = s.mem ∧
          t.stns = s.stns ∧ t.pkg.fab.unacked = l ∧ t.uops.find? (·.id == u.op) = some w ∧ w.pieces = [{ p with
            code := if p.code = 0 ∨ nbits x.arg 7 0 / 16 < p.code / 16 then nbits x.arg 7 0 else p.code }]) ∧
        (x.opk = 0x11 → x.chx + 1 = u.pkt.peers.length → p.code = 0 → p.dstLen = p.sent + u.pkt.len → ∃ (t : State) (w : UOp),
          exec (.fabricReplyArrival x) s = .next t ∧ t.mem = s.mem ∧ t.stns = s.stns ∧ t.pkg.fab.unacked = l.erase u ∧
          t.uops.find? (·.id == u.op) = some w ∧ w.pieces = [{ p with st := .done, sent := p.sent + u.pkt.len }]))) ∧
    (∀ u v p b m, x.cls = 1 → x.rsv % 2 ^ 18 = 0 → x.peers = [] → found = some u → u.pkt.peers.length ≤ 1 → u.fwd = none → u.piece = 0 → s.serving u.op = none → v.dead = false → s.uops.find? (·.id == u.op) = some v → v.pieces = [p] →
      let has := fun (t : State) (q : UPiece) => t.mem = s.mem ∧ t.stns = s.stns ∧ t.pkg.fab.unacked = l.erase u ∧
        ∃ w, t.uops.find? (·.id == u.op) = some w ∧ w.owner = v.owner ∧ w.pieces = [q]
      (v.owner = .rld b m → v.convert = false → x.opk = 0x10 → p.st = .reading → p.srcLen = p.sent + x.data.length →
        ∃ t : State, exec (.fabricReplyArrival x) s = .next t ∧ has t { p with
          st := .held, sent := 0, data := p.data ++ x.data, poison := p.poison || x.poison, flags := 0, far := true }) ∧
      (v.owner = .rld b m → x.opk = 0x12 → u.replay = none → (p.st = .reading ∨ p.st = .writing) →
        ∃ t : State, exec (.fabricReplyArrival x) s = .next t ∧ has t { p with st := .failed, code := nbits x.arg 7 0 }) ∧
      (∀ c, v.owner = .fabric c → x.opk = 0x11 → u.pkt.opk = 1 → p.st = .writing → p.dstLen = p.sent + u.pkt.len →
        ∃ t : State, exec (.fabricReplyArrival x) s = .next t ∧ has t { p with st := .done, sent := p.sent + u.pkt.len }))) ∧
  (∀ (s : State) (x : Packet), let f := s.pkg.fab; let l := s.peer x.src; let d := (x.seq + 65536 - l.expect.toNat) % 65536
    (x.cls ≠ 0 ∨ x.rsv % 2 ^ 18 ≠ 0 ∨ x.opk = 0 ∨ 5 < x.opk → ∃ t : State, exec (.fabricRequestArrival x) s = .next t ∧ t.mem = s.mem ∧ t.stns = s.stns ∧ t.out = s.out ∧
      bitsOf t.pkg.fab.fplane 47 16 = min (bitsOf f.fplane 47 16 + 1) 0xFFFF_FFFF ∧ bitsOf t.pkg.fab.fplane 15 0 = bitsOf f.fplane 15 0) ∧
    (x.cls = 0 → x.rsv % 2 ^ 18 = 0 → 1 ≤ x.opk → x.opk ≤ 5 → f.serving = [] → l.held = [] →
      (0 < d → d < 32768 → ∃ t : State, exec (.fabricRequestArrival x) s = .next t ∧ t.mem = s.mem ∧ t.stns = s.stns ∧ t.out = s.out ∧
        (t.peer x.src).held = [x] ∧ (t.peer x.src).expect = l.expect) ∧
      (32768 ≤ d → x.opk = 1 → x.peers.length ≤ 1 → s.planeUp x.plane = true → ∃ (t : State) (y : Packet), exec (.fabricRequestArrival x) s = .next t ∧ t.mem = s.mem ∧ t.stns = s.stns ∧
        t.out = s.out ++ [.packet y] ∧ y.opk = 0x11 ∧ y.dst = x.src ∧ y.rseq = x.seq) ∧
      (∀ p, d = 0 → x.seq < 65536 → x.opk = 2 → (∀ u ∈ s.uops, u.id ≠ s.nextId) → s.boundPart x.orig x.opart = some p →
        x.obj < bitsOf (s.part p).otcfg 55 34 → descV (s.descriptor p x.obj) = true → descPeer (s.descriptor p x.obj) = true →
        descBad (s.descriptor p x.obj) p = false → x.off + x.len ≤ descLen (s.descriptor p x.obj) → 0 < x.len →
        ∃ (t : State) (u : UOp), exec (.fabricRequestArrival x) s = .next t ∧ t.mem = s.mem ∧ t.stns = s.stns ∧ t.out = s.out ∧ t.uops = s.uops ++ [u] ∧
          u.owner = .serve ∧ u.part = p ∧ u.src = some ⟨s.nodeId, x.obj, 0⟩ ∧ u.dst = none ∧ u.pieces = [UPiece.plain x.off 0 x.len 0 []] ∧
          t.pkg.fab.serving = [(u.id, x)] ∧ (t.peer x.src).expect = l.expect ∧ (t.peer x.src).held = []) ∧
      (d = 0 → x.seq < 65536 → x.peers = [] → s.planeUp x.plane = true → (∀ u ∈ s.uops, u.id ≠ s.nextId) → s.boundPart x.orig x.opart = none →
        ∃ (t : State) (y : Packet), exec (.fabricRequestArrival x) s = .next t ∧ t.mem = s.mem ∧ t.out = s.out ++ [.packet y] ∧ y.opk = 0x12 ∧
          y.arg = 1 + x.chx % 16 * 16 ∧ y.dst = x.src ∧ y.rseq = x.seq ∧ (t.peer x.src).expect = l.expect + 1))) ∧
  (∀ (s : State) (id a e w : Nat) (x : Packet) (u : UOp) (p : UPiece), s.uops.find? (·.id == id) = some u → u.owner = .serve → u.pieces = [p] →
    u.pinned = none → u.dst = none → u.convert = false → u.dead = false → s.pkg.fab.serving = [(id, x)] → (s.peer x.src).held = [] →
    x.seq = (s.peer x.src).expect.toNat → x.opk = 2 → x.peers = [] → x.pinned = false → s.planeUp x.plane = true → p.waitsUnit = false →
    s.partReady u 0 false = true → s.mem.soft = [] → let o := (s.partAt u p false).2.1; let n := (s.partAt u p false).2.2
    ∀ z, s.translate u (s.partAt u p false).1 false o n = .ok (.at_ (.stack a) e w, z) → p.srcLen = p.sent + n → ∃ (t : State) (y : Packet), exec (.untimedPartPerform id 0) s = .next t ∧ t.mem = z.mem ∧
      t.stns = s.stns ∧ t.out = s.out ++ [.packet y] ∧ y.opk = 0x10 ∧ y.cls = 1 ∧ y.dst = x.src ∧ y.rseq = x.seq ∧
      y.data = p.data ++ z.mem.readN (a % 2 ^ 34) n ∧ (t.peer x.src).expect = (s.peer x.src).expect + 1 ∧ ∀ v ∈ t.uops, v.id ≠ id) ∧
  (∀ (s : State) (n : Nat),
    exec (.planeDown n) s = .next { s with pkg := { s.pkg with fab := { s.pkg.fab with fplane := putBit s.pkg.fab.fplane (n % 16) false } } } ∧
    (let l := s.pkg.fab.unacked; let fresh := fun (t : State) => (t.peer n).next = 0 ∧ (t.peer n).expect = 0 ∧ (t.peer n).held = [] ∧ (t.peer n).cache = [] ∧
       (∀ m, m ≠ n → t.peer m = s.peer m) ∧ t.mem = s.mem ∧ t.stns = s.stns ∧ t.pkg.fab.unacked = l.filter (·.pkt.dst != n) ∧
       t.pkg.fab.serving = s.pkg.fab.serving.filter (·.2.src != n)
     ((∀ u ∈ l, u.pkt.dst ≠ n) → ∃ t : State, exec (.fabricBringUp n) s = .next t ∧ fresh t ∧ t.out = s.out ∧
       t.uops = s.uops.filter fun u => ((s.pkg.fab.serving.filter (·.2.src == n)).map (·.1)).all (· != u.id)) ∧
     (∀ u v p b m, l.filter (·.pkt.dst == n) = [u] → u.fwd = none → u.piece = 0 → s.uops.find? (·.id == u.op) = some v → v.pieces = [p] →
       v.owner = .rld b m → v.dead = false → s.pkg.fab.serving = [] → p.st = .reading ∨ p.st = .writing →
       ∃ (t : State) (w : UOp), exec (.fabricBringUp n) s = .next t ∧ fresh t ∧ t.uops.find? (·.id == u.op) = some w ∧
         w.pieces = [{ p with st := .failed, code := 6 }])))

/-- R104, R112, R195, R347, R349, R350, R366 to R369: a replay starts with its patched bases, which are checked; its operations start as their counters
reach 0, in the place of their `grun` in the queues, and finish; it ends, or stalls and is aborted; signals and barrier arrivals count. A signal heard twice in
one replay counts for the next, and a signal names the record whose successors it lowers (the model's choices, log entry 86: R369 speaks of early signals
only). -/
def Obligations.graph_steps : Prop :=
  (∀ (s : State) (n : Nat), let g := s.slot n
    let quiet := ∀ p, bitOf (s.part p).smpcfg 61 = false
    let same := fun (t : State) => t.mem = s.mem ∧ t.stns = s.stns
    (g.st ≠ .running ∨ g.startAt = none → exec (.graphReplayStart n) s = .next s) ∧
    (∀ c, g.st = .running → g.startAt = some c → g.early = [] → quiet →
      let bases := if g.shf then patched g.patch g.shadow else g.patch
      let z := { g with
        patch := bases, active := bases, shf := false, startAt := none, counters := g.ops.map (·.deps), progress := s.cyc
        done := List.replicate g.ops.length false, started := List.replicate g.ops.length false, early := [], heard := [] }
      ((g.ops.filter fun o => o.rank == g.rank).all (s.gopAllowed z) = true → ∃ t : State, exec (.graphReplayStart n) s = .next t ∧ same t ∧ t.slot n = z) ∧
      ((g.ops.filter fun o => o.rank == g.rank).all (s.gopAllowed z) = false → ∃ t : State, exec (.graphReplayStart n) s = .next t ∧ same t ∧
        (t.slot n).st = .aborted ∧ (t.slot n).cause = 4 ∧ (t.slot n).runs = (g.runs + 1) % 2 ^ 32)) ∧
    (∀ i, g.startable i = false → exec (.graphOperationStart n i) s = .next s) ∧
    (∀ i o, g.startable i = true → g.ops[i]? = some o →
      let src := g.active.getD o.sb Cap.null; let dst := g.active.getD o.db Cap.null
      (o.kind ≠ 3 → ∃ (t : State) (u : UOp), exec (.graphOperationStart n i) s = .next t ∧ same t ∧ t.uops = s.uops ++ [u] ∧ u.owner = .graph n i ∧
        u.src = some ⟨src.node, src.obj, 0⟩ ∧ u.dst = some ⟨dst.node, dst.obj, 0⟩ ∧ u.add = o.rop ∧
        (∀ r, s.uops.find? (fun v => g.runner.any fun c => v.owner == .fabric c) = some r → u.qset = r.qset ∧ u.seq = r.seq) ∧
        (∀ c, g.runner.bind s.fcmd = some c → u.level = c.level ∧ u.issue = c.issue ∧ u.ctx = c.ctx) ∧
        (t.slot n).started = g.started.zipIdx.map (fun x => if x.2 = i then true else x.1) ∧ (t.slot n).done = g.done) ∧
      (o.kind = 3 → o.peer ≠ g.rank → ∀ q, s.nextPlane (s.peer (g.members.getD o.peer 0)).plane = some q → ∃ (t : State) (y : Packet), exec (.graphOperationStart n i) s = .next t ∧
        same t ∧ t.out = s.out ++ [.packet y] ∧ y.cls = 2 ∧ y.opk = 0x19 ∧ y.dst = g.members.getD o.peer 0 ∧ y.arg = g.group ∧ y.rseq = i ∧
        (t.slot n).done = g.done.zipIdx.map (fun x => if x.2 = i then true else x.1))) ∧
    (∀ i, s.gopDone n i = none → exec (.graphOperationFinish n i) s = .next s) ∧
    (∀ i u o, s.gopDone n i = some u → g.ops[i]? = some o → o.kind ≠ 3 → ∃ t : State, exec (.graphOperationFinish n i) s = .next t ∧ same t ∧
      (∀ v ∈ t.uops, v.id ≠ u.id) ∧ (t.slot n).done = g.done.zipIdx.map (fun x => if x.2 = i then true else x.1) ∧
      (∀ j : Nat, (t.slot n).counters[j]? = (g.counters[j]?).map (· - o.succ.count j)) ∧ (t.slot n).progress = s.cyc) ∧
    (g.complete = false → exec (.graphReplayEnd n) s = .next s) ∧
    (∀ c, g.complete = true → g.runner = some c → quiet → ∃ t : State, exec (.graphReplayEnd n) s = .next t ∧ same t ∧ (t.slot n).runs = (g.runs + 1) % 2 ^ 32 ∧
      (t.slot n).runner = g.pend ∧ (t.slot n).pend = none ∧
      (g.pend = none → (t.slot n).st = .idle ∧ (t.slot n).startAt = none) ∧ (g.pend ≠ none → (t.slot n).st = .running ∧ (t.slot n).startAt = some (s.cyc + 1)) ∧
      t.pkg.fab.cmds = s.pkg.fab.cmds.map fun x => if x.id = c ∧ x.status = 0 then { x with status := 1, ecode := 0 } else x) ∧
    (g.waiting = none ∨ s.cyc < g.progress + s.fabTO → exec (.graphStallTimeout n) s = .next s) ∧
    (g.waiting ≠ none → g.progress + s.fabTO ≤ s.cyc → ∃ t : State, exec (.graphStallTimeout n) s = .next t ∧ same t ∧ (t.slot n).st = .aborted ∧
      (t.slot n).cause = 2 ∧ (t.slot n).runs = (g.runs + 1) % 2 ^ 32 ∧ (t.slot n).runner = none)) ∧
  (∀ (s : State) (group op : Nat),
    (s.slotOfGroup group = none → exec (.graphSignal group op) s = .next s) ∧
    (∀ n, s.slotOfGroup group = some n → let g := s.slot n
      ((g.st ≠ .running ∨ g.startAt ≠ none ∨ op ∈ g.heard) → ∃ t : State, exec (.graphSignal group op) s = .next t ∧ t.mem = s.mem ∧ t.stns = s.stns ∧
        t.slot n = { g with early := g.early ++ [op] }) ∧
      (∀ o, g.st = .running → g.startAt = none → op ∉ g.heard → g.ops[op]? = some o → ∃ t : State, exec (.graphSignal group op) s = .next t ∧
        t.mem = s.mem ∧ t.stns = s.stns ∧ t.slot n = { g with counters := (t.slot n).counters, heard := g.heard ++ [op], progress := s.cyc } ∧
        ∀ j : Nat, (t.slot n).counters[j]? = (g.counters[j]?).map (· - o.succ.count j)))) ∧
  (∀ (s : State) (rank group phase : Nat),
    (s.slotOfGroup group = none → exec (.graphBarrierArrival rank group phase) s = .next s) ∧
    (∀ n, s.slotOfGroup group = some n → let g := s.slot n; let known := phase = g.bph.toNat ∨ phase = (g.bph + 1).toNat
      let all := g.arrived.filter (· != (rank, phase)) ++ [(rank, phase)]
      (¬known → exec (.graphBarrierArrival rank group phase) s = .next s) ∧
      (known → g.own = none → ∃ t : State, exec (.graphBarrierArrival rank group phase) s = .next t ∧ t.mem = s.mem ∧ t.stns = s.stns ∧
        t.slot n = { g with arrived := all }) ∧
      (∀ k m, known → g.own = some (k, m) → (∀ r, r < g.members.length → (r, g.bph.toNat) ∈ all ∨ r = g.rank) →
        ∃ t : State, exec (.graphBarrierArrival rank group phase) s = .next t ∧ t.mem = s.mem ∧ (t.slot n).bph = g.bph + 1 ∧ (t.slot n).own = none ∧
          (t.stn k).regs.hsNew.getLsbD (m % 64) = true ∧ (t.stn k).regs.s = (s.stn k).regs.s ∧ ∀ j, j ≠ k → t.stn j = s.stn j)))
/-! ### Registers written, pages, partitions and the service processor -/

/-- R33, R38, R76, R117 to R119, R140, R190, R192, R193, R314: what writes of registers of units do, and the fills, invalidations and
moves of pages that follow. A second fill (log entry 117), the steps of a move (log entry 67), a TDQ write with SET that cancels the
increments not yet visible, and a MIGFREE write with bit 63 set that clears OVF and still pushes (log entry 73: R192 and R117 do not say) are the
model's choices. -/
def Obligations.unit_registers : Prop :=
  (∀ (s : State) (k : Stn) (u : Nat) (v : DWord), let h := s.stn k
    let only := fun (t : State) => t.mem = s.mem ∧ t.pkg = s.pkg ∧ (t.stn k).regs = h.regs ∧ ∀ j, j ≠ k → t.stn j = s.stn j
    (∃ t : State, exec (.ssstatWrite k u v) s = .next t ∧ only t ∧ (let x := (t.stn k).scaleUnit u
      x.cfg = (h.scaleUnit u).cfg ∧ x.hist = [] ∧ bitOf x.stat 63 = bitOf v 63 ∧ bitsOf x.stat 62 0 = 0)) ∧
    (∃ t : State, exec (.sscfgWrite k u v) s = .next t ∧ only t ∧ (let x := (t.stn k).scaleUnit u; let y := h.scaleUnit u; let m := bitsOf v 1 0
      bitsOf x.cfg 47 16 = bitsOf v 47 16 ∧ bitsOf x.cfg 1 0 = m ∧ bitsOf x.cfg 63 48 = 0 ∧ bitsOf x.cfg 15 2 = 0 ∧ x.hist = y.hist ∧
        ((m = bitsOf y.cfg 1 0 ∨ m = 0) → x.stat = y.stat) ∧ (m ≠ bitsOf y.cfg 1 0 → m ≠ 0 → bitOf x.stat 63 = decide (m = 2)))) ∧
    (∃ t : State, exec (.tskcurWrite k v) s = .next t ∧ only t ∧ (let x := (t.stn k).sys.tskcur
      bitOf x 62 = false ∧ bitOf x 63 = bitOf v 63 ∧ bitsOf x 11 0 = bitsOf v 11 0 ∧ bitsOf x 61 12 = 0)) ∧
    (∃ t : State, exec (.hcfgWrite k v) s = .next t ∧ only t ∧ (let x := (t.stn k).mat
      bitsOf x.hcfg 63 23 = bitsOf v 63 23 ∧ bitsOf x.hcfg 22 0 = 0 ∧ x.heap = h.mat.heap ∧
        x.heapFree = if bitsOf h.mat.hcfg 39 23 = bitsOf v 39 23 then h.mat.heapFree else 0xFFFF_FFFF_FFFF_FFFF)) ∧
    (∃ t : State, exec (.tdqWrite k v) s = .next t ∧ t.mem = s.mem ∧ (t.stn k).regs = h.regs ∧ (let p := s.partOf k; let slot := bitsOf v 11 0
      (bitOf v 63 = false → t.pkg = s.pkg) ∧ (bitOf v 63 = true →
        (((t.part p).done.find? (·.1 == slot)).map (·.2)) = some (BitVec.ofNat 16 (bitsOf v 27 12)) ∧ (∀ x ∈ (t.part p).doneDue, x.2 ≠ slot)))) ∧
    (∃ t : State, exec (.mbcfgWrite k v) s = .next t ∧ t.mem = s.mem ∧ t.stns = s.stns ∧ (let m := bitsOf h.sys.mbsel 16 0; let x := s.mailbox m; let y := t.mailbox m
      let keeps := bitsOf x 47 40 = bitsOf v 47 40 ∧ bitsOf x 19 0 = bitsOf v 19 0
      bitOf y 63 = bitOf v 63 ∧ bitsOf y 58 57 = bitsOf v 58 57 ∧ bitsOf y 47 40 = bitsOf v 47 40 ∧ bitsOf y 19 0 = bitsOf v 19 0 ∧
        bitsOf y 62 59 = bitsOf x 62 59 ∧ bitsOf y 56 48 = bitsOf x 56 48 ∧ bitsOf y 35 20 = (if keeps then bitsOf x 35 20 else 0) ∧
        ∀ n, n ≠ m → t.mailbox n = s.mailbox n)) ∧
    (∀ ch : Nat, ch < 2 → ∃ t : State, exec (.cfstResume k ch) s = .next t ∧ t.mem = s.mem ∧ t.pkg = s.pkg ∧ bitOf (t.chan k ch).cfst 63 = false ∧
      (t.stn k).regs = h.regs ∧ t.uops = s.uops.map fun u => match u.owner with
        | .copy c _ => if u.k = k ∧ c = ch then { u with parked := false } else u
        | _ => u) ∧
    (∀ n : Nat, let i := n / 4096 % 32
      ∃ t : State, exec (.pinFill k n) s = .next t ∧ t.mem = s.mem ∧ t.pkg = s.pkg ∧ (t.stn k).regs = h.regs ∧
        bitOf (t.stn k).sys.pinctl 63 = true ∧ bitsOf (t.stn k).sys.pinctl 16 0 = n % 2 ^ 17 ∧ (∀ j : Fin 32, j.val = i → (t.stn k).pins[j.val] = none) ∧
        (∀ j : Fin 32, j.val ≠ i → (t.stn k).pins[j.val] = h.pins[j.val]) ∧ ∃ c w, (t.stn k).pinDue = some (c, h.sys.pinobj, w) ∧ s.cyc < c) ∧
    (h.pinDue = none → exec (.pinFillComplete k) s = .next s) ∧
    (∀ c obj w, h.pinDue = some (c, obj, w) → let n := bitsOf w 11 0; let i := bitsOf w 16 12
      let f := s.pinWalk k i (bitsOf obj 21 0) (bitsOf obj 45 22) n
      let ends := fun (t : State) (e : Option PinEntry) (st : Nat) => (t.stn k).pinDue = none ∧ bitOf (t.stn k).sys.pinctl 63 = false ∧
        bitsOf (t.stn k).sys.pinctl 62 60 = st ∧ (∀ j : Fin 32, j.val = i → (t.stn k).pins[j.val] = e) ∧
        (∀ j : Fin 32, j.val ≠ i → (t.stn k).pins[j.val] = h.pins[j.val]) ∧ (t.stn k).regs = h.regs
      (n = 0 → ∃ t : State, exec (.pinFillComplete k) s = .next t ∧ ends t none 0 ∧ t.mem = s.mem) ∧
      (∀ e, n ≠ 0 → f.1 = .ok e → ∃ t : State, exec (.pinFillComplete k) s = .next t ∧ ends t (some e) 0 ∧ t.mem = f.2.mem) ∧
      (∀ x, n ≠ 0 → f.1 = .error x → x < 8 → ∃ t : State, exec (.pinFillComplete k) s = .next t ∧ ends t none x ∧ t.mem = f.2.mem)) ∧
    (∃ t : State, exec (.otinv k v) s = .next t ∧ t.mem = s.mem ∧ t.stns = s.stns ∧ (t.part (s.partOf k)).otbusy =
        (s.part (s.partOf k)).otbusy ++ [(s.nextId, if bitOf v 63 then none else some (bitsOf v 21 0))] ∧
      t.pkg.cache = s.pkg.cache.filter fun c => !(c.part == s.partOf k && (bitOf v 63 || c.obj == bitsOf v 21 0)))) ∧
  (∀ (s : State) (p : Nat) (v : DWord), let q := s.part p
    (let busy := fun (x : Nat × Option Nat) => ∃ u ∈ s.uops, u.part = p ∧ u.id < x.1 ∧ s.usesEntry u x.2 = true
     ∃ t : State, exec (.otinvComplete p) s = .next t ∧ t.mem = s.mem ∧ t.stns = s.stns ∧ t.part p = { q with otbusy := (t.part p).otbusy } ∧
       ∀ x, x ∈ (t.part p).otbusy ↔ x ∈ q.otbusy ∧ busy x) ∧
    (∃ t : State, exec (.migfreePush p v) s = .next t ∧ t.mem = s.mem ∧ t.stns = s.stns ∧
      (q.migfree.length < 64 → (t.part p).migfree = q.migfree ++ [bitsOf v 23 0] ∧ (t.part p).migovf = (q.migovf && !bitOf v 63)) ∧
      (64 ≤ q.migfree.length → (t.part p).migfree = q.migfree ∧ (t.part p).migovf = true))) ∧
  (∀ (s : State), exec .migrationEpochStart s = .next { s with pkg := { s.pkg with counts := [] } }) ∧
  (∀ (s : State) (p obj page node dobj dpage : Nat) (data : List Byte),
    let q := s.part p; let o := JobOwner.page p obj page; let enabled := bitOf q.migcfg 63 = true; let m := bitsOf q.migcfg 53 32
    let go := fun (role : Nat) => exec (.migrationMove role p obj page node dobj dpage data) s
    let at_ := fun (x : MoveState) => (s.moveAt p obj page x).isSome = true
    let read := s.jobsDone o = true
    let settled := fun (t : State) => t.stns = s.stns ∧ t.pkg.moves = s.pkg.moves.filter (fun v => !v.isFor p obj page) ∧ t.pkg.jobs = s.pkg.jobs.filter (·.owner != o)
    let drops := fun (role : Nat) => ∃ t : State, go role = .next t ∧ settled t ∧ t.mem = s.mem ∧ t.part p = q
    let fills := fun (t : State) (r : List Nat) (o : JobOwner) (f : Nat) => t.mem = s.mem ∧ t.stns = s.stns ∧ (t.part p).migfree = r ∧
      (t.jobsOf o).map (fun j => (j.ph, j.use)) = (s.jobsOf o).map (fun j => (j.ph, j.use)) ++ (storeJobs (f * 65536) (data.take 65536) false).map fun x => (x.1, x.2.2)
    let good := fun (pn b : Nat) => s.leafOf p m pn = some b ∧ (let w := s.stackNat b 16
      leafRes w = 0 ∧ leafKind w = 1 ∧ s.leafBad p w = false)
    (s.leafOf p obj page = none → drops 0 ∧ drops 2 ∧ drops 3 ∧ (data = [] → go 1 = .next s)) ∧
    (data ≠ [] → (q.migfree = [] ∨ ¬enabled → go 1 = .next s) ∧
      (∀ n r, q.migfree = n :: r → enabled →
        (∀ b, good n b → let f := leafFrame (s.stackNat b 16)
          ∃ t : State, go 1 = .next t ∧ fills t r (.page p m n) f ∧ t.moveAt p m n .arriving = some ⟨p, m, n, node, .arriving, f, min dobj 4⟩) ∧
        ((∀ b, ¬good n b) → ∃ t : State, go 1 = .next t ∧ t.mem = s.mem ∧ t.stns = s.stns ∧ t.pkg.moves = s.pkg.moves ∧ t.pkg.jobs = s.pkg.jobs ∧
          (t.part p).migfree = r))) ∧
    (∀ a, s.leafOf p obj page = some a → let e := s.stackNat a 16; let w := a % 2 ^ 34; let now := s.renewed e; let taken := s.placeTaken (.stack a)
      let wrote := fun (t : State) (f : Nat → Prop) => t.stns = s.stns ∧ (s.mem.wf = true → f (t.mem.readLe w 16) ∧ leafPlace (t.mem.readLe w 16) = leafPlace e ∧
        ∀ x, x < w ∨ w + 16 ≤ x → t.byteAt x = s.byteAt x)
      let ends := fun (role : Nat) (f : Nat → Prop) => ∃ t : State, go role = .next t ∧ wrote t f ∧ settled t
      let as_ := fun (res x : Nat) => leafRes x = res ∧ leafKind x = leafKind e ∧ leafFrame x = leafFrame e
      let moved := fun (kind f x : Nat) => leafKind x = kind ∧ leafFrame x = f % 2 ^ 56 ∧ leafRes x = 1 ∧ leafEpoch x = s.epoch ∧
        leafMoves x = (leafMoves now + 1) % 8 ∧ leafSettled x = decide (4 ≤ leafMoves now + 1) ∧ leafFmt x = leafFmt e
      let frame := node % 1024 * 2 ^ 46 + dobj % 2 ^ 22 * 2 ^ 24 + dpage % 2 ^ 24
      let starts := fun (role : Nat) (reads : List (Phys × JobUse)) => ∃ t : State, go role = .next t ∧ wrote t (as_ 3) ∧
        (∀ c ∈ t.pkg.cache, ¬(c.part = p ∧ c.obj = obj ∧ c.page = page)) ∧
        (t.jobsOf o).map (fun j => (j.ph, j.use)) = (s.jobsOf o).map (fun j => (j.ph, j.use)) ++ reads
      let lines := (s.pageReads e).map fun x => (x.1, x.2.2)
      let outgoes := fun (role : Nat) (mine : Prop) => (¬at_ .leaving → ¬at_ .due → go role = .next s) ∧
        (¬at_ .leaving → at_ .due → (¬mine ∨ ¬enabled ∨ s.mayMove e = false → drops role) ∧
          (mine → enabled → s.mayMove e = true → (s.pageQuiet p obj page = false ∨ taken = true → go role = .next s) ∧
            (s.pageQuiet p obj page = true → taken = false → starts role lines ∧ ∀ t, go role = .next t → (t.moveAt p obj page .leaving).isSome = true))) ∧
        (at_ .leaving → ¬read ∨ taken = true → go role = .next s)
      outgoes 0 (leafKind e < 2) ∧ outgoes 2 True ∧
      (at_ .leaving → read → taken = false →
        (node = s.nodeId → ends 0 (as_ 1)) ∧
        (node ≠ s.nodeId → ends 0 (moved 3 frame) ∧ ∃ t : State, go 0 = .next t ∧
          t.out = s.out ++ [.page node p obj page ((leafMoves now + 1) % 8) (s.gathered o 0 65536)]) ∧
        ends 2 (as_ 0) ∧ ∃ t : State, go 2 = .next t ∧ t.out = s.out ++ [.page node p obj page (leafMoves now + 1) (s.gathered o 0 65536)] ∧
          (q.migfree.length < 64 → (t.part p).migfree = q.migfree ++ [page]) ∧ (64 ≤ q.migfree.length → (t.part p).migovf = true)) ∧
      (data = [] → (¬at_ .arriving ∨ ¬read ∨ taken = true → go 1 = .next s) ∧
        (∀ v, s.moveAt p obj page .arriving = some v → read → taken = false → ends 1 fun x => as_ 1 x ∧
          leafMoves x = v.count % 8 ∧ leafSettled x = decide (4 ≤ v.count) ∧ leafEpoch x = s.epoch)) ∧
      (leafKind e ≠ 3 → go 3 = .next s) ∧
      (leafKind e = 3 → (at_ .returning → ¬read ∨ taken = true → go 3 = .next s) ∧
        (∀ v, s.moveAt p obj page .returning = some v → read → taken = false → ends 3 (moved 1 v.frame)) ∧
        (¬at_ .returning → leafRes e ≠ 3 → let may := s.mayMove now = true ∧ (node ≠ s.nodeId ∨ enabled)
          (¬may ∨ taken = true → go 3 = .next s) ∧ (may → taken = false → starts 3 [])) ∧
        (¬at_ .returning → leafRes e = 3 → (s.frameQuiet e = false → go 3 = .next s) ∧
          (s.frameQuiet e = true → node ≠ s.nodeId → (taken = true → go 3 = .next s) ∧ (taken = false → ends 3 (moved 3 frame))) ∧
          (s.frameQuiet e = true → node = s.nodeId → (data = [] → go 3 = .next s) ∧
            (data ≠ [] → q.migfree = [] → (taken = true → go 3 = .next s) ∧ (taken = false → ends 3 (as_ 1))) ∧
            ∀ n r b, data ≠ [] → q.migfree = n :: r → good n b → let f := leafFrame (s.stackNat b 16)
              ∃ t : State, go 3 = .next t ∧ fills t r o f ∧ t.moveAt p obj page .returning = some ⟨p, obj, page, node, .returning, f, 0⟩)))))

/-- R17, R39, R187, R188, R396, R404 to R409: boot measures an image and names the node; a report is signed; firmware, temperatures and
fences change the package; a partition's start measures its program and gives a station its reset state and root capability, and its end
takes all back. The model's choices: where the power state falls, which teams a cap stops and the frame of a bypass (log entry 39), the
activation of firmware (log entry 40), when a fenced unit has stopped (log entry 153), which units a start takes (log entry 41), all that a partition's end
does (log entry 42),
the first descriptor (log entry 115), and which bytes of a program are measured, and when (log entry 152). -/
def Obligations.service_processor : Prop :=
  (∀ (s : State) (img : List Byte) (node planes : Nat), ∃ t : State, exec (.boot [img] node planes) s = .next t ∧ t.mem = s.mem ∧ t.stns = s.stns ∧
    t.nodeId = node % 1024 ∧ bitsOf t.pkg.fab.fplane 15 0 = planes % 2 ^ 16 ∧ bitsOf t.pkg.fab.fplane 63 16 = bitsOf s.pkg.fab.fplane 63 16 ∧
    t.pkg.svc.measures[0]? = some (sha256 (List.replicate 32 0 ++ sha256 img)) ∧ t.pkg.svc.power = 0 ∧
    t.out = (if s.pkg.svc.power = 0 then s.out else s.out ++ [.power 0]) ∧ ∀ i, 1 ≤ i → i < 18 → t.pkg.svc.measures[i]? = some (List.replicate 32 0)) ∧
  (∀ (s : State) (nonce : List Byte) (parts : List Nat), let r := s.pkg.svc.report nonce parts
    exec (.attestationRequest nonce parts) s = .next { s with out := s.out ++ [.attest r (Config.sign (sha256 r))] }) ∧
  (∀ (s : State) (img m : List Byte) (failed : Bool), s.pkg.svc.measures[0]? = some m → let v := s.pkg.svc
    (∃ t : State, exec (.firmwareActivation ⟨img, none⟩ failed) s = .next t ∧ t.mem = s.mem ∧ t.stns = s.stns ∧ t.pkg.svc.fenced = v.fenced ∧
      t.pkg.svc.pendingFw = some img ∧ t.pkg.svc.failedFw = [] ∧ t.pkg.svc.measures[0]? = some (sha256 (m ++ sha256 img)) ∧
      ∀ i, i ≠ 0 → t.pkg.svc.measures[i]? = v.measures[i]?) ∧
    (∀ u, (u ∉ v.fenced ∨ s.unitStopped u = false ∨ v.pendingFw ≠ some img ∨ u ∈ v.failedFw → exec (.firmwareActivation ⟨img, some u⟩ failed) s = .next s) ∧
      (u ∈ v.fenced → s.unitStopped u = true → v.pendingFw = some img → u ∉ v.failedFw → ∃ t : State, exec (.firmwareActivation ⟨img, some u⟩ failed) s = .next t ∧ (s.mem.soft = [] → t.mem = s.mem) ∧
        t.pkg.svc.measures = v.measures ∧ t.pkg.svc.pendingFw = some img ∧
        (failed = true → t.stns = s.stns ∧ t.pkg.svc.fenced = v.fenced ∧ t.pkg.svc.failedFw = v.failedFw ++ [u]) ∧
        (failed = false → t.pkg.svc.failedFw = v.failedFw ∧ (∀ x, x ∈ t.pkg.svc.fenced ↔ x ∈ v.fenced ∧ x ≠ u) ∧
          (u.1 = 2 → t.planeUp u.2 = true) ∧ (u.1 ≠ 0 → t.stns = s.stns))))) ∧
  (∀ (s : State) (temp : Nat), let old := s.pkg.svc.power.toNat
    let asks := if 115 ≤ temp then 4 else if 105 ≤ temp then 2 else if 95 ≤ temp then 1 else 0
    let low := if old ≠ 0 ∧ 92 ≤ temp then max 1 asks else asks
    old ≤ 4 → ∃ t : State, exec (.thermalThreshold temp) s = .next t ∧ t.mem = s.mem ∧ (let new := t.pkg.svc.power.toNat
      (old < low → new = low) ∧ (low ≤ old → 3 ≤ old → new = old) ∧ (low ≤ old → old < 3 → low ≤ new ∧ new ≤ old ∨ old = 2 ∧ new = 3) ∧
      (new = old → t.out = s.out) ∧ (new ≠ old → new < 3 → t.out = s.out ++ [.power new]) ∧
      (new = 0 ∨ new = 1 ∧ temp < 92 ∨ new = old ∧ 3 ≤ new → t.stns = s.stns) ∧
      (new = 2 → ∀ k, (s.stn k).run.on = true → (s.stn k).pre.st = .run → (t.stn k).pre.st = .pending ∧ (t.stn k).regs = (s.stn k).regs) ∧
      (new ≠ old → 3 ≤ new → t.txns = [] ∧ t.uops = [] ∧ t.pkg.jobs = [] ∧ (∀ k, (t.stn k).run.on = false) ∧
        (s.pkg.ring.up = false → t.out = s.out ++ [.power new]) ∧
        (s.pkg.ring.up = true → ∃ f, t.pkg.ring.transition = some (6, f) ∧ s.cyc < s.fs f ∧ t.out = s.out ++ [.power new, .bypass 0 f])))) ∧
  (∀ (s : State) (unit : Nat), let fenced := fun (kind : Nat) => s.pkg.svc.fenced.filter (· != (kind, unit)) ++ [(kind, unit)]
    (∃ t : State, exec (.unitFencing 0 unit) s = .next t ∧ t.mem = s.mem ∧ t.pkg.svc.fenced = fenced 0 ∧
      ∀ k ∈ s.team (unit / 2048) (unit % 2048), (s.stn k).pre.st = .run → (t.stn k).pre.st = .pending) ∧
    (s.clusterQuiet unit = true → ∃ t : State, exec (.unitFencing 1 unit) s = .next t ∧ t.mem = s.mem ∧ t.stns = s.stns ∧ t.pkg.svc.fenced = fenced 1) ∧
    (s.clusterQuiet unit = false → exec (.unitFencing 1 unit) s = .next s) ∧
    (∃ t : State, exec (.unitFencing 2 unit) s = .next t ∧ t.mem = s.mem ∧ t.stns = s.stns ∧ t.pkg.svc.fenced = fenced 2 ∧
      t.planeUp unit = false ∧ ∀ i : Nat, i % 16 ≠ unit % 16 → t.planeUp i = s.planeUp i) ∧
    (s.pkg.ring.up = true → ∃ (t : State) (f : Nat), exec (.unitFencing 3 unit) s = .next t ∧ t.mem = s.mem ∧ t.stns = s.stns ∧ t.pkg.svc.fenced = fenced 3 ∧
      t.pkg.ring.transition = some (6, f) ∧ s.cyc < s.fs f ∧ t.out = s.out ++ [.bypass 0 f])) ∧
  (∀ (s : State) (p : Nat) (c : PartCfg), let q := s.part p
    (q.on = true ∨ s.pkg.svc.power ≠ 0 → exec (.partitionStart p c) s = .next s) ∧
    (∀ k, q.on = false → s.pkg.svc.power = 0 → c.stns = [k] → (s.stn k).run.on = false → ∃ t : State, exec (.partitionStart p c) s = .next t ∧
      (∀ j, j ≠ k → t.stn j = s.stn j) ∧
      (let i := 2 + p % 16; let img := c.program.map (·.2); let v := s.pkg.svc
       (∀ j, j ≠ i → t.pkg.svc.measures[j]? = v.measures[j]?) ∧ ((i, img) ∈ v.images → t.pkg.svc = v) ∧
         ((i, img) ∉ v.images → (i, img) ∈ t.pkg.svc.images ∧ ∀ m, v.measures[i]? = some m → t.pkg.svc.measures[i]? = some (sha256 (m ++ sha256 img)))) ∧
      (let x := t.part p
       x.on = true ∧ x.otcfg = c.otcfg &&& 0x00FF_FFFF_FFFF_8000#64 ∧ x.pstk = c.pstk &&& 0x0003_FFFF_0003_FFFF#64 ∧
         x.plseed = c.plseed ∧ x.plctl = c.plctl &&& 0x8000_0000_0000_FFFF#64 ∧ x.bindings = c.bindings ∧ x.migcfg = 0x40 ∧ x.stgobj = 0) ∧
      (let h := t.stn k; let start := (s.cyc + 4096 + 2047 - s.phase) / 2048
       h.creg 0 = Cap.make s.nodeId 1 0x7F (descLen (s.stackNat (bitsOf c.otcfg 33 15 * 32768 + 32) 32)) 0 true ∧
         (∀ d : BitVec 4, d ≠ 0 → h.creg d = Cap.null) ∧ h.sys.codecfg = c.codecfg &&& 0xFFFF_0000_000F_FFF8#64 ∧ h.run.on = true ∧ h.run.part = p % 16 ∧
         h.run.startAt = some (s.fs start - 1) ∧ h.run.lag = 0 ∧ h.sys.lagcfg = 0x800 ∧ h.regs.s = Vector.replicate 32 0 ∧
         (s.mem.soft = [] → h.trap = TrapRegs.reset))) ∧
    (q.on = false → exec (.partitionEnd p) s = .next s) ∧
    (q.on = true → ∃ t : State, exec (.partitionEnd p) s = .next t ∧ t.mem = s.mem ∧ t.part p = Partition.reset ∧
      (∀ n : Nat, n % 16 ≠ p % 16 → t.part n = s.part n) ∧
      (∀ r ∈ t.pkg.records, r.part ≠ p % 16) ∧ (∀ j ∈ t.pkg.jobs, j.part ≠ p % 16) ∧ (∀ v ∈ t.pkg.moves, v.part ≠ p % 16) ∧
      (∀ k, (s.stn k).run.on = true → (s.stn k).run.part = p % 16 → t.stn k = Station.reset ∧ ∀ x ∈ t.txns, x.k ≠ k) ∧
      ∀ k, ((s.stn k).run.on = false ∨ (s.stn k).run.part ≠ p % 16) → t.stn k = s.stn k))
/-! ### The machine -/

/-- R169, R213 to R217, R243: the stream released next executes the instruction that its ring words decode to, named with its stamp, program
counter and length; afterwards a stream that no transfer and no loop moves stands at the next word, and one whose instruction trapped
stands still. Words that fail a check trap. A step of a unit is the step itself, and so is a line access of one. -/
def Obligations.step_runs_decoded : Prop :=
  (∀ (s : State) (k : Stn) (e : Engine) (r : List Act), s.todo = .issue k e :: r → let z := { s with todo := r }; let x := (s.stn k).stream e
    let words := z.wordsAt k e x.pc
    (∀ d t, decode e x.first words = .ok d →
      exec d.instr { z with cur := ⟨k, e, x.stamp + d.gap, x.pc, d.len, none⟩, jump := none, stay := false } = .next t → step s = .next t.finishInstr) ∧
    (∀ c, decode e x.first words = .error c → step s = .next (z.decodeTrap k e c))) ∧
  (∀ (t : State), (t.stay = true → t.finishInstr = t) ∧
    (t.stay = false → let k := t.cur.k; let e := t.cur.e; let u := t.finishInstr; let x := (t.stn k).stream e; let y := (u.stn k).stream e
      let lo := (t.stn k).run.lo
      y.stamp = t.cur.stamp ∧ y.first = false ∧ u.mem = t.mem ∧ (u.stn k).regs = (t.stn k).regs ∧ (∀ j, j ≠ k → u.stn j = t.stn j) ∧
        (∀ i, t.jump = some i → y.pc = lo + i ∧ y.loops = x.loops) ∧
        (t.jump = none → (∀ i : Fin 2, x.loops[i.val].ct = 0 ∧ x.loops[i.val].skip = false) → lo ≤ t.cur.pc → y.pc = t.cur.pc + t.cur.len ∧ y.loops = x.loops))) ∧
  (∀ (s : State) (i : Instr) (r : List Act), s.todo = .ev i :: r → step s = exec i { s with todo := r }) ∧
  (∀ (s : State) (id : Nat) (r : List Act), s.todo = .job id :: r → step s = .next (({ s with todo := r } : State).runJob id)) ∧
  (∀ (s : State), s.todo = [] → step s = .next { s with todo := [.phase 0] })

/-- R215, R218 to R222, R226: words written out bit by bit from the encoding tables decode to the instructions that they stand for. -/
def Obligations.words_decode : Prop :=
  decode .conductor false [(0x0981_4014#32, false)] = .ok ⟨1, .beq 5 0 20, 1⟩ ∧
  decode .vector false [(0x0800_A30F#32, false), (0xBE00_0000#32, true)] = .ok ⟨1, .vadd 5 6 7 (some ⟨1, 3, 0xE, 0, 0⟩), 2⟩ ∧
  decode .vector false [(0x0818_8084#32, false)] = .ok ⟨1, .vfma 4 1 2 none, 1⟩ ∧
  decode .conductor false [(0x0AC0_0663#32, false)] = .ok ⟨1, .board 0 3 6 3, 1⟩

/-- R215 to R220, R222: decoding the words of a well-formed instruction gives the instruction, with its gap and its length, whatever
instruction follows it; and with a prefix before it, the prefix. -/
def Obligations.decode_encode : Prop :=
  ∀ (e : Engine) (first : Bool) (gap : Nat) (i : Instr) (ws rest : List (Word × Bool)), i.wf = true → gap < 2 ^ 32 → (gap = 0 → first = true) →
    (∀ c r, rest = c :: r → c.2 = false) → encode gap i = some (e.space, ws) →
      decode e first (ws ++ rest) = .ok ⟨gap, i, ws.length⟩ ∧
      ∀ p n d a b, (Instr.rpt p n d a b).wf = true → i.noRepeat = false →
        decode e first ((encodePrefix p n d a b, false) :: (ws ++ rest)) = .ok ⟨gap, .rpt p n d a b, ws.length + 1⟩

/-- R5, R6: the machine always goes on: from every state a step leads to a next state. -/
def Obligations.step_completes : Prop := ∀ (s : State), ∃ t : State, step s = .next t

/-- R22: no step makes memory lose its canonical form, in which every byte has one value. -/
def Obligations.step_keeps_memory : Prop := ∀ (s t : State), s.Inv → step s = .next t → t.Inv

/-- Memory after reset is in its canonical form. -/
def Obligations.reset_memory : Prop := State.reset.Inv

/-- R15, R44, R54, R76, R117, R157, R177, R185, R188, R298, R314, R334, R358, R381, R389, R391, R404: what reset leaves where the spec gives
a value: untagged capabilities, idle bays with zero bytes, empty tiles, lowered semaphores, and registers with a stated value. -/
def Obligations.reset_values : Prop :=
  (∀ (k : Stn), let h := State.reset.stn k
    (∀ d, (h.creg d).tag = false) ∧ (∀ b, h.bay b = ⟨0, .idle, false⟩) ∧ h.regs.hs = 0 ∧ (∀ t r c : Nat, (h.tile (BitVec.ofNat 3 t)).elem r c = none) ∧
      h.run.on = false ∧ h.sys.lagcfg = 0x800 ∧ bitsOf h.sys.blane 4 0 = 15 ∧ bitsOf h.sys.blane 9 5 = 31 ∧
      (∀ i : Fin 16, h.sys.rowmap[i.val] = 0xFFFF_FFFF_FFFF_FFFF) ∧
      (∀ u, bitsOf (h.scaleUnit u).cfg 47 32 = 0x800 ∧ bitsOf (h.scaleUnit u).cfg 31 16 = 0x100 ∧ bitsOf (h.scaleUnit u).cfg 1 0 = 1) ∧
      h.mat.hscl = 0x3F80_0000 ∧ h.tap.tw = 12 ∧ h.trap.tssel = 1 ∧ bitsOf h.trap.rpcfg 47 32 = 1 ∧ bitsOf h.trap.exlcfg 56 52 = 12 ∧
      bitOf h.trap.exlcfg 63 = false ∧ bitOf h.trap.tvec 63 = false) ∧
  (∀ p, (State.reset.part p).on = false ∧ bitsOf (State.reset.part p).migcfg 15 0 = 0x40) ∧ State.reset.pkg.fab.fabto = 3000000 ∧
  State.reset.pkg.svc.measures = List.replicate 18 (List.replicate 32 0)

end
end

