-- ==== Sys2Proof/Laws/State.lean ====
section
/-!
SUPPORT. One lemma for each field of the state and each named update of it, true by unfolding, so that no proof unfolds a record
update.
-/

namespace Sys2Proof.Machine

/-! ### `State.setStn` -/

@[simp] theorem State.setStn_cyc (s : State) (k : Stn) (t : Station) :
    (s.setStn k t).cyc = s.cyc := rfl
@[simp] theorem State.setStn_stns (s : State) (k : Stn) (t : Station) :
    (s.setStn k t).stns = s.stns.set k.val t := rfl
@[simp] theorem State.setStn_mem (s : State) (k : Stn) (t : Station) :
    (s.setStn k t).mem = s.mem := rfl
@[simp] theorem State.setStn_pkg (s : State) (k : Stn) (t : Station) :
    (s.setStn k t).pkg = s.pkg := rfl
@[simp] theorem State.setStn_txns (s : State) (k : Stn) (t : Station) :
    (s.setStn k t).txns = s.txns := rfl
@[simp] theorem State.setStn_beats (s : State) (k : Stn) (t : Station) :
    (s.setStn k t).beats = s.beats := rfl
@[simp] theorem State.setStn_uops (s : State) (k : Stn) (t : Station) :
    (s.setStn k t).uops = s.uops := rfl
@[simp] theorem State.setStn_markers (s : State) (k : Stn) (t : Station) :
    (s.setStn k t).markers = s.markers := rfl
@[simp] theorem State.setStn_seq (s : State) (k : Stn) (t : Station) :
    (s.setStn k t).seq = s.seq := rfl
@[simp] theorem State.setStn_nextId (s : State) (k : Stn) (t : Station) :
    (s.setStn k t).nextId = s.nextId := rfl
@[simp] theorem State.setStn_inbox (s : State) (k : Stn) (t : Station) :
    (s.setStn k t).inbox = s.inbox := rfl
@[simp] theorem State.setStn_out (s : State) (k : Stn) (t : Station) :
    (s.setStn k t).out = s.out := rfl
@[simp] theorem State.setStn_todo (s : State) (k : Stn) (t : Station) :
    (s.setStn k t).todo = s.todo := rfl
@[simp] theorem State.setStn_cur (s : State) (k : Stn) (t : Station) :
    (s.setStn k t).cur = s.cur := rfl
@[simp] theorem State.setStn_jump (s : State) (k : Stn) (t : Station) :
    (s.setStn k t).jump = s.jump := rfl
@[simp] theorem State.setStn_stay (s : State) (k : Stn) (t : Station) :
    (s.setStn k t).stay = s.stay := rfl
@[simp] theorem State.setStn_served (s : State) (k : Stn) (t : Station) :
    (s.setStn k t).served = s.served := rfl
@[simp] theorem State.setStn_freeCount (s : State) (k : Stn) (t : Station) :
    (s.setStn k t).freeCount = s.freeCount := rfl

/-! ### `State.onStn` -/

@[simp] theorem State.onStn_cyc (s : State) (k : Stn) (f : Station → Station) :
    (s.onStn k f).cyc = s.cyc := rfl
@[simp] theorem State.onStn_stns (s : State) (k : Stn) (f : Station → Station) :
    (s.onStn k f).stns = s.stns.set k.val (f (s.stn k)) := rfl
@[simp] theorem State.onStn_mem (s : State) (k : Stn) (f : Station → Station) :
    (s.onStn k f).mem = s.mem := rfl
@[simp] theorem State.onStn_pkg (s : State) (k : Stn) (f : Station → Station) :
    (s.onStn k f).pkg = s.pkg := rfl
@[simp] theorem State.onStn_txns (s : State) (k : Stn) (f : Station → Station) :
    (s.onStn k f).txns = s.txns := rfl
@[simp] theorem State.onStn_beats (s : State) (k : Stn) (f : Station → Station) :
    (s.onStn k f).beats = s.beats := rfl
@[simp] theorem State.onStn_uops (s : State) (k : Stn) (f : Station → Station) :
    (s.onStn k f).uops = s.uops := rfl
@[simp] theorem State.onStn_markers (s : State) (k : Stn) (f : Station → Station) :
    (s.onStn k f).markers = s.markers := rfl
@[simp] theorem State.onStn_seq (s : State) (k : Stn) (f : Station → Station) :
    (s.onStn k f).seq = s.seq := rfl
@[simp] theorem State.onStn_nextId (s : State) (k : Stn) (f : Station → Station) :
    (s.onStn k f).nextId = s.nextId := rfl
@[simp] theorem State.onStn_inbox (s : State) (k : Stn) (f : Station → Station) :
    (s.onStn k f).inbox = s.inbox := rfl
@[simp] theorem State.onStn_out (s : State) (k : Stn) (f : Station → Station) :
    (s.onStn k f).out = s.out := rfl
@[simp] theorem State.onStn_todo (s : State) (k : Stn) (f : Station → Station) :
    (s.onStn k f).todo = s.todo := rfl
@[simp] theorem State.onStn_cur (s : State) (k : Stn) (f : Station → Station) :
    (s.onStn k f).cur = s.cur := rfl
@[simp] theorem State.onStn_jump (s : State) (k : Stn) (f : Station → Station) :
    (s.onStn k f).jump = s.jump := rfl
@[simp] theorem State.onStn_stay (s : State) (k : Stn) (f : Station → Station) :
    (s.onStn k f).stay = s.stay := rfl
@[simp] theorem State.onStn_served (s : State) (k : Stn) (f : Station → Station) :
    (s.onStn k f).served = s.served := rfl
@[simp] theorem State.onStn_freeCount (s : State) (k : Stn) (f : Station → Station) :
    (s.onStn k f).freeCount = s.freeCount := rfl

/-! ### `State.onHere` -/

@[simp] theorem State.onHere_cyc (s : State) (f : Station → Station) :
    (s.onHere f).cyc = s.cyc := rfl
@[simp] theorem State.onHere_stns (s : State) (f : Station → Station) :
    (s.onHere f).stns = s.stns.set s.cur.k.val (f s.here) := rfl
@[simp] theorem State.onHere_mem (s : State) (f : Station → Station) :
    (s.onHere f).mem = s.mem := rfl
@[simp] theorem State.onHere_pkg (s : State) (f : Station → Station) :
    (s.onHere f).pkg = s.pkg := rfl
@[simp] theorem State.onHere_txns (s : State) (f : Station → Station) :
    (s.onHere f).txns = s.txns := rfl
@[simp] theorem State.onHere_beats (s : State) (f : Station → Station) :
    (s.onHere f).beats = s.beats := rfl
@[simp] theorem State.onHere_uops (s : State) (f : Station → Station) :
    (s.onHere f).uops = s.uops := rfl
@[simp] theorem State.onHere_markers (s : State) (f : Station → Station) :
    (s.onHere f).markers = s.markers := rfl
@[simp] theorem State.onHere_seq (s : State) (f : Station → Station) :
    (s.onHere f).seq = s.seq := rfl
@[simp] theorem State.onHere_nextId (s : State) (f : Station → Station) :
    (s.onHere f).nextId = s.nextId := rfl
@[simp] theorem State.onHere_inbox (s : State) (f : Station → Station) :
    (s.onHere f).inbox = s.inbox := rfl
@[simp] theorem State.onHere_out (s : State) (f : Station → Station) :
    (s.onHere f).out = s.out := rfl
@[simp] theorem State.onHere_todo (s : State) (f : Station → Station) :
    (s.onHere f).todo = s.todo := rfl
@[simp] theorem State.onHere_cur (s : State) (f : Station → Station) :
    (s.onHere f).cur = s.cur := rfl
@[simp] theorem State.onHere_jump (s : State) (f : Station → Station) :
    (s.onHere f).jump = s.jump := rfl
@[simp] theorem State.onHere_stay (s : State) (f : Station → Station) :
    (s.onHere f).stay = s.stay := rfl
@[simp] theorem State.onHere_served (s : State) (f : Station → Station) :
    (s.onHere f).served = s.served := rfl
@[simp] theorem State.onHere_freeCount (s : State) (f : Station → Station) :
    (s.onHere f).freeCount = s.freeCount := rfl

/-! ### `State.after` -/

@[simp] theorem State.after_cyc (s : State) (n : Nat) (e : Eff) :
    (s.after n e).cyc = s.cyc := rfl
@[simp] theorem State.after_mem (s : State) (n : Nat) (e : Eff) :
    (s.after n e).mem = s.mem := rfl
@[simp] theorem State.after_pkg (s : State) (n : Nat) (e : Eff) :
    (s.after n e).pkg = s.pkg := rfl
@[simp] theorem State.after_txns (s : State) (n : Nat) (e : Eff) :
    (s.after n e).txns = s.txns := rfl
@[simp] theorem State.after_beats (s : State) (n : Nat) (e : Eff) :
    (s.after n e).beats = s.beats := rfl
@[simp] theorem State.after_uops (s : State) (n : Nat) (e : Eff) :
    (s.after n e).uops = s.uops := rfl
@[simp] theorem State.after_markers (s : State) (n : Nat) (e : Eff) :
    (s.after n e).markers = s.markers := rfl
@[simp] theorem State.after_seq (s : State) (n : Nat) (e : Eff) :
    (s.after n e).seq = s.seq := rfl
@[simp] theorem State.after_nextId (s : State) (n : Nat) (e : Eff) :
    (s.after n e).nextId = s.nextId := rfl
@[simp] theorem State.after_inbox (s : State) (n : Nat) (e : Eff) :
    (s.after n e).inbox = s.inbox := rfl
@[simp] theorem State.after_out (s : State) (n : Nat) (e : Eff) :
    (s.after n e).out = s.out := rfl
@[simp] theorem State.after_todo (s : State) (n : Nat) (e : Eff) :
    (s.after n e).todo = s.todo := rfl
@[simp] theorem State.after_cur (s : State) (n : Nat) (e : Eff) :
    (s.after n e).cur = s.cur := rfl
@[simp] theorem State.after_jump (s : State) (n : Nat) (e : Eff) :
    (s.after n e).jump = s.jump := rfl
@[simp] theorem State.after_stay (s : State) (n : Nat) (e : Eff) :
    (s.after n e).stay = s.stay := rfl
@[simp] theorem State.after_served (s : State) (n : Nat) (e : Eff) :
    (s.after n e).served = s.served := rfl
@[simp] theorem State.after_freeCount (s : State) (n : Nat) (e : Eff) :
    (s.after n e).freeCount = s.freeCount := rfl

/-! ### `State.putS` -/

@[simp] theorem State.putS_cyc (s : State) (d : BitVec 5) (v : DWord) (n : Nat) :
    (s.putS d v n).cyc = s.cyc := rfl
@[simp] theorem State.putS_mem (s : State) (d : BitVec 5) (v : DWord) (n : Nat) :
    (s.putS d v n).mem = s.mem := rfl
@[simp] theorem State.putS_pkg (s : State) (d : BitVec 5) (v : DWord) (n : Nat) :
    (s.putS d v n).pkg = s.pkg := rfl
@[simp] theorem State.putS_txns (s : State) (d : BitVec 5) (v : DWord) (n : Nat) :
    (s.putS d v n).txns = s.txns := rfl
@[simp] theorem State.putS_beats (s : State) (d : BitVec 5) (v : DWord) (n : Nat) :
    (s.putS d v n).beats = s.beats := rfl
@[simp] theorem State.putS_uops (s : State) (d : BitVec 5) (v : DWord) (n : Nat) :
    (s.putS d v n).uops = s.uops := rfl
@[simp] theorem State.putS_markers (s : State) (d : BitVec 5) (v : DWord) (n : Nat) :
    (s.putS d v n).markers = s.markers := rfl
@[simp] theorem State.putS_seq (s : State) (d : BitVec 5) (v : DWord) (n : Nat) :
    (s.putS d v n).seq = s.seq := rfl
@[simp] theorem State.putS_nextId (s : State) (d : BitVec 5) (v : DWord) (n : Nat) :
    (s.putS d v n).nextId = s.nextId := rfl
@[simp] theorem State.putS_inbox (s : State) (d : BitVec 5) (v : DWord) (n : Nat) :
    (s.putS d v n).inbox = s.inbox := rfl
@[simp] theorem State.putS_out (s : State) (d : BitVec 5) (v : DWord) (n : Nat) :
    (s.putS d v n).out = s.out := rfl
@[simp] theorem State.putS_todo (s : State) (d : BitVec 5) (v : DWord) (n : Nat) :
    (s.putS d v n).todo = s.todo := rfl
@[simp] theorem State.putS_cur (s : State) (d : BitVec 5) (v : DWord) (n : Nat) :
    (s.putS d v n).cur = s.cur := rfl
@[simp] theorem State.putS_jump (s : State) (d : BitVec 5) (v : DWord) (n : Nat) :
    (s.putS d v n).jump = s.jump := rfl
@[simp] theorem State.putS_stay (s : State) (d : BitVec 5) (v : DWord) (n : Nat) :
    (s.putS d v n).stay = s.stay := rfl
@[simp] theorem State.putS_served (s : State) (d : BitVec 5) (v : DWord) (n : Nat) :
    (s.putS d v n).served = s.served := rfl
@[simp] theorem State.putS_freeCount (s : State) (d : BitVec 5) (v : DWord) (n : Nat) :
    (s.putS d v n).freeCount = s.freeCount := rfl

/-! ### `State.putC` -/

@[simp] theorem State.putC_cyc (s : State) (d : BitVec 4) (c : Cap) :
    (s.putC d c).cyc = s.cyc := rfl
@[simp] theorem State.putC_mem (s : State) (d : BitVec 4) (c : Cap) :
    (s.putC d c).mem = s.mem := rfl
@[simp] theorem State.putC_pkg (s : State) (d : BitVec 4) (c : Cap) :
    (s.putC d c).pkg = s.pkg := rfl
@[simp] theorem State.putC_txns (s : State) (d : BitVec 4) (c : Cap) :
    (s.putC d c).txns = s.txns := rfl
@[simp] theorem State.putC_beats (s : State) (d : BitVec 4) (c : Cap) :
    (s.putC d c).beats = s.beats := rfl
@[simp] theorem State.putC_uops (s : State) (d : BitVec 4) (c : Cap) :
    (s.putC d c).uops = s.uops := rfl
@[simp] theorem State.putC_markers (s : State) (d : BitVec 4) (c : Cap) :
    (s.putC d c).markers = s.markers := rfl
@[simp] theorem State.putC_seq (s : State) (d : BitVec 4) (c : Cap) :
    (s.putC d c).seq = s.seq := rfl
@[simp] theorem State.putC_nextId (s : State) (d : BitVec 4) (c : Cap) :
    (s.putC d c).nextId = s.nextId := rfl
@[simp] theorem State.putC_inbox (s : State) (d : BitVec 4) (c : Cap) :
    (s.putC d c).inbox = s.inbox := rfl
@[simp] theorem State.putC_out (s : State) (d : BitVec 4) (c : Cap) :
    (s.putC d c).out = s.out := rfl
@[simp] theorem State.putC_todo (s : State) (d : BitVec 4) (c : Cap) :
    (s.putC d c).todo = s.todo := rfl
@[simp] theorem State.putC_cur (s : State) (d : BitVec 4) (c : Cap) :
    (s.putC d c).cur = s.cur := rfl
@[simp] theorem State.putC_jump (s : State) (d : BitVec 4) (c : Cap) :
    (s.putC d c).jump = s.jump := rfl
@[simp] theorem State.putC_stay (s : State) (d : BitVec 4) (c : Cap) :
    (s.putC d c).stay = s.stay := rfl
@[simp] theorem State.putC_served (s : State) (d : BitVec 4) (c : Cap) :
    (s.putC d c).served = s.served := rfl
@[simp] theorem State.putC_freeCount (s : State) (d : BitVec 4) (c : Cap) :
    (s.putC d c).freeCount = s.freeCount := rfl

/-! ### `State.goto` -/

@[simp] theorem State.goto_cyc (s : State) (i : Nat) :
    (s.goto i).cyc = s.cyc := rfl
@[simp] theorem State.goto_stns (s : State) (i : Nat) :
    (s.goto i).stns = s.stns := rfl
@[simp] theorem State.goto_mem (s : State) (i : Nat) :
    (s.goto i).mem = s.mem := rfl
@[simp] theorem State.goto_pkg (s : State) (i : Nat) :
    (s.goto i).pkg = s.pkg := rfl
@[simp] theorem State.goto_txns (s : State) (i : Nat) :
    (s.goto i).txns = s.txns := rfl
@[simp] theorem State.goto_beats (s : State) (i : Nat) :
    (s.goto i).beats = s.beats := rfl
@[simp] theorem State.goto_uops (s : State) (i : Nat) :
    (s.goto i).uops = s.uops := rfl
@[simp] theorem State.goto_markers (s : State) (i : Nat) :
    (s.goto i).markers = s.markers := rfl
@[simp] theorem State.goto_seq (s : State) (i : Nat) :
    (s.goto i).seq = s.seq := rfl
@[simp] theorem State.goto_nextId (s : State) (i : Nat) :
    (s.goto i).nextId = s.nextId := rfl
@[simp] theorem State.goto_inbox (s : State) (i : Nat) :
    (s.goto i).inbox = s.inbox := rfl
@[simp] theorem State.goto_out (s : State) (i : Nat) :
    (s.goto i).out = s.out := rfl
@[simp] theorem State.goto_todo (s : State) (i : Nat) :
    (s.goto i).todo = s.todo := rfl
@[simp] theorem State.goto_cur (s : State) (i : Nat) :
    (s.goto i).cur = s.cur := rfl
@[simp] theorem State.goto_jump (s : State) (i : Nat) :
    (s.goto i).jump = some i := rfl
@[simp] theorem State.goto_stay (s : State) (i : Nat) :
    (s.goto i).stay = s.stay := rfl
@[simp] theorem State.goto_served (s : State) (i : Nat) :
    (s.goto i).served = s.served := rfl
@[simp] theorem State.goto_freeCount (s : State) (i : Nat) :
    (s.goto i).freeCount = s.freeCount := rfl

/-! ### `State.defer` -/

@[simp] theorem State.defer_cyc (s : State) (a : Act) :
    (s.defer a).cyc = s.cyc := rfl
@[simp] theorem State.defer_stns (s : State) (a : Act) :
    (s.defer a).stns = s.stns := rfl
@[simp] theorem State.defer_mem (s : State) (a : Act) :
    (s.defer a).mem = s.mem := rfl
@[simp] theorem State.defer_pkg (s : State) (a : Act) :
    (s.defer a).pkg = s.pkg := rfl
@[simp] theorem State.defer_txns (s : State) (a : Act) :
    (s.defer a).txns = s.txns := rfl
@[simp] theorem State.defer_beats (s : State) (a : Act) :
    (s.defer a).beats = s.beats := rfl
@[simp] theorem State.defer_uops (s : State) (a : Act) :
    (s.defer a).uops = s.uops := rfl
@[simp] theorem State.defer_markers (s : State) (a : Act) :
    (s.defer a).markers = s.markers := rfl
@[simp] theorem State.defer_seq (s : State) (a : Act) :
    (s.defer a).seq = s.seq := rfl
@[simp] theorem State.defer_nextId (s : State) (a : Act) :
    (s.defer a).nextId = s.nextId := rfl
@[simp] theorem State.defer_inbox (s : State) (a : Act) :
    (s.defer a).inbox = s.inbox := rfl
@[simp] theorem State.defer_out (s : State) (a : Act) :
    (s.defer a).out = s.out := rfl
@[simp] theorem State.defer_todo (s : State) (a : Act) :
    (s.defer a).todo = s.todo ++ [a] := rfl
@[simp] theorem State.defer_cur (s : State) (a : Act) :
    (s.defer a).cur = s.cur := rfl
@[simp] theorem State.defer_jump (s : State) (a : Act) :
    (s.defer a).jump = s.jump := rfl
@[simp] theorem State.defer_stay (s : State) (a : Act) :
    (s.defer a).stay = s.stay := rfl
@[simp] theorem State.defer_served (s : State) (a : Act) :
    (s.defer a).served = s.served := rfl
@[simp] theorem State.defer_freeCount (s : State) (a : Act) :
    (s.defer a).freeCount = s.freeCount := rfl

/-! ### `State.poke` -/

@[simp] theorem State.poke_cyc (s : State) (a : Nat) (bs : List Byte) :
    (s.poke a bs).cyc = s.cyc := rfl
@[simp] theorem State.poke_stns (s : State) (a : Nat) (bs : List Byte) :
    (s.poke a bs).stns = s.stns := rfl
@[simp] theorem State.poke_mem (s : State) (a : Nat) (bs : List Byte) :
    (s.poke a bs).mem = s.mem.writeN a bs := rfl
@[simp] theorem State.poke_pkg (s : State) (a : Nat) (bs : List Byte) :
    (s.poke a bs).pkg = s.pkg := rfl
@[simp] theorem State.poke_txns (s : State) (a : Nat) (bs : List Byte) :
    (s.poke a bs).txns = s.txns := rfl
@[simp] theorem State.poke_beats (s : State) (a : Nat) (bs : List Byte) :
    (s.poke a bs).beats = s.beats := rfl
@[simp] theorem State.poke_uops (s : State) (a : Nat) (bs : List Byte) :
    (s.poke a bs).uops = s.uops := rfl
@[simp] theorem State.poke_markers (s : State) (a : Nat) (bs : List Byte) :
    (s.poke a bs).markers = s.markers := rfl
@[simp] theorem State.poke_seq (s : State) (a : Nat) (bs : List Byte) :
    (s.poke a bs).seq = s.seq := rfl
@[simp] theorem State.poke_nextId (s : State) (a : Nat) (bs : List Byte) :
    (s.poke a bs).nextId = s.nextId := rfl
@[simp] theorem State.poke_inbox (s : State) (a : Nat) (bs : List Byte) :
    (s.poke a bs).inbox = s.inbox := rfl
@[simp] theorem State.poke_out (s : State) (a : Nat) (bs : List Byte) :
    (s.poke a bs).out = s.out := rfl
@[simp] theorem State.poke_todo (s : State) (a : Nat) (bs : List Byte) :
    (s.poke a bs).todo = s.todo := rfl
@[simp] theorem State.poke_cur (s : State) (a : Nat) (bs : List Byte) :
    (s.poke a bs).cur = s.cur := rfl
@[simp] theorem State.poke_jump (s : State) (a : Nat) (bs : List Byte) :
    (s.poke a bs).jump = s.jump := rfl
@[simp] theorem State.poke_stay (s : State) (a : Nat) (bs : List Byte) :
    (s.poke a bs).stay = s.stay := rfl
@[simp] theorem State.poke_served (s : State) (a : Nat) (bs : List Byte) :
    (s.poke a bs).served = s.served := rfl
@[simp] theorem State.poke_freeCount (s : State) (a : Nat) (bs : List Byte) :
    (s.poke a bs).freeCount = s.freeCount := rfl

/-! ### `State.draw` -/

@[simp] theorem State.draw_cyc (s : State) :
    ((s.draw).2).cyc = s.cyc := rfl
@[simp] theorem State.draw_stns (s : State) :
    ((s.draw).2).stns = s.stns := rfl
@[simp] theorem State.draw_mem (s : State) :
    ((s.draw).2).mem = s.mem := rfl
@[simp] theorem State.draw_pkg (s : State) :
    ((s.draw).2).pkg = s.pkg := rfl
@[simp] theorem State.draw_txns (s : State) :
    ((s.draw).2).txns = s.txns := rfl
@[simp] theorem State.draw_beats (s : State) :
    ((s.draw).2).beats = s.beats := rfl
@[simp] theorem State.draw_uops (s : State) :
    ((s.draw).2).uops = s.uops := rfl
@[simp] theorem State.draw_markers (s : State) :
    ((s.draw).2).markers = s.markers := rfl
@[simp] theorem State.draw_seq (s : State) :
    ((s.draw).2).seq = s.seq := rfl
@[simp] theorem State.draw_nextId (s : State) :
    ((s.draw).2).nextId = s.nextId := rfl
@[simp] theorem State.draw_inbox (s : State) :
    ((s.draw).2).inbox = s.inbox := rfl
@[simp] theorem State.draw_out (s : State) :
    ((s.draw).2).out = s.out := rfl
@[simp] theorem State.draw_todo (s : State) :
    ((s.draw).2).todo = s.todo := rfl
@[simp] theorem State.draw_cur (s : State) :
    ((s.draw).2).cur = s.cur := rfl
@[simp] theorem State.draw_jump (s : State) :
    ((s.draw).2).jump = s.jump := rfl
@[simp] theorem State.draw_stay (s : State) :
    ((s.draw).2).stay = s.stay := rfl
@[simp] theorem State.draw_served (s : State) :
    ((s.draw).2).served = s.served := rfl
@[simp] theorem State.draw_freeCount (s : State) :
    ((s.draw).2).freeCount = s.freeCount + 1 := rfl

/-! ### `State.drawLine` -/

@[simp] theorem State.drawLine_cyc (s : State) :
    ((s.drawLine).2).cyc = s.cyc := rfl
@[simp] theorem State.drawLine_stns (s : State) :
    ((s.drawLine).2).stns = s.stns := rfl
@[simp] theorem State.drawLine_mem (s : State) :
    ((s.drawLine).2).mem = s.mem := rfl
@[simp] theorem State.drawLine_pkg (s : State) :
    ((s.drawLine).2).pkg = s.pkg := rfl
@[simp] theorem State.drawLine_txns (s : State) :
    ((s.drawLine).2).txns = s.txns := rfl
@[simp] theorem State.drawLine_beats (s : State) :
    ((s.drawLine).2).beats = s.beats := rfl
@[simp] theorem State.drawLine_uops (s : State) :
    ((s.drawLine).2).uops = s.uops := rfl
@[simp] theorem State.drawLine_markers (s : State) :
    ((s.drawLine).2).markers = s.markers := rfl
@[simp] theorem State.drawLine_seq (s : State) :
    ((s.drawLine).2).seq = s.seq := rfl
@[simp] theorem State.drawLine_nextId (s : State) :
    ((s.drawLine).2).nextId = s.nextId := rfl
@[simp] theorem State.drawLine_inbox (s : State) :
    ((s.drawLine).2).inbox = s.inbox := rfl
@[simp] theorem State.drawLine_out (s : State) :
    ((s.drawLine).2).out = s.out := rfl
@[simp] theorem State.drawLine_todo (s : State) :
    ((s.drawLine).2).todo = s.todo := rfl
@[simp] theorem State.drawLine_cur (s : State) :
    ((s.drawLine).2).cur = s.cur := rfl
@[simp] theorem State.drawLine_jump (s : State) :
    ((s.drawLine).2).jump = s.jump := rfl
@[simp] theorem State.drawLine_stay (s : State) :
    ((s.drawLine).2).stay = s.stay := rfl
@[simp] theorem State.drawLine_served (s : State) :
    ((s.drawLine).2).served = s.served := rfl
@[simp] theorem State.drawLine_freeCount (s : State) :
    ((s.drawLine).2).freeCount = s.freeCount + 1 := rfl

/-! ### `State.onPart` -/

@[simp] theorem State.onPart_cyc (s : State) (p : Nat) (f : Partition → Partition) :
    (s.onPart p f).cyc = s.cyc := rfl
@[simp] theorem State.onPart_stns (s : State) (p : Nat) (f : Partition → Partition) :
    (s.onPart p f).stns = s.stns := rfl
@[simp] theorem State.onPart_mem (s : State) (p : Nat) (f : Partition → Partition) :
    (s.onPart p f).mem = s.mem := rfl
@[simp] theorem State.onPart_txns (s : State) (p : Nat) (f : Partition → Partition) :
    (s.onPart p f).txns = s.txns := rfl
@[simp] theorem State.onPart_beats (s : State) (p : Nat) (f : Partition → Partition) :
    (s.onPart p f).beats = s.beats := rfl
@[simp] theorem State.onPart_uops (s : State) (p : Nat) (f : Partition → Partition) :
    (s.onPart p f).uops = s.uops := rfl
@[simp] theorem State.onPart_markers (s : State) (p : Nat) (f : Partition → Partition) :
    (s.onPart p f).markers = s.markers := rfl
@[simp] theorem State.onPart_seq (s : State) (p : Nat) (f : Partition → Partition) :
    (s.onPart p f).seq = s.seq := rfl
@[simp] theorem State.onPart_nextId (s : State) (p : Nat) (f : Partition → Partition) :
    (s.onPart p f).nextId = s.nextId := rfl
@[simp] theorem State.onPart_inbox (s : State) (p : Nat) (f : Partition → Partition) :
    (s.onPart p f).inbox = s.inbox := rfl
@[simp] theorem State.onPart_out (s : State) (p : Nat) (f : Partition → Partition) :
    (s.onPart p f).out = s.out := rfl
@[simp] theorem State.onPart_todo (s : State) (p : Nat) (f : Partition → Partition) :
    (s.onPart p f).todo = s.todo := rfl
@[simp] theorem State.onPart_cur (s : State) (p : Nat) (f : Partition → Partition) :
    (s.onPart p f).cur = s.cur := rfl
@[simp] theorem State.onPart_jump (s : State) (p : Nat) (f : Partition → Partition) :
    (s.onPart p f).jump = s.jump := rfl
@[simp] theorem State.onPart_stay (s : State) (p : Nat) (f : Partition → Partition) :
    (s.onPart p f).stay = s.stay := rfl
@[simp] theorem State.onPart_served (s : State) (p : Nat) (f : Partition → Partition) :
    (s.onPart p f).served = s.served := rfl
@[simp] theorem State.onPart_freeCount (s : State) (p : Nat) (f : Partition → Partition) :
    (s.onPart p f).freeCount = s.freeCount := rfl

/-! ### `State.onRing` -/

@[simp] theorem State.onRing_cyc (s : State) (f : Ring → Ring) :
    (s.onRing f).cyc = s.cyc := rfl
@[simp] theorem State.onRing_stns (s : State) (f : Ring → Ring) :
    (s.onRing f).stns = s.stns := rfl
@[simp] theorem State.onRing_mem (s : State) (f : Ring → Ring) :
    (s.onRing f).mem = s.mem := rfl
@[simp] theorem State.onRing_pkg (s : State) (f : Ring → Ring) :
    (s.onRing f).pkg = { s.pkg with ring := f s.pkg.ring } := rfl
@[simp] theorem State.onRing_txns (s : State) (f : Ring → Ring) :
    (s.onRing f).txns = s.txns := rfl
@[simp] theorem State.onRing_beats (s : State) (f : Ring → Ring) :
    (s.onRing f).beats = s.beats := rfl
@[simp] theorem State.onRing_uops (s : State) (f : Ring → Ring) :
    (s.onRing f).uops = s.uops := rfl
@[simp] theorem State.onRing_markers (s : State) (f : Ring → Ring) :
    (s.onRing f).markers = s.markers := rfl
@[simp] theorem State.onRing_seq (s : State) (f : Ring → Ring) :
    (s.onRing f).seq = s.seq := rfl
@[simp] theorem State.onRing_nextId (s : State) (f : Ring → Ring) :
    (s.onRing f).nextId = s.nextId := rfl
@[simp] theorem State.onRing_inbox (s : State) (f : Ring → Ring) :
    (s.onRing f).inbox = s.inbox := rfl
@[simp] theorem State.onRing_out (s : State) (f : Ring → Ring) :
    (s.onRing f).out = s.out := rfl
@[simp] theorem State.onRing_todo (s : State) (f : Ring → Ring) :
    (s.onRing f).todo = s.todo := rfl
@[simp] theorem State.onRing_cur (s : State) (f : Ring → Ring) :
    (s.onRing f).cur = s.cur := rfl
@[simp] theorem State.onRing_jump (s : State) (f : Ring → Ring) :
    (s.onRing f).jump = s.jump := rfl
@[simp] theorem State.onRing_stay (s : State) (f : Ring → Ring) :
    (s.onRing f).stay = s.stay := rfl
@[simp] theorem State.onRing_served (s : State) (f : Ring → Ring) :
    (s.onRing f).served = s.served := rfl
@[simp] theorem State.onRing_freeCount (s : State) (f : Ring → Ring) :
    (s.onRing f).freeCount = s.freeCount := rfl

/-! ### `State.onFab` -/

@[simp] theorem State.onFab_cyc (s : State) (f : Fabric → Fabric) :
    (s.onFab f).cyc = s.cyc := rfl
@[simp] theorem State.onFab_stns (s : State) (f : Fabric → Fabric) :
    (s.onFab f).stns = s.stns := rfl
@[simp] theorem State.onFab_mem (s : State) (f : Fabric → Fabric) :
    (s.onFab f).mem = s.mem := rfl
@[simp] theorem State.onFab_pkg (s : State) (f : Fabric → Fabric) :
    (s.onFab f).pkg = { s.pkg with fab := f s.pkg.fab } := rfl
@[simp] theorem State.onFab_txns (s : State) (f : Fabric → Fabric) :
    (s.onFab f).txns = s.txns := rfl
@[simp] theorem State.onFab_beats (s : State) (f : Fabric → Fabric) :
    (s.onFab f).beats = s.beats := rfl
@[simp] theorem State.onFab_uops (s : State) (f : Fabric → Fabric) :
    (s.onFab f).uops = s.uops := rfl
@[simp] theorem State.onFab_markers (s : State) (f : Fabric → Fabric) :
    (s.onFab f).markers = s.markers := rfl
@[simp] theorem State.onFab_seq (s : State) (f : Fabric → Fabric) :
    (s.onFab f).seq = s.seq := rfl
@[simp] theorem State.onFab_nextId (s : State) (f : Fabric → Fabric) :
    (s.onFab f).nextId = s.nextId := rfl
@[simp] theorem State.onFab_inbox (s : State) (f : Fabric → Fabric) :
    (s.onFab f).inbox = s.inbox := rfl
@[simp] theorem State.onFab_out (s : State) (f : Fabric → Fabric) :
    (s.onFab f).out = s.out := rfl
@[simp] theorem State.onFab_todo (s : State) (f : Fabric → Fabric) :
    (s.onFab f).todo = s.todo := rfl
@[simp] theorem State.onFab_cur (s : State) (f : Fabric → Fabric) :
    (s.onFab f).cur = s.cur := rfl
@[simp] theorem State.onFab_jump (s : State) (f : Fabric → Fabric) :
    (s.onFab f).jump = s.jump := rfl
@[simp] theorem State.onFab_stay (s : State) (f : Fabric → Fabric) :
    (s.onFab f).stay = s.stay := rfl
@[simp] theorem State.onFab_served (s : State) (f : Fabric → Fabric) :
    (s.onFab f).served = s.served := rfl
@[simp] theorem State.onFab_freeCount (s : State) (f : Fabric → Fabric) :
    (s.onFab f).freeCount = s.freeCount := rfl

/-! ### `State.onBt` -/

@[simp] theorem State.onBt_cyc (s : State) (n : Nat) (f : BtChan → BtChan) :
    (s.onBt n f).cyc = s.cyc := rfl
@[simp] theorem State.onBt_stns (s : State) (n : Nat) (f : BtChan → BtChan) :
    (s.onBt n f).stns = s.stns := rfl
@[simp] theorem State.onBt_mem (s : State) (n : Nat) (f : BtChan → BtChan) :
    (s.onBt n f).mem = s.mem := rfl
@[simp] theorem State.onBt_txns (s : State) (n : Nat) (f : BtChan → BtChan) :
    (s.onBt n f).txns = s.txns := rfl
@[simp] theorem State.onBt_beats (s : State) (n : Nat) (f : BtChan → BtChan) :
    (s.onBt n f).beats = s.beats := rfl
@[simp] theorem State.onBt_uops (s : State) (n : Nat) (f : BtChan → BtChan) :
    (s.onBt n f).uops = s.uops := rfl
@[simp] theorem State.onBt_markers (s : State) (n : Nat) (f : BtChan → BtChan) :
    (s.onBt n f).markers = s.markers := rfl
@[simp] theorem State.onBt_seq (s : State) (n : Nat) (f : BtChan → BtChan) :
    (s.onBt n f).seq = s.seq := rfl
@[simp] theorem State.onBt_nextId (s : State) (n : Nat) (f : BtChan → BtChan) :
    (s.onBt n f).nextId = s.nextId := rfl
@[simp] theorem State.onBt_inbox (s : State) (n : Nat) (f : BtChan → BtChan) :
    (s.onBt n f).inbox = s.inbox := rfl
@[simp] theorem State.onBt_out (s : State) (n : Nat) (f : BtChan → BtChan) :
    (s.onBt n f).out = s.out := rfl
@[simp] theorem State.onBt_todo (s : State) (n : Nat) (f : BtChan → BtChan) :
    (s.onBt n f).todo = s.todo := rfl
@[simp] theorem State.onBt_cur (s : State) (n : Nat) (f : BtChan → BtChan) :
    (s.onBt n f).cur = s.cur := rfl
@[simp] theorem State.onBt_jump (s : State) (n : Nat) (f : BtChan → BtChan) :
    (s.onBt n f).jump = s.jump := rfl
@[simp] theorem State.onBt_stay (s : State) (n : Nat) (f : BtChan → BtChan) :
    (s.onBt n f).stay = s.stay := rfl
@[simp] theorem State.onBt_served (s : State) (n : Nat) (f : BtChan → BtChan) :
    (s.onBt n f).served = s.served := rfl
@[simp] theorem State.onBt_freeCount (s : State) (n : Nat) (f : BtChan → BtChan) :
    (s.onBt n f).freeCount = s.freeCount := rfl

/-! ### `State.onSlot` -/

@[simp] theorem State.onSlot_cyc (s : State) (n : Nat) (f : GSlot → GSlot) :
    (s.onSlot n f).cyc = s.cyc := rfl
@[simp] theorem State.onSlot_stns (s : State) (n : Nat) (f : GSlot → GSlot) :
    (s.onSlot n f).stns = s.stns := rfl
@[simp] theorem State.onSlot_mem (s : State) (n : Nat) (f : GSlot → GSlot) :
    (s.onSlot n f).mem = s.mem := rfl
@[simp] theorem State.onSlot_txns (s : State) (n : Nat) (f : GSlot → GSlot) :
    (s.onSlot n f).txns = s.txns := rfl
@[simp] theorem State.onSlot_beats (s : State) (n : Nat) (f : GSlot → GSlot) :
    (s.onSlot n f).beats = s.beats := rfl
@[simp] theorem State.onSlot_uops (s : State) (n : Nat) (f : GSlot → GSlot) :
    (s.onSlot n f).uops = s.uops := rfl
@[simp] theorem State.onSlot_markers (s : State) (n : Nat) (f : GSlot → GSlot) :
    (s.onSlot n f).markers = s.markers := rfl
@[simp] theorem State.onSlot_seq (s : State) (n : Nat) (f : GSlot → GSlot) :
    (s.onSlot n f).seq = s.seq := rfl
@[simp] theorem State.onSlot_nextId (s : State) (n : Nat) (f : GSlot → GSlot) :
    (s.onSlot n f).nextId = s.nextId := rfl
@[simp] theorem State.onSlot_inbox (s : State) (n : Nat) (f : GSlot → GSlot) :
    (s.onSlot n f).inbox = s.inbox := rfl
@[simp] theorem State.onSlot_out (s : State) (n : Nat) (f : GSlot → GSlot) :
    (s.onSlot n f).out = s.out := rfl
@[simp] theorem State.onSlot_todo (s : State) (n : Nat) (f : GSlot → GSlot) :
    (s.onSlot n f).todo = s.todo := rfl
@[simp] theorem State.onSlot_cur (s : State) (n : Nat) (f : GSlot → GSlot) :
    (s.onSlot n f).cur = s.cur := rfl
@[simp] theorem State.onSlot_jump (s : State) (n : Nat) (f : GSlot → GSlot) :
    (s.onSlot n f).jump = s.jump := rfl
@[simp] theorem State.onSlot_stay (s : State) (n : Nat) (f : GSlot → GSlot) :
    (s.onSlot n f).stay = s.stay := rfl
@[simp] theorem State.onSlot_served (s : State) (n : Nat) (f : GSlot → GSlot) :
    (s.onSlot n f).served = s.served := rfl
@[simp] theorem State.onSlot_freeCount (s : State) (n : Nat) (f : GSlot → GSlot) :
    (s.onSlot n f).freeCount = s.freeCount := rfl

/-! ### `State.onCoachman` -/

@[simp] theorem State.onCoachman_cyc (s : State) (n : Nat) (f : Coachman → Coachman) :
    (s.onCoachman n f).cyc = s.cyc := rfl
@[simp] theorem State.onCoachman_stns (s : State) (n : Nat) (f : Coachman → Coachman) :
    (s.onCoachman n f).stns = s.stns := rfl
@[simp] theorem State.onCoachman_mem (s : State) (n : Nat) (f : Coachman → Coachman) :
    (s.onCoachman n f).mem = s.mem := rfl
@[simp] theorem State.onCoachman_txns (s : State) (n : Nat) (f : Coachman → Coachman) :
    (s.onCoachman n f).txns = s.txns := rfl
@[simp] theorem State.onCoachman_beats (s : State) (n : Nat) (f : Coachman → Coachman) :
    (s.onCoachman n f).beats = s.beats := rfl
@[simp] theorem State.onCoachman_uops (s : State) (n : Nat) (f : Coachman → Coachman) :
    (s.onCoachman n f).uops = s.uops := rfl
@[simp] theorem State.onCoachman_markers (s : State) (n : Nat) (f : Coachman → Coachman) :
    (s.onCoachman n f).markers = s.markers := rfl
@[simp] theorem State.onCoachman_seq (s : State) (n : Nat) (f : Coachman → Coachman) :
    (s.onCoachman n f).seq = s.seq := rfl
@[simp] theorem State.onCoachman_nextId (s : State) (n : Nat) (f : Coachman → Coachman) :
    (s.onCoachman n f).nextId = s.nextId := rfl
@[simp] theorem State.onCoachman_inbox (s : State) (n : Nat) (f : Coachman → Coachman) :
    (s.onCoachman n f).inbox = s.inbox := rfl
@[simp] theorem State.onCoachman_out (s : State) (n : Nat) (f : Coachman → Coachman) :
    (s.onCoachman n f).out = s.out := rfl
@[simp] theorem State.onCoachman_todo (s : State) (n : Nat) (f : Coachman → Coachman) :
    (s.onCoachman n f).todo = s.todo := rfl
@[simp] theorem State.onCoachman_cur (s : State) (n : Nat) (f : Coachman → Coachman) :
    (s.onCoachman n f).cur = s.cur := rfl
@[simp] theorem State.onCoachman_jump (s : State) (n : Nat) (f : Coachman → Coachman) :
    (s.onCoachman n f).jump = s.jump := rfl
@[simp] theorem State.onCoachman_stay (s : State) (n : Nat) (f : Coachman → Coachman) :
    (s.onCoachman n f).stay = s.stay := rfl
@[simp] theorem State.onCoachman_served (s : State) (n : Nat) (f : Coachman → Coachman) :
    (s.onCoachman n f).served = s.served := rfl
@[simp] theorem State.onCoachman_freeCount (s : State) (n : Nat) (f : Coachman → Coachman) :
    (s.onCoachman n f).freeCount = s.freeCount := rfl

/-! ### `State.onSvc` -/

@[simp] theorem State.onSvc_cyc (s : State) (f : Service → Service) :
    (s.onSvc f).cyc = s.cyc := rfl
@[simp] theorem State.onSvc_stns (s : State) (f : Service → Service) :
    (s.onSvc f).stns = s.stns := rfl
@[simp] theorem State.onSvc_mem (s : State) (f : Service → Service) :
    (s.onSvc f).mem = s.mem := rfl
@[simp] theorem State.onSvc_pkg (s : State) (f : Service → Service) :
    (s.onSvc f).pkg = { s.pkg with svc := f s.pkg.svc } := rfl
@[simp] theorem State.onSvc_txns (s : State) (f : Service → Service) :
    (s.onSvc f).txns = s.txns := rfl
@[simp] theorem State.onSvc_beats (s : State) (f : Service → Service) :
    (s.onSvc f).beats = s.beats := rfl
@[simp] theorem State.onSvc_uops (s : State) (f : Service → Service) :
    (s.onSvc f).uops = s.uops := rfl
@[simp] theorem State.onSvc_markers (s : State) (f : Service → Service) :
    (s.onSvc f).markers = s.markers := rfl
@[simp] theorem State.onSvc_seq (s : State) (f : Service → Service) :
    (s.onSvc f).seq = s.seq := rfl
@[simp] theorem State.onSvc_nextId (s : State) (f : Service → Service) :
    (s.onSvc f).nextId = s.nextId := rfl
@[simp] theorem State.onSvc_inbox (s : State) (f : Service → Service) :
    (s.onSvc f).inbox = s.inbox := rfl
@[simp] theorem State.onSvc_out (s : State) (f : Service → Service) :
    (s.onSvc f).out = s.out := rfl
@[simp] theorem State.onSvc_todo (s : State) (f : Service → Service) :
    (s.onSvc f).todo = s.todo := rfl
@[simp] theorem State.onSvc_cur (s : State) (f : Service → Service) :
    (s.onSvc f).cur = s.cur := rfl
@[simp] theorem State.onSvc_jump (s : State) (f : Service → Service) :
    (s.onSvc f).jump = s.jump := rfl
@[simp] theorem State.onSvc_stay (s : State) (f : Service → Service) :
    (s.onSvc f).stay = s.stay := rfl
@[simp] theorem State.onSvc_served (s : State) (f : Service → Service) :
    (s.onSvc f).served = s.served := rfl
@[simp] theorem State.onSvc_freeCount (s : State) (f : Service → Service) :
    (s.onSvc f).freeCount = s.freeCount := rfl

/-! ### `State.onHost` -/

@[simp] theorem State.onHost_cyc (s : State) (f : HostLink → HostLink) :
    (s.onHost f).cyc = s.cyc := rfl
@[simp] theorem State.onHost_stns (s : State) (f : HostLink → HostLink) :
    (s.onHost f).stns = s.stns := rfl
@[simp] theorem State.onHost_mem (s : State) (f : HostLink → HostLink) :
    (s.onHost f).mem = s.mem := rfl
@[simp] theorem State.onHost_pkg (s : State) (f : HostLink → HostLink) :
    (s.onHost f).pkg = { s.pkg with hostl := f s.pkg.hostl } := rfl
@[simp] theorem State.onHost_txns (s : State) (f : HostLink → HostLink) :
    (s.onHost f).txns = s.txns := rfl
@[simp] theorem State.onHost_beats (s : State) (f : HostLink → HostLink) :
    (s.onHost f).beats = s.beats := rfl
@[simp] theorem State.onHost_uops (s : State) (f : HostLink → HostLink) :
    (s.onHost f).uops = s.uops := rfl
@[simp] theorem State.onHost_markers (s : State) (f : HostLink → HostLink) :
    (s.onHost f).markers = s.markers := rfl
@[simp] theorem State.onHost_seq (s : State) (f : HostLink → HostLink) :
    (s.onHost f).seq = s.seq := rfl
@[simp] theorem State.onHost_nextId (s : State) (f : HostLink → HostLink) :
    (s.onHost f).nextId = s.nextId := rfl
@[simp] theorem State.onHost_inbox (s : State) (f : HostLink → HostLink) :
    (s.onHost f).inbox = s.inbox := rfl
@[simp] theorem State.onHost_out (s : State) (f : HostLink → HostLink) :
    (s.onHost f).out = s.out := rfl
@[simp] theorem State.onHost_todo (s : State) (f : HostLink → HostLink) :
    (s.onHost f).todo = s.todo := rfl
@[simp] theorem State.onHost_cur (s : State) (f : HostLink → HostLink) :
    (s.onHost f).cur = s.cur := rfl
@[simp] theorem State.onHost_jump (s : State) (f : HostLink → HostLink) :
    (s.onHost f).jump = s.jump := rfl
@[simp] theorem State.onHost_stay (s : State) (f : HostLink → HostLink) :
    (s.onHost f).stay = s.stay := rfl
@[simp] theorem State.onHost_served (s : State) (f : HostLink → HostLink) :
    (s.onHost f).served = s.served := rfl
@[simp] theorem State.onHost_freeCount (s : State) (f : HostLink → HostLink) :
    (s.onHost f).freeCount = s.freeCount := rfl

/-! ### `State.setTag` -/

@[simp] theorem State.setTag_cyc (s : State) (t : BitVec 3) (x : RouteTag) :
    (s.setTag t x).cyc = s.cyc := rfl
@[simp] theorem State.setTag_stns (s : State) (t : BitVec 3) (x : RouteTag) :
    (s.setTag t x).stns = s.stns := rfl
@[simp] theorem State.setTag_mem (s : State) (t : BitVec 3) (x : RouteTag) :
    (s.setTag t x).mem = s.mem := rfl
@[simp] theorem State.setTag_txns (s : State) (t : BitVec 3) (x : RouteTag) :
    (s.setTag t x).txns = s.txns := rfl
@[simp] theorem State.setTag_beats (s : State) (t : BitVec 3) (x : RouteTag) :
    (s.setTag t x).beats = s.beats := rfl
@[simp] theorem State.setTag_uops (s : State) (t : BitVec 3) (x : RouteTag) :
    (s.setTag t x).uops = s.uops := rfl
@[simp] theorem State.setTag_markers (s : State) (t : BitVec 3) (x : RouteTag) :
    (s.setTag t x).markers = s.markers := rfl
@[simp] theorem State.setTag_seq (s : State) (t : BitVec 3) (x : RouteTag) :
    (s.setTag t x).seq = s.seq := rfl
@[simp] theorem State.setTag_nextId (s : State) (t : BitVec 3) (x : RouteTag) :
    (s.setTag t x).nextId = s.nextId := rfl
@[simp] theorem State.setTag_inbox (s : State) (t : BitVec 3) (x : RouteTag) :
    (s.setTag t x).inbox = s.inbox := rfl
@[simp] theorem State.setTag_out (s : State) (t : BitVec 3) (x : RouteTag) :
    (s.setTag t x).out = s.out := rfl
@[simp] theorem State.setTag_todo (s : State) (t : BitVec 3) (x : RouteTag) :
    (s.setTag t x).todo = s.todo := rfl
@[simp] theorem State.setTag_cur (s : State) (t : BitVec 3) (x : RouteTag) :
    (s.setTag t x).cur = s.cur := rfl
@[simp] theorem State.setTag_jump (s : State) (t : BitVec 3) (x : RouteTag) :
    (s.setTag t x).jump = s.jump := rfl
@[simp] theorem State.setTag_stay (s : State) (t : BitVec 3) (x : RouteTag) :
    (s.setTag t x).stay = s.stay := rfl
@[simp] theorem State.setTag_served (s : State) (t : BitVec 3) (x : RouteTag) :
    (s.setTag t x).served = s.served := rfl
@[simp] theorem State.setTag_freeCount (s : State) (t : BitVec 3) (x : RouteTag) :
    (s.setTag t x).freeCount = s.freeCount := rfl

/-! ### `State.setMailbox` -/

@[simp] theorem State.setMailbox_cyc (s : State) (m : Nat) (v : DWord) :
    (s.setMailbox m v).cyc = s.cyc := rfl
@[simp] theorem State.setMailbox_stns (s : State) (m : Nat) (v : DWord) :
    (s.setMailbox m v).stns = s.stns := rfl
@[simp] theorem State.setMailbox_mem (s : State) (m : Nat) (v : DWord) :
    (s.setMailbox m v).mem = s.mem := rfl
@[simp] theorem State.setMailbox_txns (s : State) (m : Nat) (v : DWord) :
    (s.setMailbox m v).txns = s.txns := rfl
@[simp] theorem State.setMailbox_beats (s : State) (m : Nat) (v : DWord) :
    (s.setMailbox m v).beats = s.beats := rfl
@[simp] theorem State.setMailbox_uops (s : State) (m : Nat) (v : DWord) :
    (s.setMailbox m v).uops = s.uops := rfl
@[simp] theorem State.setMailbox_markers (s : State) (m : Nat) (v : DWord) :
    (s.setMailbox m v).markers = s.markers := rfl
@[simp] theorem State.setMailbox_seq (s : State) (m : Nat) (v : DWord) :
    (s.setMailbox m v).seq = s.seq := rfl
@[simp] theorem State.setMailbox_nextId (s : State) (m : Nat) (v : DWord) :
    (s.setMailbox m v).nextId = s.nextId := rfl
@[simp] theorem State.setMailbox_inbox (s : State) (m : Nat) (v : DWord) :
    (s.setMailbox m v).inbox = s.inbox := rfl
@[simp] theorem State.setMailbox_out (s : State) (m : Nat) (v : DWord) :
    (s.setMailbox m v).out = s.out := rfl
@[simp] theorem State.setMailbox_todo (s : State) (m : Nat) (v : DWord) :
    (s.setMailbox m v).todo = s.todo := rfl
@[simp] theorem State.setMailbox_cur (s : State) (m : Nat) (v : DWord) :
    (s.setMailbox m v).cur = s.cur := rfl
@[simp] theorem State.setMailbox_jump (s : State) (m : Nat) (v : DWord) :
    (s.setMailbox m v).jump = s.jump := rfl
@[simp] theorem State.setMailbox_stay (s : State) (m : Nat) (v : DWord) :
    (s.setMailbox m v).stay = s.stay := rfl
@[simp] theorem State.setMailbox_served (s : State) (m : Nat) (v : DWord) :
    (s.setMailbox m v).served = s.served := rfl
@[simp] theorem State.setMailbox_freeCount (s : State) (m : Nat) (v : DWord) :
    (s.setMailbox m v).freeCount = s.freeCount := rfl

/-! ### `State.onUOp` -/

@[simp] theorem State.onUOp_cyc (s : State) (id : Nat) (f : UOp → UOp) :
    (s.onUOp id f).cyc = s.cyc := rfl
@[simp] theorem State.onUOp_stns (s : State) (id : Nat) (f : UOp → UOp) :
    (s.onUOp id f).stns = s.stns := rfl
@[simp] theorem State.onUOp_mem (s : State) (id : Nat) (f : UOp → UOp) :
    (s.onUOp id f).mem = s.mem := rfl
@[simp] theorem State.onUOp_pkg (s : State) (id : Nat) (f : UOp → UOp) :
    (s.onUOp id f).pkg = s.pkg := rfl
@[simp] theorem State.onUOp_txns (s : State) (id : Nat) (f : UOp → UOp) :
    (s.onUOp id f).txns = s.txns := rfl
@[simp] theorem State.onUOp_beats (s : State) (id : Nat) (f : UOp → UOp) :
    (s.onUOp id f).beats = s.beats := rfl
@[simp] theorem State.onUOp_uops (s : State) (id : Nat) (f : UOp → UOp) :
    (s.onUOp id f).uops = s.uops.map fun u => if u.id = id then f u else u := rfl
@[simp] theorem State.onUOp_markers (s : State) (id : Nat) (f : UOp → UOp) :
    (s.onUOp id f).markers = s.markers := rfl
@[simp] theorem State.onUOp_seq (s : State) (id : Nat) (f : UOp → UOp) :
    (s.onUOp id f).seq = s.seq := rfl
@[simp] theorem State.onUOp_nextId (s : State) (id : Nat) (f : UOp → UOp) :
    (s.onUOp id f).nextId = s.nextId := rfl
@[simp] theorem State.onUOp_inbox (s : State) (id : Nat) (f : UOp → UOp) :
    (s.onUOp id f).inbox = s.inbox := rfl
@[simp] theorem State.onUOp_out (s : State) (id : Nat) (f : UOp → UOp) :
    (s.onUOp id f).out = s.out := rfl
@[simp] theorem State.onUOp_todo (s : State) (id : Nat) (f : UOp → UOp) :
    (s.onUOp id f).todo = s.todo := rfl
@[simp] theorem State.onUOp_cur (s : State) (id : Nat) (f : UOp → UOp) :
    (s.onUOp id f).cur = s.cur := rfl
@[simp] theorem State.onUOp_jump (s : State) (id : Nat) (f : UOp → UOp) :
    (s.onUOp id f).jump = s.jump := rfl
@[simp] theorem State.onUOp_stay (s : State) (id : Nat) (f : UOp → UOp) :
    (s.onUOp id f).stay = s.stay := rfl
@[simp] theorem State.onUOp_served (s : State) (id : Nat) (f : UOp → UOp) :
    (s.onUOp id f).served = s.served := rfl
@[simp] theorem State.onUOp_freeCount (s : State) (id : Nat) (f : UOp → UOp) :
    (s.onUOp id f).freeCount = s.freeCount := rfl

/-! ### `State.onTPart` -/

@[simp] theorem State.onTPart_cyc (s : State) (id : Nat) (f : TPart → TPart) :
    (s.onTPart id f).cyc = s.cyc := rfl
@[simp] theorem State.onTPart_stns (s : State) (id : Nat) (f : TPart → TPart) :
    (s.onTPart id f).stns = s.stns := rfl
@[simp] theorem State.onTPart_mem (s : State) (id : Nat) (f : TPart → TPart) :
    (s.onTPart id f).mem = s.mem := rfl
@[simp] theorem State.onTPart_pkg (s : State) (id : Nat) (f : TPart → TPart) :
    (s.onTPart id f).pkg = s.pkg := rfl
@[simp] theorem State.onTPart_beats (s : State) (id : Nat) (f : TPart → TPart) :
    (s.onTPart id f).beats = s.beats := rfl
@[simp] theorem State.onTPart_uops (s : State) (id : Nat) (f : TPart → TPart) :
    (s.onTPart id f).uops = s.uops := rfl
@[simp] theorem State.onTPart_markers (s : State) (id : Nat) (f : TPart → TPart) :
    (s.onTPart id f).markers = s.markers := rfl
@[simp] theorem State.onTPart_seq (s : State) (id : Nat) (f : TPart → TPart) :
    (s.onTPart id f).seq = s.seq := rfl
@[simp] theorem State.onTPart_nextId (s : State) (id : Nat) (f : TPart → TPart) :
    (s.onTPart id f).nextId = s.nextId := rfl
@[simp] theorem State.onTPart_inbox (s : State) (id : Nat) (f : TPart → TPart) :
    (s.onTPart id f).inbox = s.inbox := rfl
@[simp] theorem State.onTPart_out (s : State) (id : Nat) (f : TPart → TPart) :
    (s.onTPart id f).out = s.out := rfl
@[simp] theorem State.onTPart_todo (s : State) (id : Nat) (f : TPart → TPart) :
    (s.onTPart id f).todo = s.todo := rfl
@[simp] theorem State.onTPart_cur (s : State) (id : Nat) (f : TPart → TPart) :
    (s.onTPart id f).cur = s.cur := rfl
@[simp] theorem State.onTPart_jump (s : State) (id : Nat) (f : TPart → TPart) :
    (s.onTPart id f).jump = s.jump := rfl
@[simp] theorem State.onTPart_stay (s : State) (id : Nat) (f : TPart → TPart) :
    (s.onTPart id f).stay = s.stay := rfl
@[simp] theorem State.onTPart_served (s : State) (id : Nat) (f : TPart → TPart) :
    (s.onTPart id f).served = s.served := rfl
@[simp] theorem State.onTPart_freeCount (s : State) (id : Nat) (f : TPart → TPart) :
    (s.onTPart id f).freeCount = s.freeCount := rfl

/-! ### `State.onChan` -/

@[simp] theorem State.onChan_cyc (s : State) (k : Stn) (i : Nat) (f : Channel → Channel) :
    (s.onChan k i f).cyc = s.cyc := rfl
@[simp] theorem State.onChan_mem (s : State) (k : Stn) (i : Nat) (f : Channel → Channel) :
    (s.onChan k i f).mem = s.mem := rfl
@[simp] theorem State.onChan_pkg (s : State) (k : Stn) (i : Nat) (f : Channel → Channel) :
    (s.onChan k i f).pkg = s.pkg := rfl
@[simp] theorem State.onChan_txns (s : State) (k : Stn) (i : Nat) (f : Channel → Channel) :
    (s.onChan k i f).txns = s.txns := rfl
@[simp] theorem State.onChan_beats (s : State) (k : Stn) (i : Nat) (f : Channel → Channel) :
    (s.onChan k i f).beats = s.beats := rfl
@[simp] theorem State.onChan_uops (s : State) (k : Stn) (i : Nat) (f : Channel → Channel) :
    (s.onChan k i f).uops = s.uops := rfl
@[simp] theorem State.onChan_markers (s : State) (k : Stn) (i : Nat) (f : Channel → Channel) :
    (s.onChan k i f).markers = s.markers := rfl
@[simp] theorem State.onChan_seq (s : State) (k : Stn) (i : Nat) (f : Channel → Channel) :
    (s.onChan k i f).seq = s.seq := rfl
@[simp] theorem State.onChan_nextId (s : State) (k : Stn) (i : Nat) (f : Channel → Channel) :
    (s.onChan k i f).nextId = s.nextId := rfl
@[simp] theorem State.onChan_inbox (s : State) (k : Stn) (i : Nat) (f : Channel → Channel) :
    (s.onChan k i f).inbox = s.inbox := rfl
@[simp] theorem State.onChan_out (s : State) (k : Stn) (i : Nat) (f : Channel → Channel) :
    (s.onChan k i f).out = s.out := rfl
@[simp] theorem State.onChan_todo (s : State) (k : Stn) (i : Nat) (f : Channel → Channel) :
    (s.onChan k i f).todo = s.todo := rfl
@[simp] theorem State.onChan_cur (s : State) (k : Stn) (i : Nat) (f : Channel → Channel) :
    (s.onChan k i f).cur = s.cur := rfl
@[simp] theorem State.onChan_jump (s : State) (k : Stn) (i : Nat) (f : Channel → Channel) :
    (s.onChan k i f).jump = s.jump := rfl
@[simp] theorem State.onChan_stay (s : State) (k : Stn) (i : Nat) (f : Channel → Channel) :
    (s.onChan k i f).stay = s.stay := rfl
@[simp] theorem State.onChan_served (s : State) (k : Stn) (i : Nat) (f : Channel → Channel) :
    (s.onChan k i f).served = s.served := rfl
@[simp] theorem State.onChan_freeCount (s : State) (k : Stn) (i : Nat) (f : Channel → Channel) :
    (s.onChan k i f).freeCount = s.freeCount := rfl

/-! ### `Station.setSreg` -/

@[simp] theorem Station.setSreg_sys (t : Station) (i : BitVec 5) (v : DWord) :
    (t.setSreg i v).sys = t.sys := by
  unfold Station.setSreg; split <;> rfl
@[simp] theorem Station.setSreg_run (t : Station) (i : BitVec 5) (v : DWord) :
    (t.setSreg i v).run = t.run := by
  unfold Station.setSreg; split <;> rfl
@[simp] theorem Station.setSreg_streams (t : Station) (i : BitVec 5) (v : DWord) :
    (t.setSreg i v).streams = t.streams := by
  unfold Station.setSreg; split <;> rfl
@[simp] theorem Station.setSreg_pend (t : Station) (i : BitVec 5) (v : DWord) :
    (t.setSreg i v).pend = t.pend := by
  unfold Station.setSreg; split <;> rfl
@[simp] theorem Station.setSreg_mat (t : Station) (i : BitVec 5) (v : DWord) :
    (t.setSreg i v).mat = t.mat := by
  unfold Station.setSreg; split <;> rfl
@[simp] theorem Station.setSreg_ch (t : Station) (i : BitVec 5) (v : DWord) :
    (t.setSreg i v).ch = t.ch := by
  unfold Station.setSreg; split <;> rfl
@[simp] theorem Station.setSreg_bitmaps (t : Station) (i : BitVec 5) (v : DWord) :
    (t.setSreg i v).bitmaps = t.bitmaps := by
  unfold Station.setSreg; split <;> rfl
@[simp] theorem Station.setSreg_pins (t : Station) (i : BitVec 5) (v : DWord) :
    (t.setSreg i v).pins = t.pins := by
  unfold Station.setSreg; split <;> rfl
@[simp] theorem Station.setSreg_pinDue (t : Station) (i : BitVec 5) (v : DWord) :
    (t.setSreg i v).pinDue = t.pinDue := by
  unfold Station.setSreg; split <;> rfl
@[simp] theorem Station.setSreg_scale (t : Station) (i : BitVec 5) (v : DWord) :
    (t.setSreg i v).scale = t.scale := by
  unfold Station.setSreg; split <;> rfl
@[simp] theorem Station.setSreg_tap (t : Station) (i : BitVec 5) (v : DWord) :
    (t.setSreg i v).tap = t.tap := by
  unfold Station.setSreg; split <;> rfl
@[simp] theorem Station.setSreg_trap (t : Station) (i : BitVec 5) (v : DWord) :
    (t.setSreg i v).trap = t.trap := by
  unfold Station.setSreg; split <;> rfl
@[simp] theorem Station.setSreg_pre (t : Station) (i : BitVec 5) (v : DWord) :
    (t.setSreg i v).pre = t.pre := by
  unfold Station.setSreg; split <;> rfl
@[simp] theorem Station.setSreg_sigs (t : Station) (i : BitVec 5) (v : DWord) :
    (t.setSreg i v).sigs = t.sigs := by
  unfold Station.setSreg; split <;> rfl
@[simp] theorem Station.setSreg_flagStores (t : Station) (i : BitVec 5) (v : DWord) :
    (t.setSreg i v).flagStores = t.flagStores := by
  unfold Station.setSreg; split <;> rfl
@[simp] theorem Station.setSreg_boardings (t : Station) (i : BitVec 5) (v : DWord) :
    (t.setSreg i v).boardings = t.boardings := by
  unfold Station.setSreg; split <;> rfl

/-! ### `Station.setCreg` -/

@[simp] theorem Station.setCreg_sys (t : Station) (i : BitVec 4) (c : Cap) :
    (t.setCreg i c).sys = t.sys := rfl
@[simp] theorem Station.setCreg_run (t : Station) (i : BitVec 4) (c : Cap) :
    (t.setCreg i c).run = t.run := rfl
@[simp] theorem Station.setCreg_streams (t : Station) (i : BitVec 4) (c : Cap) :
    (t.setCreg i c).streams = t.streams := rfl
@[simp] theorem Station.setCreg_pend (t : Station) (i : BitVec 4) (c : Cap) :
    (t.setCreg i c).pend = t.pend := rfl
@[simp] theorem Station.setCreg_mat (t : Station) (i : BitVec 4) (c : Cap) :
    (t.setCreg i c).mat = t.mat := rfl
@[simp] theorem Station.setCreg_ch (t : Station) (i : BitVec 4) (c : Cap) :
    (t.setCreg i c).ch = t.ch := rfl
@[simp] theorem Station.setCreg_bitmaps (t : Station) (i : BitVec 4) (c : Cap) :
    (t.setCreg i c).bitmaps = t.bitmaps := rfl
@[simp] theorem Station.setCreg_pins (t : Station) (i : BitVec 4) (c : Cap) :
    (t.setCreg i c).pins = t.pins := rfl
@[simp] theorem Station.setCreg_pinDue (t : Station) (i : BitVec 4) (c : Cap) :
    (t.setCreg i c).pinDue = t.pinDue := rfl
@[simp] theorem Station.setCreg_scale (t : Station) (i : BitVec 4) (c : Cap) :
    (t.setCreg i c).scale = t.scale := rfl
@[simp] theorem Station.setCreg_tap (t : Station) (i : BitVec 4) (c : Cap) :
    (t.setCreg i c).tap = t.tap := rfl
@[simp] theorem Station.setCreg_trap (t : Station) (i : BitVec 4) (c : Cap) :
    (t.setCreg i c).trap = t.trap := rfl
@[simp] theorem Station.setCreg_pre (t : Station) (i : BitVec 4) (c : Cap) :
    (t.setCreg i c).pre = t.pre := rfl
@[simp] theorem Station.setCreg_sigs (t : Station) (i : BitVec 4) (c : Cap) :
    (t.setCreg i c).sigs = t.sigs := rfl
@[simp] theorem Station.setCreg_flagStores (t : Station) (i : BitVec 4) (c : Cap) :
    (t.setCreg i c).flagStores = t.flagStores := rfl
@[simp] theorem Station.setCreg_boardings (t : Station) (i : BitVec 4) (c : Cap) :
    (t.setCreg i c).boardings = t.boardings := rfl

/-! ### `Station.setVreg` -/

@[simp] theorem Station.setVreg_sys (t : Station) (i : BitVec 6) (v : Line) :
    (t.setVreg i v).sys = t.sys := rfl
@[simp] theorem Station.setVreg_run (t : Station) (i : BitVec 6) (v : Line) :
    (t.setVreg i v).run = t.run := rfl
@[simp] theorem Station.setVreg_streams (t : Station) (i : BitVec 6) (v : Line) :
    (t.setVreg i v).streams = t.streams := rfl
@[simp] theorem Station.setVreg_pend (t : Station) (i : BitVec 6) (v : Line) :
    (t.setVreg i v).pend = t.pend := rfl
@[simp] theorem Station.setVreg_mat (t : Station) (i : BitVec 6) (v : Line) :
    (t.setVreg i v).mat = t.mat := rfl
@[simp] theorem Station.setVreg_ch (t : Station) (i : BitVec 6) (v : Line) :
    (t.setVreg i v).ch = t.ch := rfl
@[simp] theorem Station.setVreg_bitmaps (t : Station) (i : BitVec 6) (v : Line) :
    (t.setVreg i v).bitmaps = t.bitmaps := rfl
@[simp] theorem Station.setVreg_pins (t : Station) (i : BitVec 6) (v : Line) :
    (t.setVreg i v).pins = t.pins := rfl
@[simp] theorem Station.setVreg_pinDue (t : Station) (i : BitVec 6) (v : Line) :
    (t.setVreg i v).pinDue = t.pinDue := rfl
@[simp] theorem Station.setVreg_scale (t : Station) (i : BitVec 6) (v : Line) :
    (t.setVreg i v).scale = t.scale := rfl
@[simp] theorem Station.setVreg_tap (t : Station) (i : BitVec 6) (v : Line) :
    (t.setVreg i v).tap = t.tap := rfl
@[simp] theorem Station.setVreg_trap (t : Station) (i : BitVec 6) (v : Line) :
    (t.setVreg i v).trap = t.trap := rfl
@[simp] theorem Station.setVreg_pre (t : Station) (i : BitVec 6) (v : Line) :
    (t.setVreg i v).pre = t.pre := rfl
@[simp] theorem Station.setVreg_sigs (t : Station) (i : BitVec 6) (v : Line) :
    (t.setVreg i v).sigs = t.sigs := rfl
@[simp] theorem Station.setVreg_flagStores (t : Station) (i : BitVec 6) (v : Line) :
    (t.setVreg i v).flagStores = t.flagStores := rfl
@[simp] theorem Station.setVreg_boardings (t : Station) (i : BitVec 6) (v : Line) :
    (t.setVreg i v).boardings = t.boardings := rfl

/-! ### `Station.setQreg` -/

@[simp] theorem Station.setQreg_sys (t : Station) (i : BitVec 3) (v : DWord) :
    (t.setQreg i v).sys = t.sys := rfl
@[simp] theorem Station.setQreg_run (t : Station) (i : BitVec 3) (v : DWord) :
    (t.setQreg i v).run = t.run := rfl
@[simp] theorem Station.setQreg_streams (t : Station) (i : BitVec 3) (v : DWord) :
    (t.setQreg i v).streams = t.streams := rfl
@[simp] theorem Station.setQreg_pend (t : Station) (i : BitVec 3) (v : DWord) :
    (t.setQreg i v).pend = t.pend := rfl
@[simp] theorem Station.setQreg_mat (t : Station) (i : BitVec 3) (v : DWord) :
    (t.setQreg i v).mat = t.mat := rfl
@[simp] theorem Station.setQreg_ch (t : Station) (i : BitVec 3) (v : DWord) :
    (t.setQreg i v).ch = t.ch := rfl
@[simp] theorem Station.setQreg_bitmaps (t : Station) (i : BitVec 3) (v : DWord) :
    (t.setQreg i v).bitmaps = t.bitmaps := rfl
@[simp] theorem Station.setQreg_pins (t : Station) (i : BitVec 3) (v : DWord) :
    (t.setQreg i v).pins = t.pins := rfl
@[simp] theorem Station.setQreg_pinDue (t : Station) (i : BitVec 3) (v : DWord) :
    (t.setQreg i v).pinDue = t.pinDue := rfl
@[simp] theorem Station.setQreg_scale (t : Station) (i : BitVec 3) (v : DWord) :
    (t.setQreg i v).scale = t.scale := rfl
@[simp] theorem Station.setQreg_tap (t : Station) (i : BitVec 3) (v : DWord) :
    (t.setQreg i v).tap = t.tap := rfl
@[simp] theorem Station.setQreg_trap (t : Station) (i : BitVec 3) (v : DWord) :
    (t.setQreg i v).trap = t.trap := rfl
@[simp] theorem Station.setQreg_pre (t : Station) (i : BitVec 3) (v : DWord) :
    (t.setQreg i v).pre = t.pre := rfl
@[simp] theorem Station.setQreg_sigs (t : Station) (i : BitVec 3) (v : DWord) :
    (t.setQreg i v).sigs = t.sigs := rfl
@[simp] theorem Station.setQreg_flagStores (t : Station) (i : BitVec 3) (v : DWord) :
    (t.setQreg i v).flagStores = t.flagStores := rfl
@[simp] theorem Station.setQreg_boardings (t : Station) (i : BitVec 3) (v : DWord) :
    (t.setQreg i v).boardings = t.boardings := rfl

/-! ### `Station.setBay` -/

@[simp] theorem Station.setBay_sys (t : Station) (i : Nat) (b : Bay) :
    (t.setBay i b).sys = t.sys := rfl
@[simp] theorem Station.setBay_run (t : Station) (i : Nat) (b : Bay) :
    (t.setBay i b).run = t.run := rfl
@[simp] theorem Station.setBay_streams (t : Station) (i : Nat) (b : Bay) :
    (t.setBay i b).streams = t.streams := rfl
@[simp] theorem Station.setBay_pend (t : Station) (i : Nat) (b : Bay) :
    (t.setBay i b).pend = t.pend := rfl
@[simp] theorem Station.setBay_mat (t : Station) (i : Nat) (b : Bay) :
    (t.setBay i b).mat = t.mat := rfl
@[simp] theorem Station.setBay_ch (t : Station) (i : Nat) (b : Bay) :
    (t.setBay i b).ch = t.ch := rfl
@[simp] theorem Station.setBay_bitmaps (t : Station) (i : Nat) (b : Bay) :
    (t.setBay i b).bitmaps = t.bitmaps := rfl
@[simp] theorem Station.setBay_pins (t : Station) (i : Nat) (b : Bay) :
    (t.setBay i b).pins = t.pins := rfl
@[simp] theorem Station.setBay_pinDue (t : Station) (i : Nat) (b : Bay) :
    (t.setBay i b).pinDue = t.pinDue := rfl
@[simp] theorem Station.setBay_scale (t : Station) (i : Nat) (b : Bay) :
    (t.setBay i b).scale = t.scale := rfl
@[simp] theorem Station.setBay_tap (t : Station) (i : Nat) (b : Bay) :
    (t.setBay i b).tap = t.tap := rfl
@[simp] theorem Station.setBay_trap (t : Station) (i : Nat) (b : Bay) :
    (t.setBay i b).trap = t.trap := rfl
@[simp] theorem Station.setBay_pre (t : Station) (i : Nat) (b : Bay) :
    (t.setBay i b).pre = t.pre := rfl
@[simp] theorem Station.setBay_sigs (t : Station) (i : Nat) (b : Bay) :
    (t.setBay i b).sigs = t.sigs := rfl
@[simp] theorem Station.setBay_flagStores (t : Station) (i : Nat) (b : Bay) :
    (t.setBay i b).flagStores = t.flagStores := rfl
@[simp] theorem Station.setBay_boardings (t : Station) (i : Nat) (b : Bay) :
    (t.setBay i b).boardings = t.boardings := rfl

/-! ### `Station.pendBay` -/

@[simp] theorem Station.pendBay_sys (t : Station) (i : Nat) :
    (t.pendBay i).sys = t.sys := rfl
@[simp] theorem Station.pendBay_run (t : Station) (i : Nat) :
    (t.pendBay i).run = t.run := rfl
@[simp] theorem Station.pendBay_streams (t : Station) (i : Nat) :
    (t.pendBay i).streams = t.streams := rfl
@[simp] theorem Station.pendBay_pend (t : Station) (i : Nat) :
    (t.pendBay i).pend = t.pend := rfl
@[simp] theorem Station.pendBay_mat (t : Station) (i : Nat) :
    (t.pendBay i).mat = t.mat := rfl
@[simp] theorem Station.pendBay_ch (t : Station) (i : Nat) :
    (t.pendBay i).ch = t.ch := rfl
@[simp] theorem Station.pendBay_bitmaps (t : Station) (i : Nat) :
    (t.pendBay i).bitmaps = t.bitmaps := rfl
@[simp] theorem Station.pendBay_pins (t : Station) (i : Nat) :
    (t.pendBay i).pins = t.pins := rfl
@[simp] theorem Station.pendBay_pinDue (t : Station) (i : Nat) :
    (t.pendBay i).pinDue = t.pinDue := rfl
@[simp] theorem Station.pendBay_scale (t : Station) (i : Nat) :
    (t.pendBay i).scale = t.scale := rfl
@[simp] theorem Station.pendBay_tap (t : Station) (i : Nat) :
    (t.pendBay i).tap = t.tap := rfl
@[simp] theorem Station.pendBay_trap (t : Station) (i : Nat) :
    (t.pendBay i).trap = t.trap := rfl
@[simp] theorem Station.pendBay_pre (t : Station) (i : Nat) :
    (t.pendBay i).pre = t.pre := rfl
@[simp] theorem Station.pendBay_sigs (t : Station) (i : Nat) :
    (t.pendBay i).sigs = t.sigs := rfl
@[simp] theorem Station.pendBay_flagStores (t : Station) (i : Nat) :
    (t.pendBay i).flagStores = t.flagStores := rfl
@[simp] theorem Station.pendBay_boardings (t : Station) (i : Nat) :
    (t.pendBay i).boardings = t.boardings := rfl

/-! ### `Station.raise` -/

@[simp] theorem Station.raise_sys (t : Station) (i : Nat) :
    (t.raise i).sys = t.sys := rfl
@[simp] theorem Station.raise_run (t : Station) (i : Nat) :
    (t.raise i).run = t.run := rfl
@[simp] theorem Station.raise_streams (t : Station) (i : Nat) :
    (t.raise i).streams = t.streams := rfl
@[simp] theorem Station.raise_pend (t : Station) (i : Nat) :
    (t.raise i).pend = t.pend := rfl
@[simp] theorem Station.raise_mat (t : Station) (i : Nat) :
    (t.raise i).mat = t.mat := rfl
@[simp] theorem Station.raise_ch (t : Station) (i : Nat) :
    (t.raise i).ch = t.ch := rfl
@[simp] theorem Station.raise_bitmaps (t : Station) (i : Nat) :
    (t.raise i).bitmaps = t.bitmaps := rfl
@[simp] theorem Station.raise_pins (t : Station) (i : Nat) :
    (t.raise i).pins = t.pins := rfl
@[simp] theorem Station.raise_pinDue (t : Station) (i : Nat) :
    (t.raise i).pinDue = t.pinDue := rfl
@[simp] theorem Station.raise_scale (t : Station) (i : Nat) :
    (t.raise i).scale = t.scale := rfl
@[simp] theorem Station.raise_tap (t : Station) (i : Nat) :
    (t.raise i).tap = t.tap := rfl
@[simp] theorem Station.raise_trap (t : Station) (i : Nat) :
    (t.raise i).trap = t.trap := rfl
@[simp] theorem Station.raise_pre (t : Station) (i : Nat) :
    (t.raise i).pre = t.pre := rfl
@[simp] theorem Station.raise_sigs (t : Station) (i : Nat) :
    (t.raise i).sigs = t.sigs := rfl
@[simp] theorem Station.raise_flagStores (t : Station) (i : Nat) :
    (t.raise i).flagStores = t.flagStores := rfl
@[simp] theorem Station.raise_boardings (t : Station) (i : Nat) :
    (t.raise i).boardings = t.boardings := rfl

/-! ### `Station.lower` -/

@[simp] theorem Station.lower_sys (t : Station) (i : Nat) :
    (t.lower i).sys = t.sys := rfl
@[simp] theorem Station.lower_run (t : Station) (i : Nat) :
    (t.lower i).run = t.run := rfl
@[simp] theorem Station.lower_streams (t : Station) (i : Nat) :
    (t.lower i).streams = t.streams := rfl
@[simp] theorem Station.lower_pend (t : Station) (i : Nat) :
    (t.lower i).pend = t.pend := rfl
@[simp] theorem Station.lower_mat (t : Station) (i : Nat) :
    (t.lower i).mat = t.mat := rfl
@[simp] theorem Station.lower_ch (t : Station) (i : Nat) :
    (t.lower i).ch = t.ch := rfl
@[simp] theorem Station.lower_bitmaps (t : Station) (i : Nat) :
    (t.lower i).bitmaps = t.bitmaps := rfl
@[simp] theorem Station.lower_pins (t : Station) (i : Nat) :
    (t.lower i).pins = t.pins := rfl
@[simp] theorem Station.lower_pinDue (t : Station) (i : Nat) :
    (t.lower i).pinDue = t.pinDue := rfl
@[simp] theorem Station.lower_scale (t : Station) (i : Nat) :
    (t.lower i).scale = t.scale := rfl
@[simp] theorem Station.lower_tap (t : Station) (i : Nat) :
    (t.lower i).tap = t.tap := rfl
@[simp] theorem Station.lower_trap (t : Station) (i : Nat) :
    (t.lower i).trap = t.trap := rfl
@[simp] theorem Station.lower_pre (t : Station) (i : Nat) :
    (t.lower i).pre = t.pre := rfl
@[simp] theorem Station.lower_sigs (t : Station) (i : Nat) :
    (t.lower i).sigs = t.sigs := rfl
@[simp] theorem Station.lower_flagStores (t : Station) (i : Nat) :
    (t.lower i).flagStores = t.flagStores := rfl
@[simp] theorem Station.lower_boardings (t : Station) (i : Nat) :
    (t.lower i).boardings = t.boardings := rfl

/-! ### `Station.commitHs` -/

@[simp] theorem Station.commitHs_sys (t : Station) :
    (t.commitHs).sys = t.sys := rfl
@[simp] theorem Station.commitHs_run (t : Station) :
    (t.commitHs).run = t.run := rfl
@[simp] theorem Station.commitHs_streams (t : Station) :
    (t.commitHs).streams = t.streams := rfl
@[simp] theorem Station.commitHs_pend (t : Station) :
    (t.commitHs).pend = t.pend := rfl
@[simp] theorem Station.commitHs_mat (t : Station) :
    (t.commitHs).mat = t.mat := rfl
@[simp] theorem Station.commitHs_ch (t : Station) :
    (t.commitHs).ch = t.ch := rfl
@[simp] theorem Station.commitHs_bitmaps (t : Station) :
    (t.commitHs).bitmaps = t.bitmaps := rfl
@[simp] theorem Station.commitHs_pins (t : Station) :
    (t.commitHs).pins = t.pins := rfl
@[simp] theorem Station.commitHs_pinDue (t : Station) :
    (t.commitHs).pinDue = t.pinDue := rfl
@[simp] theorem Station.commitHs_scale (t : Station) :
    (t.commitHs).scale = t.scale := rfl
@[simp] theorem Station.commitHs_tap (t : Station) :
    (t.commitHs).tap = t.tap := rfl
@[simp] theorem Station.commitHs_trap (t : Station) :
    (t.commitHs).trap = t.trap := rfl
@[simp] theorem Station.commitHs_pre (t : Station) :
    (t.commitHs).pre = t.pre := rfl
@[simp] theorem Station.commitHs_sigs (t : Station) :
    (t.commitHs).sigs = t.sigs := rfl
@[simp] theorem Station.commitHs_flagStores (t : Station) :
    (t.commitHs).flagStores = t.flagStores := rfl
@[simp] theorem Station.commitHs_boardings (t : Station) :
    (t.commitHs).boardings = t.boardings := rfl

/-! ### `Station.setTile` -/

@[simp] theorem Station.setTile_sys (t : Station) (i : BitVec 3) (x : Tile) :
    (t.setTile i x).sys = t.sys := rfl
@[simp] theorem Station.setTile_run (t : Station) (i : BitVec 3) (x : Tile) :
    (t.setTile i x).run = t.run := rfl
@[simp] theorem Station.setTile_streams (t : Station) (i : BitVec 3) (x : Tile) :
    (t.setTile i x).streams = t.streams := rfl
@[simp] theorem Station.setTile_pend (t : Station) (i : BitVec 3) (x : Tile) :
    (t.setTile i x).pend = t.pend := rfl
@[simp] theorem Station.setTile_mat (t : Station) (i : BitVec 3) (x : Tile) :
    (t.setTile i x).mat = t.mat := rfl
@[simp] theorem Station.setTile_ch (t : Station) (i : BitVec 3) (x : Tile) :
    (t.setTile i x).ch = t.ch := rfl
@[simp] theorem Station.setTile_bitmaps (t : Station) (i : BitVec 3) (x : Tile) :
    (t.setTile i x).bitmaps = t.bitmaps := rfl
@[simp] theorem Station.setTile_pins (t : Station) (i : BitVec 3) (x : Tile) :
    (t.setTile i x).pins = t.pins := rfl
@[simp] theorem Station.setTile_pinDue (t : Station) (i : BitVec 3) (x : Tile) :
    (t.setTile i x).pinDue = t.pinDue := rfl
@[simp] theorem Station.setTile_scale (t : Station) (i : BitVec 3) (x : Tile) :
    (t.setTile i x).scale = t.scale := rfl
@[simp] theorem Station.setTile_tap (t : Station) (i : BitVec 3) (x : Tile) :
    (t.setTile i x).tap = t.tap := rfl
@[simp] theorem Station.setTile_trap (t : Station) (i : BitVec 3) (x : Tile) :
    (t.setTile i x).trap = t.trap := rfl
@[simp] theorem Station.setTile_pre (t : Station) (i : BitVec 3) (x : Tile) :
    (t.setTile i x).pre = t.pre := rfl
@[simp] theorem Station.setTile_sigs (t : Station) (i : BitVec 3) (x : Tile) :
    (t.setTile i x).sigs = t.sigs := rfl
@[simp] theorem Station.setTile_flagStores (t : Station) (i : BitVec 3) (x : Tile) :
    (t.setTile i x).flagStores = t.flagStores := rfl
@[simp] theorem Station.setTile_boardings (t : Station) (i : BitVec 3) (x : Tile) :
    (t.setTile i x).boardings = t.boardings := rfl

/-! ### `Station.later` -/

@[simp] theorem Station.later_regs (t : Station) (due iss eng : Nat) (e : Eff) :
    (t.later due iss eng e).regs = t.regs := rfl
@[simp] theorem Station.later_sys (t : Station) (due iss eng : Nat) (e : Eff) :
    (t.later due iss eng e).sys = t.sys := rfl
@[simp] theorem Station.later_run (t : Station) (due iss eng : Nat) (e : Eff) :
    (t.later due iss eng e).run = t.run := rfl
@[simp] theorem Station.later_streams (t : Station) (due iss eng : Nat) (e : Eff) :
    (t.later due iss eng e).streams = t.streams := rfl
@[simp] theorem Station.later_mat (t : Station) (due iss eng : Nat) (e : Eff) :
    (t.later due iss eng e).mat = t.mat := rfl
@[simp] theorem Station.later_ch (t : Station) (due iss eng : Nat) (e : Eff) :
    (t.later due iss eng e).ch = t.ch := rfl
@[simp] theorem Station.later_bitmaps (t : Station) (due iss eng : Nat) (e : Eff) :
    (t.later due iss eng e).bitmaps = t.bitmaps := rfl
@[simp] theorem Station.later_pins (t : Station) (due iss eng : Nat) (e : Eff) :
    (t.later due iss eng e).pins = t.pins := rfl
@[simp] theorem Station.later_pinDue (t : Station) (due iss eng : Nat) (e : Eff) :
    (t.later due iss eng e).pinDue = t.pinDue := rfl
@[simp] theorem Station.later_scale (t : Station) (due iss eng : Nat) (e : Eff) :
    (t.later due iss eng e).scale = t.scale := rfl
@[simp] theorem Station.later_tap (t : Station) (due iss eng : Nat) (e : Eff) :
    (t.later due iss eng e).tap = t.tap := rfl
@[simp] theorem Station.later_trap (t : Station) (due iss eng : Nat) (e : Eff) :
    (t.later due iss eng e).trap = t.trap := rfl
@[simp] theorem Station.later_pre (t : Station) (due iss eng : Nat) (e : Eff) :
    (t.later due iss eng e).pre = t.pre := rfl
@[simp] theorem Station.later_sigs (t : Station) (due iss eng : Nat) (e : Eff) :
    (t.later due iss eng e).sigs = t.sigs := rfl
@[simp] theorem Station.later_flagStores (t : Station) (due iss eng : Nat) (e : Eff) :
    (t.later due iss eng e).flagStores = t.flagStores := rfl
@[simp] theorem Station.later_boardings (t : Station) (due iss eng : Nat) (e : Eff) :
    (t.later due iss eng e).boardings = t.boardings := rfl

/-! ### `Station.setFlags` -/

@[simp] theorem Station.setFlags_regs (t : Station) (f : BitVec 7) :
    (t.setFlags f).regs = t.regs := rfl
@[simp] theorem Station.setFlags_run (t : Station) (f : BitVec 7) :
    (t.setFlags f).run = t.run := rfl
@[simp] theorem Station.setFlags_streams (t : Station) (f : BitVec 7) :
    (t.setFlags f).streams = t.streams := rfl
@[simp] theorem Station.setFlags_pend (t : Station) (f : BitVec 7) :
    (t.setFlags f).pend = t.pend := rfl
@[simp] theorem Station.setFlags_mat (t : Station) (f : BitVec 7) :
    (t.setFlags f).mat = t.mat := rfl
@[simp] theorem Station.setFlags_ch (t : Station) (f : BitVec 7) :
    (t.setFlags f).ch = t.ch := rfl
@[simp] theorem Station.setFlags_bitmaps (t : Station) (f : BitVec 7) :
    (t.setFlags f).bitmaps = t.bitmaps := rfl
@[simp] theorem Station.setFlags_pins (t : Station) (f : BitVec 7) :
    (t.setFlags f).pins = t.pins := rfl
@[simp] theorem Station.setFlags_pinDue (t : Station) (f : BitVec 7) :
    (t.setFlags f).pinDue = t.pinDue := rfl
@[simp] theorem Station.setFlags_scale (t : Station) (f : BitVec 7) :
    (t.setFlags f).scale = t.scale := rfl
@[simp] theorem Station.setFlags_tap (t : Station) (f : BitVec 7) :
    (t.setFlags f).tap = t.tap := rfl
@[simp] theorem Station.setFlags_trap (t : Station) (f : BitVec 7) :
    (t.setFlags f).trap = t.trap := rfl
@[simp] theorem Station.setFlags_pre (t : Station) (f : BitVec 7) :
    (t.setFlags f).pre = t.pre := rfl
@[simp] theorem Station.setFlags_sigs (t : Station) (f : BitVec 7) :
    (t.setFlags f).sigs = t.sigs := rfl
@[simp] theorem Station.setFlags_flagStores (t : Station) (f : BitVec 7) :
    (t.setFlags f).flagStores = t.flagStores := rfl
@[simp] theorem Station.setFlags_boardings (t : Station) (f : BitVec 7) :
    (t.setFlags f).boardings = t.boardings := rfl

/-! ### `Station.onSys` -/

@[simp] theorem Station.onSys_regs (t : Station) (f : SysRegs → SysRegs) :
    (t.onSys f).regs = t.regs := rfl
@[simp] theorem Station.onSys_run (t : Station) (f : SysRegs → SysRegs) :
    (t.onSys f).run = t.run := rfl
@[simp] theorem Station.onSys_streams (t : Station) (f : SysRegs → SysRegs) :
    (t.onSys f).streams = t.streams := rfl
@[simp] theorem Station.onSys_pend (t : Station) (f : SysRegs → SysRegs) :
    (t.onSys f).pend = t.pend := rfl
@[simp] theorem Station.onSys_mat (t : Station) (f : SysRegs → SysRegs) :
    (t.onSys f).mat = t.mat := rfl
@[simp] theorem Station.onSys_ch (t : Station) (f : SysRegs → SysRegs) :
    (t.onSys f).ch = t.ch := rfl
@[simp] theorem Station.onSys_bitmaps (t : Station) (f : SysRegs → SysRegs) :
    (t.onSys f).bitmaps = t.bitmaps := rfl
@[simp] theorem Station.onSys_pins (t : Station) (f : SysRegs → SysRegs) :
    (t.onSys f).pins = t.pins := rfl
@[simp] theorem Station.onSys_pinDue (t : Station) (f : SysRegs → SysRegs) :
    (t.onSys f).pinDue = t.pinDue := rfl
@[simp] theorem Station.onSys_scale (t : Station) (f : SysRegs → SysRegs) :
    (t.onSys f).scale = t.scale := rfl
@[simp] theorem Station.onSys_tap (t : Station) (f : SysRegs → SysRegs) :
    (t.onSys f).tap = t.tap := rfl
@[simp] theorem Station.onSys_trap (t : Station) (f : SysRegs → SysRegs) :
    (t.onSys f).trap = t.trap := rfl
@[simp] theorem Station.onSys_pre (t : Station) (f : SysRegs → SysRegs) :
    (t.onSys f).pre = t.pre := rfl
@[simp] theorem Station.onSys_sigs (t : Station) (f : SysRegs → SysRegs) :
    (t.onSys f).sigs = t.sigs := rfl
@[simp] theorem Station.onSys_flagStores (t : Station) (f : SysRegs → SysRegs) :
    (t.onSys f).flagStores = t.flagStores := rfl
@[simp] theorem Station.onSys_boardings (t : Station) (f : SysRegs → SysRegs) :
    (t.onSys f).boardings = t.boardings := rfl

/-! ### `Station.onTrap` -/

@[simp] theorem Station.onTrap_regs (t : Station) (f : TrapRegs → TrapRegs) :
    (t.onTrap f).regs = t.regs := rfl
@[simp] theorem Station.onTrap_sys (t : Station) (f : TrapRegs → TrapRegs) :
    (t.onTrap f).sys = t.sys := rfl
@[simp] theorem Station.onTrap_run (t : Station) (f : TrapRegs → TrapRegs) :
    (t.onTrap f).run = t.run := rfl
@[simp] theorem Station.onTrap_streams (t : Station) (f : TrapRegs → TrapRegs) :
    (t.onTrap f).streams = t.streams := rfl
@[simp] theorem Station.onTrap_pend (t : Station) (f : TrapRegs → TrapRegs) :
    (t.onTrap f).pend = t.pend := rfl
@[simp] theorem Station.onTrap_mat (t : Station) (f : TrapRegs → TrapRegs) :
    (t.onTrap f).mat = t.mat := rfl
@[simp] theorem Station.onTrap_ch (t : Station) (f : TrapRegs → TrapRegs) :
    (t.onTrap f).ch = t.ch := rfl
@[simp] theorem Station.onTrap_bitmaps (t : Station) (f : TrapRegs → TrapRegs) :
    (t.onTrap f).bitmaps = t.bitmaps := rfl
@[simp] theorem Station.onTrap_pins (t : Station) (f : TrapRegs → TrapRegs) :
    (t.onTrap f).pins = t.pins := rfl
@[simp] theorem Station.onTrap_pinDue (t : Station) (f : TrapRegs → TrapRegs) :
    (t.onTrap f).pinDue = t.pinDue := rfl
@[simp] theorem Station.onTrap_scale (t : Station) (f : TrapRegs → TrapRegs) :
    (t.onTrap f).scale = t.scale := rfl
@[simp] theorem Station.onTrap_tap (t : Station) (f : TrapRegs → TrapRegs) :
    (t.onTrap f).tap = t.tap := rfl
@[simp] theorem Station.onTrap_pre (t : Station) (f : TrapRegs → TrapRegs) :
    (t.onTrap f).pre = t.pre := rfl
@[simp] theorem Station.onTrap_sigs (t : Station) (f : TrapRegs → TrapRegs) :
    (t.onTrap f).sigs = t.sigs := rfl
@[simp] theorem Station.onTrap_flagStores (t : Station) (f : TrapRegs → TrapRegs) :
    (t.onTrap f).flagStores = t.flagStores := rfl
@[simp] theorem Station.onTrap_boardings (t : Station) (f : TrapRegs → TrapRegs) :
    (t.onTrap f).boardings = t.boardings := rfl

/-! ### `Station.halt` -/

@[simp] theorem Station.halt_regs (t : Station) :
    (t.halt).regs = t.regs := rfl
@[simp] theorem Station.halt_sys (t : Station) :
    (t.halt).sys = t.sys := rfl
@[simp] theorem Station.halt_run (t : Station) :
    (t.halt).run = t.run := rfl
@[simp] theorem Station.halt_streams (t : Station) :
    (t.halt).streams = t.streams := rfl
@[simp] theorem Station.halt_pend (t : Station) :
    (t.halt).pend = t.pend := rfl
@[simp] theorem Station.halt_mat (t : Station) :
    (t.halt).mat = t.mat := rfl
@[simp] theorem Station.halt_ch (t : Station) :
    (t.halt).ch = t.ch := rfl
@[simp] theorem Station.halt_bitmaps (t : Station) :
    (t.halt).bitmaps = t.bitmaps := rfl
@[simp] theorem Station.halt_pins (t : Station) :
    (t.halt).pins = t.pins := rfl
@[simp] theorem Station.halt_pinDue (t : Station) :
    (t.halt).pinDue = t.pinDue := rfl
@[simp] theorem Station.halt_scale (t : Station) :
    (t.halt).scale = t.scale := rfl
@[simp] theorem Station.halt_tap (t : Station) :
    (t.halt).tap = t.tap := rfl
@[simp] theorem Station.halt_pre (t : Station) :
    (t.halt).pre = t.pre := rfl
@[simp] theorem Station.halt_sigs (t : Station) :
    (t.halt).sigs = t.sigs := rfl
@[simp] theorem Station.halt_flagStores (t : Station) :
    (t.halt).flagStores = t.flagStores := rfl
@[simp] theorem Station.halt_boardings (t : Station) :
    (t.halt).boardings = t.boardings := rfl

/-! ### `Station.setStream` -/

@[simp] theorem Station.setStream_regs (t : Station) (e : Engine) (x : Stream) :
    (t.setStream e x).regs = t.regs := rfl
@[simp] theorem Station.setStream_sys (t : Station) (e : Engine) (x : Stream) :
    (t.setStream e x).sys = t.sys := rfl
@[simp] theorem Station.setStream_run (t : Station) (e : Engine) (x : Stream) :
    (t.setStream e x).run = t.run := rfl
@[simp] theorem Station.setStream_pend (t : Station) (e : Engine) (x : Stream) :
    (t.setStream e x).pend = t.pend := rfl
@[simp] theorem Station.setStream_mat (t : Station) (e : Engine) (x : Stream) :
    (t.setStream e x).mat = t.mat := rfl
@[simp] theorem Station.setStream_ch (t : Station) (e : Engine) (x : Stream) :
    (t.setStream e x).ch = t.ch := rfl
@[simp] theorem Station.setStream_bitmaps (t : Station) (e : Engine) (x : Stream) :
    (t.setStream e x).bitmaps = t.bitmaps := rfl
@[simp] theorem Station.setStream_pins (t : Station) (e : Engine) (x : Stream) :
    (t.setStream e x).pins = t.pins := rfl
@[simp] theorem Station.setStream_pinDue (t : Station) (e : Engine) (x : Stream) :
    (t.setStream e x).pinDue = t.pinDue := rfl
@[simp] theorem Station.setStream_scale (t : Station) (e : Engine) (x : Stream) :
    (t.setStream e x).scale = t.scale := rfl
@[simp] theorem Station.setStream_tap (t : Station) (e : Engine) (x : Stream) :
    (t.setStream e x).tap = t.tap := rfl
@[simp] theorem Station.setStream_trap (t : Station) (e : Engine) (x : Stream) :
    (t.setStream e x).trap = t.trap := rfl
@[simp] theorem Station.setStream_pre (t : Station) (e : Engine) (x : Stream) :
    (t.setStream e x).pre = t.pre := rfl
@[simp] theorem Station.setStream_sigs (t : Station) (e : Engine) (x : Stream) :
    (t.setStream e x).sigs = t.sigs := rfl
@[simp] theorem Station.setStream_flagStores (t : Station) (e : Engine) (x : Stream) :
    (t.setStream e x).flagStores = t.flagStores := rfl
@[simp] theorem Station.setStream_boardings (t : Station) (e : Engine) (x : Stream) :
    (t.setStream e x).boardings = t.boardings := rfl

/-! ### `Station.setLoop` -/

@[simp] theorem Station.setLoop_regs (t : Station) (e : Engine) (l : BitVec 1) (x : Loop) :
    (t.setLoop e l x).regs = t.regs := rfl
@[simp] theorem Station.setLoop_sys (t : Station) (e : Engine) (l : BitVec 1) (x : Loop) :
    (t.setLoop e l x).sys = t.sys := rfl
@[simp] theorem Station.setLoop_run (t : Station) (e : Engine) (l : BitVec 1) (x : Loop) :
    (t.setLoop e l x).run = t.run := rfl
@[simp] theorem Station.setLoop_pend (t : Station) (e : Engine) (l : BitVec 1) (x : Loop) :
    (t.setLoop e l x).pend = t.pend := rfl
@[simp] theorem Station.setLoop_mat (t : Station) (e : Engine) (l : BitVec 1) (x : Loop) :
    (t.setLoop e l x).mat = t.mat := rfl
@[simp] theorem Station.setLoop_ch (t : Station) (e : Engine) (l : BitVec 1) (x : Loop) :
    (t.setLoop e l x).ch = t.ch := rfl
@[simp] theorem Station.setLoop_bitmaps (t : Station) (e : Engine) (l : BitVec 1) (x : Loop) :
    (t.setLoop e l x).bitmaps = t.bitmaps := rfl
@[simp] theorem Station.setLoop_pins (t : Station) (e : Engine) (l : BitVec 1) (x : Loop) :
    (t.setLoop e l x).pins = t.pins := rfl
@[simp] theorem Station.setLoop_pinDue (t : Station) (e : Engine) (l : BitVec 1) (x : Loop) :
    (t.setLoop e l x).pinDue = t.pinDue := rfl
@[simp] theorem Station.setLoop_scale (t : Station) (e : Engine) (l : BitVec 1) (x : Loop) :
    (t.setLoop e l x).scale = t.scale := rfl
@[simp] theorem Station.setLoop_tap (t : Station) (e : Engine) (l : BitVec 1) (x : Loop) :
    (t.setLoop e l x).tap = t.tap := rfl
@[simp] theorem Station.setLoop_trap (t : Station) (e : Engine) (l : BitVec 1) (x : Loop) :
    (t.setLoop e l x).trap = t.trap := rfl
@[simp] theorem Station.setLoop_pre (t : Station) (e : Engine) (l : BitVec 1) (x : Loop) :
    (t.setLoop e l x).pre = t.pre := rfl
@[simp] theorem Station.setLoop_sigs (t : Station) (e : Engine) (l : BitVec 1) (x : Loop) :
    (t.setLoop e l x).sigs = t.sigs := rfl
@[simp] theorem Station.setLoop_flagStores (t : Station) (e : Engine) (l : BitVec 1) (x : Loop) :
    (t.setLoop e l x).flagStores = t.flagStores := rfl
@[simp] theorem Station.setLoop_boardings (t : Station) (e : Engine) (l : BitVec 1) (x : Loop) :
    (t.setLoop e l x).boardings = t.boardings := rfl

/-! ### `Station.onChan` -/

@[simp] theorem Station.onChan_regs (t : Station) (i : Nat) (f : Channel → Channel) :
    (t.onChan i f).regs = t.regs := rfl
@[simp] theorem Station.onChan_sys (t : Station) (i : Nat) (f : Channel → Channel) :
    (t.onChan i f).sys = t.sys := rfl
@[simp] theorem Station.onChan_run (t : Station) (i : Nat) (f : Channel → Channel) :
    (t.onChan i f).run = t.run := rfl
@[simp] theorem Station.onChan_streams (t : Station) (i : Nat) (f : Channel → Channel) :
    (t.onChan i f).streams = t.streams := rfl
@[simp] theorem Station.onChan_pend (t : Station) (i : Nat) (f : Channel → Channel) :
    (t.onChan i f).pend = t.pend := rfl
@[simp] theorem Station.onChan_mat (t : Station) (i : Nat) (f : Channel → Channel) :
    (t.onChan i f).mat = t.mat := rfl
@[simp] theorem Station.onChan_bitmaps (t : Station) (i : Nat) (f : Channel → Channel) :
    (t.onChan i f).bitmaps = t.bitmaps := rfl
@[simp] theorem Station.onChan_pins (t : Station) (i : Nat) (f : Channel → Channel) :
    (t.onChan i f).pins = t.pins := rfl
@[simp] theorem Station.onChan_pinDue (t : Station) (i : Nat) (f : Channel → Channel) :
    (t.onChan i f).pinDue = t.pinDue := rfl
@[simp] theorem Station.onChan_scale (t : Station) (i : Nat) (f : Channel → Channel) :
    (t.onChan i f).scale = t.scale := rfl
@[simp] theorem Station.onChan_tap (t : Station) (i : Nat) (f : Channel → Channel) :
    (t.onChan i f).tap = t.tap := rfl
@[simp] theorem Station.onChan_trap (t : Station) (i : Nat) (f : Channel → Channel) :
    (t.onChan i f).trap = t.trap := rfl
@[simp] theorem Station.onChan_pre (t : Station) (i : Nat) (f : Channel → Channel) :
    (t.onChan i f).pre = t.pre := rfl
@[simp] theorem Station.onChan_sigs (t : Station) (i : Nat) (f : Channel → Channel) :
    (t.onChan i f).sigs = t.sigs := rfl
@[simp] theorem Station.onChan_flagStores (t : Station) (i : Nat) (f : Channel → Channel) :
    (t.onChan i f).flagStores = t.flagStores := rfl
@[simp] theorem Station.onChan_boardings (t : Station) (i : Nat) (f : Channel → Channel) :
    (t.onChan i f).boardings = t.boardings := rfl

/-! ### `Station.setBitmap` -/

@[simp] theorem Station.setBitmap_regs (t : Station) (i : Nat) (b : Bitmap) :
    (t.setBitmap i b).regs = t.regs := rfl
@[simp] theorem Station.setBitmap_sys (t : Station) (i : Nat) (b : Bitmap) :
    (t.setBitmap i b).sys = t.sys := rfl
@[simp] theorem Station.setBitmap_run (t : Station) (i : Nat) (b : Bitmap) :
    (t.setBitmap i b).run = t.run := rfl
@[simp] theorem Station.setBitmap_streams (t : Station) (i : Nat) (b : Bitmap) :
    (t.setBitmap i b).streams = t.streams := rfl
@[simp] theorem Station.setBitmap_pend (t : Station) (i : Nat) (b : Bitmap) :
    (t.setBitmap i b).pend = t.pend := rfl
@[simp] theorem Station.setBitmap_mat (t : Station) (i : Nat) (b : Bitmap) :
    (t.setBitmap i b).mat = t.mat := rfl
@[simp] theorem Station.setBitmap_ch (t : Station) (i : Nat) (b : Bitmap) :
    (t.setBitmap i b).ch = t.ch := rfl
@[simp] theorem Station.setBitmap_pins (t : Station) (i : Nat) (b : Bitmap) :
    (t.setBitmap i b).pins = t.pins := rfl
@[simp] theorem Station.setBitmap_pinDue (t : Station) (i : Nat) (b : Bitmap) :
    (t.setBitmap i b).pinDue = t.pinDue := rfl
@[simp] theorem Station.setBitmap_scale (t : Station) (i : Nat) (b : Bitmap) :
    (t.setBitmap i b).scale = t.scale := rfl
@[simp] theorem Station.setBitmap_tap (t : Station) (i : Nat) (b : Bitmap) :
    (t.setBitmap i b).tap = t.tap := rfl
@[simp] theorem Station.setBitmap_trap (t : Station) (i : Nat) (b : Bitmap) :
    (t.setBitmap i b).trap = t.trap := rfl
@[simp] theorem Station.setBitmap_pre (t : Station) (i : Nat) (b : Bitmap) :
    (t.setBitmap i b).pre = t.pre := rfl
@[simp] theorem Station.setBitmap_sigs (t : Station) (i : Nat) (b : Bitmap) :
    (t.setBitmap i b).sigs = t.sigs := rfl
@[simp] theorem Station.setBitmap_flagStores (t : Station) (i : Nat) (b : Bitmap) :
    (t.setBitmap i b).flagStores = t.flagStores := rfl
@[simp] theorem Station.setBitmap_boardings (t : Station) (i : Nat) (b : Bitmap) :
    (t.setBitmap i b).boardings = t.boardings := rfl

/-! ### `Station.setScaleUnit` -/

@[simp] theorem Station.setScaleUnit_regs (t : Station) (i : Nat) (u : ScaleUnit) :
    (t.setScaleUnit i u).regs = t.regs := rfl
@[simp] theorem Station.setScaleUnit_sys (t : Station) (i : Nat) (u : ScaleUnit) :
    (t.setScaleUnit i u).sys = t.sys := rfl
@[simp] theorem Station.setScaleUnit_run (t : Station) (i : Nat) (u : ScaleUnit) :
    (t.setScaleUnit i u).run = t.run := rfl
@[simp] theorem Station.setScaleUnit_streams (t : Station) (i : Nat) (u : ScaleUnit) :
    (t.setScaleUnit i u).streams = t.streams := rfl
@[simp] theorem Station.setScaleUnit_pend (t : Station) (i : Nat) (u : ScaleUnit) :
    (t.setScaleUnit i u).pend = t.pend := rfl
@[simp] theorem Station.setScaleUnit_mat (t : Station) (i : Nat) (u : ScaleUnit) :
    (t.setScaleUnit i u).mat = t.mat := rfl
@[simp] theorem Station.setScaleUnit_ch (t : Station) (i : Nat) (u : ScaleUnit) :
    (t.setScaleUnit i u).ch = t.ch := rfl
@[simp] theorem Station.setScaleUnit_bitmaps (t : Station) (i : Nat) (u : ScaleUnit) :
    (t.setScaleUnit i u).bitmaps = t.bitmaps := rfl
@[simp] theorem Station.setScaleUnit_pins (t : Station) (i : Nat) (u : ScaleUnit) :
    (t.setScaleUnit i u).pins = t.pins := rfl
@[simp] theorem Station.setScaleUnit_pinDue (t : Station) (i : Nat) (u : ScaleUnit) :
    (t.setScaleUnit i u).pinDue = t.pinDue := rfl
@[simp] theorem Station.setScaleUnit_tap (t : Station) (i : Nat) (u : ScaleUnit) :
    (t.setScaleUnit i u).tap = t.tap := rfl
@[simp] theorem Station.setScaleUnit_trap (t : Station) (i : Nat) (u : ScaleUnit) :
    (t.setScaleUnit i u).trap = t.trap := rfl
@[simp] theorem Station.setScaleUnit_pre (t : Station) (i : Nat) (u : ScaleUnit) :
    (t.setScaleUnit i u).pre = t.pre := rfl
@[simp] theorem Station.setScaleUnit_sigs (t : Station) (i : Nat) (u : ScaleUnit) :
    (t.setScaleUnit i u).sigs = t.sigs := rfl
@[simp] theorem Station.setScaleUnit_flagStores (t : Station) (i : Nat) (u : ScaleUnit) :
    (t.setScaleUnit i u).flagStores = t.flagStores := rfl
@[simp] theorem Station.setScaleUnit_boardings (t : Station) (i : Nat) (u : ScaleUnit) :
    (t.setScaleUnit i u).boardings = t.boardings := rfl

/-! ### `Station.onMapSlot` -/

@[simp] theorem Station.onMapSlot_regs (t : Station) (i : Nat) (f : MapSlot → MapSlot) :
    (t.onMapSlot i f).regs = t.regs := rfl
@[simp] theorem Station.onMapSlot_sys (t : Station) (i : Nat) (f : MapSlot → MapSlot) :
    (t.onMapSlot i f).sys = t.sys := rfl
@[simp] theorem Station.onMapSlot_run (t : Station) (i : Nat) (f : MapSlot → MapSlot) :
    (t.onMapSlot i f).run = t.run := rfl
@[simp] theorem Station.onMapSlot_streams (t : Station) (i : Nat) (f : MapSlot → MapSlot) :
    (t.onMapSlot i f).streams = t.streams := rfl
@[simp] theorem Station.onMapSlot_pend (t : Station) (i : Nat) (f : MapSlot → MapSlot) :
    (t.onMapSlot i f).pend = t.pend := rfl
@[simp] theorem Station.onMapSlot_ch (t : Station) (i : Nat) (f : MapSlot → MapSlot) :
    (t.onMapSlot i f).ch = t.ch := rfl
@[simp] theorem Station.onMapSlot_bitmaps (t : Station) (i : Nat) (f : MapSlot → MapSlot) :
    (t.onMapSlot i f).bitmaps = t.bitmaps := rfl
@[simp] theorem Station.onMapSlot_pins (t : Station) (i : Nat) (f : MapSlot → MapSlot) :
    (t.onMapSlot i f).pins = t.pins := rfl
@[simp] theorem Station.onMapSlot_pinDue (t : Station) (i : Nat) (f : MapSlot → MapSlot) :
    (t.onMapSlot i f).pinDue = t.pinDue := rfl
@[simp] theorem Station.onMapSlot_scale (t : Station) (i : Nat) (f : MapSlot → MapSlot) :
    (t.onMapSlot i f).scale = t.scale := rfl
@[simp] theorem Station.onMapSlot_tap (t : Station) (i : Nat) (f : MapSlot → MapSlot) :
    (t.onMapSlot i f).tap = t.tap := rfl
@[simp] theorem Station.onMapSlot_trap (t : Station) (i : Nat) (f : MapSlot → MapSlot) :
    (t.onMapSlot i f).trap = t.trap := rfl
@[simp] theorem Station.onMapSlot_pre (t : Station) (i : Nat) (f : MapSlot → MapSlot) :
    (t.onMapSlot i f).pre = t.pre := rfl
@[simp] theorem Station.onMapSlot_sigs (t : Station) (i : Nat) (f : MapSlot → MapSlot) :
    (t.onMapSlot i f).sigs = t.sigs := rfl
@[simp] theorem Station.onMapSlot_flagStores (t : Station) (i : Nat) (f : MapSlot → MapSlot) :
    (t.onMapSlot i f).flagStores = t.flagStores := rfl
@[simp] theorem Station.onMapSlot_boardings (t : Station) (i : Nat) (f : MapSlot → MapSlot) :
    (t.onMapSlot i f).boardings = t.boardings := rfl

/-! ### `Station.setFifo` -/

@[simp] theorem Station.setFifo_regs (t : Station) (b : Bool) (f : Fifo) :
    (t.setFifo b f).regs = t.regs := by cases b <;> rfl
@[simp] theorem Station.setFifo_sys (t : Station) (b : Bool) (f : Fifo) :
    (t.setFifo b f).sys = t.sys := by cases b <;> rfl
@[simp] theorem Station.setFifo_run (t : Station) (b : Bool) (f : Fifo) :
    (t.setFifo b f).run = t.run := by cases b <;> rfl
@[simp] theorem Station.setFifo_streams (t : Station) (b : Bool) (f : Fifo) :
    (t.setFifo b f).streams = t.streams := by cases b <;> rfl
@[simp] theorem Station.setFifo_pend (t : Station) (b : Bool) (f : Fifo) :
    (t.setFifo b f).pend = t.pend := by cases b <;> rfl
@[simp] theorem Station.setFifo_ch (t : Station) (b : Bool) (f : Fifo) :
    (t.setFifo b f).ch = t.ch := by cases b <;> rfl
@[simp] theorem Station.setFifo_bitmaps (t : Station) (b : Bool) (f : Fifo) :
    (t.setFifo b f).bitmaps = t.bitmaps := by cases b <;> rfl
@[simp] theorem Station.setFifo_pins (t : Station) (b : Bool) (f : Fifo) :
    (t.setFifo b f).pins = t.pins := by cases b <;> rfl
@[simp] theorem Station.setFifo_pinDue (t : Station) (b : Bool) (f : Fifo) :
    (t.setFifo b f).pinDue = t.pinDue := by cases b <;> rfl
@[simp] theorem Station.setFifo_scale (t : Station) (b : Bool) (f : Fifo) :
    (t.setFifo b f).scale = t.scale := by cases b <;> rfl
@[simp] theorem Station.setFifo_tap (t : Station) (b : Bool) (f : Fifo) :
    (t.setFifo b f).tap = t.tap := by cases b <;> rfl
@[simp] theorem Station.setFifo_trap (t : Station) (b : Bool) (f : Fifo) :
    (t.setFifo b f).trap = t.trap := by cases b <;> rfl
@[simp] theorem Station.setFifo_pre (t : Station) (b : Bool) (f : Fifo) :
    (t.setFifo b f).pre = t.pre := by cases b <;> rfl
@[simp] theorem Station.setFifo_sigs (t : Station) (b : Bool) (f : Fifo) :
    (t.setFifo b f).sigs = t.sigs := by cases b <;> rfl
@[simp] theorem Station.setFifo_flagStores (t : Station) (b : Bool) (f : Fifo) :
    (t.setFifo b f).flagStores = t.flagStores := by cases b <;> rfl
@[simp] theorem Station.setFifo_boardings (t : Station) (b : Bool) (f : Fifo) :
    (t.setFifo b f).boardings = t.boardings := by cases b <;> rfl

/-! ### Reading a station after an update -/

@[simp] theorem State.stn_setStn (s : State) (k : Stn) (t : Station) : (s.setStn k t).stn k = t := by
  simp [State.stn, State.setStn]

theorem State.stn_setStn_ne (s : State) {j k : Stn} (t : Station) (h : j ≠ k) : (s.setStn k t).stn j = s.stn j := by
  have h' : k.val ≠ j.val := fun x => h (Fin.ext x.symm)
  simp [State.stn, State.setStn, Vector.getElem_set_ne _ _ h']

@[simp] theorem State.stn_onStn (s : State) (k : Stn) (f : Station → Station) : (s.onStn k f).stn k = f (s.stn k) :=
  s.stn_setStn k _

theorem State.stn_onStn_ne (s : State) {j k : Stn} (f : Station → Station) (h : j ≠ k) : (s.onStn k f).stn j = s.stn j :=
  s.stn_setStn_ne _ h

@[simp] theorem State.here_onHere (s : State) (f : Station → Station) : (s.onHere f).here = f s.here :=
  s.stn_onStn s.cur.k f

/-! ### Registers after a write -/

/-- A scalar register reads the value written, and s0 reads zero (R221). -/
theorem Station.sreg_setSreg (t : Station) (i : BitVec 5) (v : DWord) : (t.setSreg i v).sreg i = if i = 0 then 0 else v := by
  unfold Station.sreg Station.setSreg
  split <;> simp

/-- A write of a scalar register leaves the others (R221). -/
theorem Station.sreg_setSreg_ne (t : Station) {i j : BitVec 5} (v : DWord) (h : j ≠ i) : (t.setSreg i v).sreg j = t.sreg j := by
  unfold Station.sreg Station.setSreg
  split
  · rfl
  · split
    · rfl
    · have h' : i.toNat ≠ j.toNat := fun x => h (BitVec.eq_of_toNat_eq x.symm)
      simp [Vector.getElem_set_ne _ _ h']

@[simp] theorem Station.sreg_zero (t : Station) : t.sreg 0 = 0 := rfl

@[simp] theorem Station.creg_setCreg (t : Station) (i : BitVec 4) (c : Cap) : (t.setCreg i c).creg i = c := by
  simp [Station.creg, Station.setCreg]

theorem Station.creg_setCreg_ne (t : Station) {i j : BitVec 4} (c : Cap) (h : j ≠ i) : (t.setCreg i c).creg j = t.creg j := by
  have h' : i.toNat ≠ j.toNat := fun x => h (BitVec.eq_of_toNat_eq x.symm)
  simp [Station.creg, Station.setCreg, Vector.getElem_set_ne _ _ h']

@[simp] theorem Station.vreg_setVreg (t : Station) (i : BitVec 6) (v : Line) : (t.setVreg i v).vreg i = v := by
  simp [Station.vreg, Station.setVreg]

theorem Station.vreg_setVreg_ne (t : Station) {i j : BitVec 6} (v : Line) (h : j ≠ i) : (t.setVreg i v).vreg j = t.vreg j := by
  have h' : i.toNat ≠ j.toNat := fun x => h (BitVec.eq_of_toNat_eq x.symm)
  simp [Station.vreg, Station.setVreg, Vector.getElem_set_ne _ _ h']

@[simp] theorem Station.qreg_setQreg (t : Station) (i : BitVec 3) (v : DWord) : (t.setQreg i v).qreg i = v := by
  simp [Station.qreg, Station.setQreg]

theorem Station.qreg_setQreg_ne (t : Station) {i j : BitVec 3} (v : DWord) (h : j ≠ i) : (t.setQreg i v).qreg j = t.qreg j := by
  have h' : i.toNat ≠ j.toNat := fun x => h (BitVec.eq_of_toNat_eq x.symm)
  simp [Station.qreg, Station.setQreg, Vector.getElem_set_ne _ _ h']

end Sys2Proof.Machine
end

