-- ==== Sys2Proof/Laws/Memory.lean ====
section
/-!
SUPPORT. Laws of memory: every operation keeps the canonical form, a read after a write gives the byte written, and a write leaves
every other byte alone.
-/

namespace Sys2Proof.Machine

/-! ### Strictly rising lists -/

theorem rising_cons {a : Nat} {r : List Nat} : rising (a :: r) = true ↔ (∀ b ∈ r, a < b) ∧ rising r = true := by
  induction r generalizing a with
  | nil => simp [rising]
  | cons b r ih =>
    simp only [rising, Bool.and_eq_true, decide_eq_true_eq, List.mem_cons, forall_eq_or_imp]
    refine ⟨fun ⟨h, k⟩ => ⟨⟨h, fun c hc => ?_⟩, k⟩, fun ⟨⟨h, _⟩, k⟩ => ⟨h, k⟩⟩
    exact Nat.lt_trans h ((ih.1 k).1 c hc)

theorem rising_pairwise {l : List Nat} : rising l = true ↔ l.Pairwise (· < ·) := by
  induction l with
  | nil => simp [rising]
  | cons a r ih => rw [rising_cons, List.pairwise_cons, ih]

theorem rising_filter {l : List Nat} (p : Nat → Bool) (h : rising l = true) : rising (l.filter p) = true :=
  rising_pairwise.2 ((rising_pairwise.1 h).filter p)

theorem rising_setDel {l : List Nat} (k : Nat) (h : rising l = true) : rising (setDel l k) = true :=
  rising_filter _ h

theorem mem_setAdd {l : List Nat} {k a : Nat} : a ∈ setAdd l k ↔ a = k ∨ a ∈ l := by
  induction l with
  | nil => simp [setAdd]
  | cons b r ih =>
    simp only [setAdd]
    split
    · simp
    · split
      · simp_all
      · simp only [List.mem_cons, ih]; exact or_left_comm

theorem rising_setAdd {l : List Nat} (k : Nat) (h : rising l = true) : rising (setAdd l k) = true := by
  induction l with
  | nil => simp [setAdd, rising]
  | cons b r ih =>
    have hb := rising_cons.1 h
    simp only [setAdd]
    split
    · next hk => exact rising_cons.2 ⟨fun c hc => by rcases List.mem_cons.1 hc with rfl | hc
                                                     · exact hk
                                                     · exact Nat.lt_trans hk (hb.1 c hc), h⟩
    · split
      · exact h
      · refine rising_cons.2 ⟨fun c hc => ?_, ih hb.2⟩
        rcases mem_setAdd.1 hc with rfl | hc
        · omega
        · exact hb.1 c hc

/-! ### Cells -/

theorem mem_cellsWrite_key {l : List Host.Cell} {k : Nat} {v : Byte} {c : Host.Cell} (h : c ∈ cellsWrite l k v) :
    c.1 = k ∨ c ∈ l := by
  induction l with
  | nil => unfold cellsWrite at h; split at h <;> simp_all
  | cons b r ih =>
    obtain ⟨a, b⟩ := b
    unfold cellsWrite at h
    split at h
    · split at h
      · exact .inr h
      · rcases List.mem_cons.1 h with rfl | h
        · exact .inl rfl
        · exact .inr h
    · split at h
      · split at h
        · exact .inr (List.mem_cons_of_mem _ h)
        · rcases List.mem_cons.1 h with rfl | h
          · left; simp_all
          · exact .inr (List.mem_cons_of_mem _ h)
      · rcases List.mem_cons.1 h with rfl | h
        · exact .inr (List.mem_cons_self ..)
        · rcases ih h with h | h
          · exact .inl h
          · exact .inr (List.mem_cons_of_mem _ h)

theorem rising_cellsWrite {l : List Host.Cell} (k : Nat) (v : Byte) (h : rising (l.map (·.1)) = true) :
    rising ((cellsWrite l k v).map (·.1)) = true := by
  induction l with
  | nil => unfold cellsWrite; split <;> simp [rising]
  | cons b r ih =>
    obtain ⟨a, b⟩ := b
    have hb := (rising_cons (a := a) (r := r.map fun (c : Host.Cell) => c.1)).1 h
    unfold cellsWrite
    split
    · next hk =>
      split
      · exact h
      · refine (rising_cons (a := k) (r := a :: r.map fun (c : Host.Cell) => c.1)).2 ⟨fun c hc => ?_, h⟩
        rcases List.mem_cons.1 hc with rfl | hc
        · exact hk
        · exact Nat.lt_trans hk (hb.1 c hc)
    · split
      · split
        · exact hb.2
        · exact h
      · refine (rising_cons (a := a) (r := (cellsWrite r k v).map fun (c : Host.Cell) => c.1)).2 ⟨fun c hc => ?_, ih hb.2⟩
        obtain ⟨x, hx, rfl⟩ := List.mem_map.1 hc
        rcases mem_cellsWrite_key hx with hx | hx
        · omega
        · exact hb.1 _ (List.mem_map_of_mem hx)

theorem listed_cellsWrite {l : List Host.Cell} (k : Nat) (v : Byte) (h : l.all (fun c => c.2 != unlisted) = true) :
    (cellsWrite l k v).all (fun c => c.2 != unlisted) = true := by
  induction l with
  | nil => unfold cellsWrite; split <;> simp_all
  | cons b r ih =>
    obtain ⟨a, b⟩ := b
    have hr : r.all (fun c => c.2 != unlisted) = true := by
      rw [List.all_cons, Bool.and_eq_true] at h; exact h.2
    have ha : (b != unlisted) = true := by
      rw [List.all_cons, Bool.and_eq_true] at h; exact h.1
    unfold cellsWrite
    split
    · split
      · exact h
      · next hv => rw [List.all_cons, h, Bool.and_true]; simpa using hv
    · split
      · split
        · exact hr
        · next hv => rw [List.all_cons, hr, Bool.and_true]; simpa using hv
      · rw [List.all_cons, ih hr, Bool.and_true]; exact ha

/-- A read at the key written gives the byte written (R96). -/
theorem cellsRead_cellsWrite (l : List Host.Cell) (k : Nat) (v : Byte) (h : rising (l.map (·.1)) = true) :
    cellsRead (cellsWrite l k v) k = v := by
  induction l with
  | nil => unfold cellsWrite; split <;> simp_all [cellsRead]
  | cons b r ih =>
    obtain ⟨a, b⟩ := b
    have hb := (rising_cons (a := a) (r := r.map fun (c : Host.Cell) => c.1)).1 h
    have hno : ∀ (l : List Host.Cell), (∀ c ∈ l, k < c.1) → cellsRead l k = unlisted := by
      intro l
      induction l with
      | nil => intro _; rfl
      | cons c l ih =>
        intro hl
        obtain ⟨x, y⟩ := c
        have hx : k < x := hl (x, y) (List.mem_cons_self ..)
        unfold cellsRead
        rw [if_neg (by omega)]
        exact ih fun c hc => hl c (List.mem_cons_of_mem _ hc)
    unfold cellsWrite
    split
    · next hk =>
      split
      · next hv =>
        rw [hv]
        refine hno _ fun c hc => ?_
        rcases List.mem_cons.1 hc with rfl | hc
        · exact hk
        · exact Nat.lt_trans hk (hb.1 _ (List.mem_map_of_mem hc))
      · simp [cellsRead]
    · split
      · next hk =>
        split
        · next hv =>
          rw [hv]
          refine hno _ fun c hc => ?_
          rw [hk]
          exact hb.1 _ (List.mem_map_of_mem hc)
        · simp [cellsRead, hk]
      · next h1 h2 =>
        unfold cellsRead
        rw [if_neg h2]
        exact ih hb.2

/-- A write leaves the byte at every other key (R96). -/
theorem cellsRead_cellsWrite_ne (l : List Host.Cell) {k j : Nat} (v : Byte) (h : rising (l.map (·.1)) = true) (hj : j ≠ k) :
    cellsRead (cellsWrite l k v) j = cellsRead l j := by
  induction l with
  | nil => unfold cellsWrite; split <;> simp [cellsRead, hj]
  | cons b r ih =>
    obtain ⟨a, b⟩ := b
    have hb := (rising_cons (a := a) (r := r.map fun (c : Host.Cell) => c.1)).1 h
    unfold cellsWrite
    split
    · split
      · rfl
      · conv => lhs; unfold cellsRead
        rw [if_neg hj]
    · split
      · next hk =>
        subst hk
        split
        · conv => rhs; unfold cellsRead
          rw [if_neg hj]
        · unfold cellsRead
          rw [if_neg hj, if_neg hj]
      · unfold cellsRead
        rw [ih hb.2]

/-! ### Memory -/

theorem Memory.wf_iff (m : Memory) : m.wf = true ↔ rising (m.cells.map (·.1)) = true ∧
    m.cells.all (fun c => c.2 != unlisted) = true ∧ rising m.tags = true ∧ rising m.poison = true ∧ rising m.soft = true := by
  simp only [Memory.wf, Bool.and_eq_true, and_assoc]

theorem Memory.wf_reset : Memory.reset.wf = true := rfl

theorem Memory.wf_write {m : Memory} (k : Nat) (v : Byte) (h : m.wf = true) : (m.write k v).wf = true := by
  rw [Memory.wf_iff] at *
  exact ⟨rising_cellsWrite k v h.1, listed_cellsWrite k v h.2.1, rising_setDel _ h.2.2.1, h.2.2.2.1,
    rising_setDel _ h.2.2.2.2⟩

theorem Memory.wf_heal {m : Memory} (f : Nat → Bool) (h : m.wf = true) : (m.heal f).wf = true := by
  rw [Memory.wf_iff] at *
  exact ⟨h.1, h.2.1, h.2.2.1, rising_filter _ h.2.2.2.1, h.2.2.2.2⟩

/-- Good check bits change no byte (R387). -/
@[simp] theorem Memory.read_heal (m : Memory) (f : Nat → Bool) (j : Nat) : (m.heal f).read j = m.read j := rfl

theorem Memory.wf_putN {m : Memory} (k : Nat) (bs : List Byte) (h : m.wf = true) : (m.putN k bs).wf = true := by
  induction bs generalizing m k with
  | nil => exact h
  | cons b r ih => exact ih (k + 1) (Memory.wf_write k b h)

theorem Memory.wf_writeN {m : Memory} (k : Nat) (bs : List Byte) (h : m.wf = true) : (m.writeN k bs).wf = true :=
  Memory.wf_heal _ (Memory.wf_putN k bs h)

theorem Memory.wf_putTag {m : Memory} (k : Nat) (t : Bool) (h : m.wf = true) : (m.putTag k t).wf = true := by
  rw [Memory.wf_iff] at *
  refine ⟨h.1, h.2.1, ?_, h.2.2.2⟩
  unfold Memory.putTag
  cases t
  · exact rising_setDel _ h.2.2.1
  · exact rising_setAdd _ h.2.2.1

theorem Memory.wf_markPoison {m : Memory} (k n : Nat) (h : m.wf = true) : (m.markPoison k n).wf = true := by
  rw [Memory.wf_iff] at *
  refine ⟨h.1, h.2.1, h.2.2.1, ?_, h.2.2.2.2⟩
  have : ∀ (is : List Nat) (l : List Nat), rising l = true →
      rising (is.foldl (fun l i => setAdd l (k / 8 + i)) l) = true := by
    intro is
    induction is with
    | nil => exact fun l hl => hl
    | cons i r ih => exact fun l hl => ih _ (rising_setAdd _ hl)
  exact this _ _ h.2.2.2.1

theorem Memory.wf_scrub {m : Memory} (k n : Nat) (h : m.wf = true) : (m.scrub k n).wf = true := by
  rw [Memory.wf_iff] at *
  exact ⟨h.1, h.2.1, h.2.2.1, h.2.2.2.1, rising_filter _ h.2.2.2.2⟩

theorem Memory.wf_foldl_write {α : Type} (f : α → Nat) (g : α → Byte) (l : List α) {m : Memory} (h : m.wf = true) :
    (l.foldl (fun m x => m.write (f x) (g x)) m).wf = true := by
  induction l generalizing m with
  | nil => exact h
  | cons x r ih => exact ih (Memory.wf_write _ _ h)

/-- A byte read after it was written is the byte written (R96). -/
theorem Memory.read_write {m : Memory} (k : Nat) (v : Byte) (h : m.wf = true) : (m.write k v).read k = v :=
  cellsRead_cellsWrite _ k v (m.wf_iff.1 h).1

/-- A write leaves every other byte (R96). -/
theorem Memory.read_write_ne {m : Memory} {k j : Nat} (v : Byte) (h : m.wf = true) (hj : j ≠ k) :
    (m.write k v).read j = m.read j :=
  cellsRead_cellsWrite_ne _ v (m.wf_iff.1 h).1 hj

theorem Memory.wf_writeAt {m : Memory} (k : Nat) (bs : List (Nat × Byte)) (h : m.wf = true) : (m.writeAt k bs).wf = true :=
  Memory.wf_heal _ (Memory.wf_foldl_write (fun x : Nat × Byte => k + x.1) (fun x => x.2) bs h)

theorem Memory.read_putN_out {m : Memory} {k j : Nat} (bs : List Byte) (h : m.wf = true) (hj : j < k ∨ k + bs.length ≤ j) :
    (m.putN k bs).read j = m.read j := by
  induction bs generalizing m k with
  | nil => rfl
  | cons b r ih =>
    simp only [List.length_cons] at hj
    unfold Memory.putN
    rw [ih (Memory.wf_write k b h) (by omega), Memory.read_write_ne b h (by omega)]

/-- Writing a run of bytes leaves every byte outside it. -/
theorem Memory.read_writeN_out {m : Memory} {k j : Nat} (bs : List Byte) (h : m.wf = true) (hj : j < k ∨ k + bs.length ≤ j) :
    (m.writeN k bs).read j = m.read j := Memory.read_putN_out bs h hj

/-- Byte i of a run reads back as it was written. -/
theorem Memory.read_writeN {m : Memory} (k : Nat) (bs : List Byte) (h : m.wf = true) (i : Nat) (hi : i < bs.length) :
    (m.writeN k bs).read (k + i) = bs[i] := by
  unfold Memory.writeN
  rw [Memory.read_heal]
  induction bs generalizing m k i with
  | nil => simp at hi
  | cons b r ih =>
    unfold Memory.putN
    cases i with
    | zero =>
      rw [Memory.read_putN_out r (Memory.wf_write k b h) (by omega)]
      exact Memory.read_write k b h
    | succ i =>
      have := ih (k + 1) (Memory.wf_write k b h) i (by simpa using hi)
      simpa [Nat.add_assoc, Nat.add_comm 1 i] using this

end Sys2Proof.Machine
end

