-- ==== Sys2Proof/Laws/Ops.lean ====
section
/-!
SUPPORT. What each shared operation can do, said once: results owed, checks, semaphores, bays, traps, records, timed accesses, and that
each keeps memory in its canonical form.
-/

namespace Sys2Proof.Machine

/-! ### Fields of a register -/

/-- One bit of a register with a field replaced: of the value inside the field, of the register outside. -/
theorem getLsbD_putBits (w : DWord) (hi lo v i : Nat) (h : lo ≤ hi) (hi' : i < 64) :
    (putBits w hi lo v).getLsbD i = if lo ≤ i ∧ i ≤ hi then v.testBit (i - lo) else w.getLsbD i := by
  have shifted : ∀ x : Nat, (x * 2 ^ lo).testBit i = (decide (lo ≤ i) && x.testBit (i - lo)) := fun x => by
    rw [Nat.testBit_mul_two_pow]
  simp only [putBits, BitVec.getLsbD_or, BitVec.getLsbD_and, BitVec.getLsbD_not, BitVec.getLsbD_ofNat, hi', decide_true,
    Bool.true_and, shifted, Nat.testBit_two_pow_sub_one, Nat.testBit_mod_two_pow]
  by_cases a : lo ≤ i <;> by_cases b : i ≤ hi
  · simp [a, b, show i - lo < hi + 1 - lo by omega]
  · simp [a, b, show ¬i - lo < hi + 1 - lo by omega]
  · simp [a]
  · omega

/-- A field replaced reads as the value, modulo its width. -/
theorem bitsOf_putBits (w : DWord) (hi lo v : Nat) (h : lo ≤ hi) (h' : hi < 64) :
    bitsOf (putBits w hi lo v) hi lo = v % 2 ^ (hi + 1 - lo) := by
  apply Nat.eq_of_testBit_eq
  intro i
  rw [bitsOf, Nat.testBit_mod_two_pow, Nat.testBit_div_two_pow, Nat.testBit_mod_two_pow]
  by_cases k : i < hi + 1 - lo
  · have := getLsbD_putBits w hi lo v (i + lo) h (by omega)
    rw [BitVec.getLsbD] at this
    rw [this, if_pos (by omega), Nat.add_sub_cancel]
  · simp [k]

/-- A field that does not meet the one replaced reads as before. -/
theorem bitsOf_putBits_ne (w : DWord) {hi lo a b v : Nat} (h : lo ≤ hi) (hb : b < 64) (d : b < lo ∨ hi < a) :
    bitsOf (putBits w hi lo v) b a = bitsOf w b a := by
  apply Nat.eq_of_testBit_eq
  intro i
  rw [bitsOf, bitsOf, Nat.testBit_mod_two_pow, Nat.testBit_div_two_pow, Nat.testBit_mod_two_pow, Nat.testBit_div_two_pow]
  by_cases k : i < b + 1 - a
  · have := getLsbD_putBits w hi lo v (i + a) h (by omega)
    rw [BitVec.getLsbD] at this
    rw [this, if_neg (by omega), BitVec.getLsbD]
  · simp [k]

/-! ### Results -/

/-- A result joins the pending ones; their order is that of issue (R233). -/
theorem insertPend_perm (p : Pend) (l : List Pend) : (insertPend p l).Perm (p :: l) := by
  induction l with
  | nil => exact .refl _
  | cons q r ih =>
    unfold insertPend
    split
    · exact .refl _
    · exact (ih.cons q).trans (.swap p q r)

theorem State.here_after (s : State) (n : Nat) (e : Eff) : (s.after n e).here = s.here.later (s.now + n) s.now s.cur.e.code e := by
  unfold State.after
  rw [State.here_onHere]

/-- An effect left for a later cycle is owed, and nothing else differs (R233). -/
theorem State.owes_after (s : State) (n : Nat) (e : Eff) : s.Owes (s.after n e) [s.owed n e] := by
  refine ⟨?_, ?_, fun _ => rfl⟩
  · rw [State.here_after]; exact insertPend_perm _ _
  · rw [State.here_after]; rfl

/-- An instruction whose meaning leaves one effect for a later cycle yields it. -/
theorem State.yields_after {s : State} {i : Instr} {n : Nat} {e : Eff} (h : exec i s = .next (s.after n e)) : s.Yields i n e :=
  ⟨_, h, s.owes_after n e⟩

/-- The same with the value in other words. -/
theorem State.yields_of {s : State} {i : Instr} {n : Nat} {d : BitVec 5} {v w : DWord} (h : exec i s = .next (s.after n (.sreg d v)))
    (e : w = v) : s.Yields i n (.sreg d w) := by
  subst e; exact ⟨_, h, s.owes_after n _⟩

/-! ### Checks -/

@[simp] theorem State.need_pos {s t : State} {p : Prop} [Decidable p] (h : p) : s.need p t = t := if_pos h
@[simp] theorem State.need_neg {s t : State} {p : Prop} [Decidable p] (h : ¬p) : s.need p t = s.trap 0x02 0 := if_neg h

/-- A resident-only instruction goes on at resident level and traps at task level (R234). -/
theorem State.resident_cases (s t : State) :
    (s.here.run.level = .resident ∧ s.resident t = t) ∨ (s.here.run.level = .task ∧ s.resident t = s.trap 0x02 0) := by
  unfold State.resident State.need
  cases h : s.here.run.level
  · exact .inl ⟨rfl, if_pos rfl⟩
  · exact .inr ⟨rfl, if_neg (by simp)⟩

/-! ### Semaphores and bays -/

/-- A raise is seen from the next cycle on; of a raised semaphore it sets HSOVF (R185). -/
theorem Station.raise_cases (t : Station) (n : Nat) : ∃ o, t.raise n =
    { t with regs := { t.regs with hsovf := o, hsNew := t.regs.hsNew ||| BitVec.ofNat 64 (2 ^ (n % 64)) } } ∧
    (o = t.regs.hsovf ∨ o = t.regs.hsovf ||| BitVec.ofNat 64 (2 ^ (n % 64))) := by
  refine ⟨_, rfl, ?_⟩
  split
  · exact .inl rfl
  · exact .inr rfl

@[simp] theorem Station.bay_setBay (t : Station) (i : Nat) (b : Bay) : (t.setBay i b).bay i = b := by simp [Station.bay, Station.setBay]

theorem Station.bay_setBay_ne (t : Station) {i j : Nat} (b : Bay) (h : j % 16 ≠ i % 16) : (t.setBay i b).bay j = t.bay j := by
  simp [Station.bay, Station.setBay, Vector.getElem_set_ne _ _ (Ne.symm h)]

/-- A bay that awaits a reply keeps its bytes (R44). -/
theorem Station.bay_pendBay (t : Station) (i : Nat) : (t.pendBay i).bay i = { t.bay i with st := .pending } := by simp [Station.pendBay]

theorem Station.bay_pendBay_ne (t : Station) {i j : Nat} (h : j % 16 ≠ i % 16) : (t.pendBay i).bay j = t.bay j := t.bay_setBay_ne _ h

/-- A reply leaves its bytes, or zero bytes where it is void (R44). -/
theorem Station.bay_fillBay (t : Station) (i : Nat) (r : BayReply) :
    (t.fillBay i r).bay i = if r.void then ⟨0, .void, false⟩ else ⟨r.data, .full, r.poison⟩ := by simp [Station.fillBay]

/-! ### Traps -/

/-- A fold whose every step leaves a part of the state as it was leaves it. -/
theorem foldl_keep {α β γ : Type} (g : β → γ) (f : β → α → β) (h : ∀ b a, g (f b a) = g b) (l : List α) (b : β) :
    g (l.foldl f b) = g b := by
  induction l generalizing b with
  | nil => rfl
  | cons a r ih => exact (ih (f b a)).trans (h b a)

/-- A machine check writes no memory (R377, R387). -/
@[simp] theorem State.machineCheck_mem (s : State) (k : Stn) (sub : Nat) : (s.machineCheck k sub).mem = s.mem := by
  unfold State.machineCheck
  dsimp only
  split
  · rfl
  · show (List.foldl _ s _).mem = s.mem
    refine foldl_keep State.mem _ ?_ _ _
    intro b j
    rfl

/-- A trap that arises and is no machine check touches one station's trap registers, and nothing else (R377). -/
theorem State.raiseTrap_cases (s : State) (k : Stn) (t : Trap) (c : t.cause ≠ 0x13) :
    s.raiseTrap k t = s ∨ ∃ x : TrapRegs, s.raiseTrap k t = s.onStn k fun y => { y with trap := x } := by
  unfold State.raiseTrap
  dsimp only
  by_cases h : (s.stn k).trap.halted
  · exact .inl (if_pos h)
  rw [if_neg h, if_neg c]
  cases (s.stn k).trap.taking with
  | none => exact .inr ⟨_, rfl⟩
  | some u =>
    by_cases g : u.2 = s.nom k ∧ u.1.async = t.async
    · exact .inr ⟨_, if_pos g⟩
    · by_cases e : t.async = true
      · exact .inr ⟨_, (if_neg g).trans (if_pos e)⟩
      · exact .inl ((if_neg g).trans (if_neg e))

@[simp] theorem State.raiseTrap_mem (s : State) (k : Stn) (t : Trap) : (s.raiseTrap k t).mem = s.mem := by
  by_cases c : t.cause = 0x13
  · unfold State.raiseTrap
    dsimp only
    split
    · rfl
    · exact s.machineCheck_mem _ _
  · rcases s.raiseTrap_cases k t c with h | ⟨x, h⟩ <;> rw [h]; rfl

theorem State.raiseTrap_pkg (s : State) (k : Stn) (t : Trap) (c : t.cause ≠ 0x13) : (s.raiseTrap k t).pkg = s.pkg := by
  rcases s.raiseTrap_cases k t c with h | ⟨x, h⟩ <;> rw [h]; rfl

theorem State.raiseTrap_stn_ne (s : State) {k j : Stn} (t : Trap) (c : t.cause ≠ 0x13) (h : j ≠ k) : (s.raiseTrap k t).stn j = s.stn j := by
  rcases s.raiseTrap_cases k t c with e | ⟨x, e⟩ <;> rw [e]
  exact s.stn_onStn_ne _ h

theorem State.raiseTrap_regs (s : State) (k : Stn) (t : Trap) (c : t.cause ≠ 0x13) : ((s.raiseTrap k t).stn k).regs = (s.stn k).regs := by
  rcases s.raiseTrap_cases k t c with e | ⟨x, e⟩ <;> rw [e]
  rw [s.stn_onStn]

/-- The first trap of a station that neither takes one nor is halted is the one taken, of its group (R377). -/
theorem State.raiseTrap_first (s : State) (k : Stn) (t : Trap) (c : t.cause ≠ 0x13) (h : (s.stn k).trap.halted = false)
    (n : (s.stn k).trap.taking = none) :
    s.raiseTrap k t = s.onStn k fun y => { y with trap := { y.trap with taking := some (t, s.nom k) } } := by
  simp [State.raiseTrap, h, n, c]

/-- An instruction that traps leaves every register, every byte of memory and the package, and its stream stands (R377). -/
theorem State.trap_frame (s : State) (c x : Nat) (n : c ≠ 0x13) : (s.trap c x).mem = s.mem ∧ (s.trap c x).pkg = s.pkg ∧
    (s.trap c x).stay = true ∧ (s.trap c x).here.regs = s.here.regs ∧ ∀ j, j ≠ s.cur.k → (s.trap c x).stn j = s.stn j := by
  refine ⟨s.raiseTrap_mem _ _, s.raiseTrap_pkg _ _ n, rfl, ?_, fun j h => s.raiseTrap_stn_ne _ n h⟩
  have e : (s.trap c x).here = (s.raiseTrap s.cur.k (s.trapHere c x 0)).stn s.cur.k := by
    have k : (s.trap c x).cur = s.cur := by
      rcases s.raiseTrap_cases s.cur.k (s.trapHere c x 0) n with h | ⟨y, h⟩ <;> (unfold State.trap; rw [h]); rfl
    unfold State.here
    rw [k]
    rfl
  rw [e]
  exact s.raiseTrap_regs _ _ n

/-! ### Memory keeps its form -/

theorem State.wf_poke {s : State} (k : Nat) (bs : List Byte) (h : s.Inv) : (s.poke k bs).Inv := Memory.wf_writeN k bs h

theorem State.stns_onPart (s : State) (p : Nat) (f : Partition → Partition) : (s.onPart p f).stns = s.stns := rfl
@[simp] theorem State.count_mem (s : State) (p e n : Nat) : (s.count p e n).mem = s.mem := rfl
@[simp] theorem State.count_stns (s : State) (p e n : Nat) : (s.count p e n).stns = s.stns := rfl

/-- A telemetry record is left to be appended: of the state, only the list of waiting records changes (R399). -/
theorem State.telemetry_frame (s : State) (p port a b c d : Nat) :
    s.telemetry p port a b c d = { s with pkg := { s.pkg with records := (s.telemetry p port a b c d).pkg.records } } := rfl

@[simp] theorem State.telemetry_mem (s : State) (p port a b c d : Nat) : (s.telemetry p port a b c d).mem = s.mem := rfl
@[simp] theorem State.telemetry_stns (s : State) (p port a b c d : Nat) : (s.telemetry p port a b c d).stns = s.stns := rfl

@[simp] theorem State.evenRecord_mem (s : State) (k : Stn) (a b c d e f : Nat) : (s.evenRecord k a b c d e f).mem = s.mem := by
  unfold State.evenRecord; split <;> rfl

@[simp] theorem State.evenRecord_stns (s : State) (k : Stn) (a b c d e f : Nat) : (s.evenRecord k a b c d e f).stns = s.stns := by
  unfold State.evenRecord; split <;> rfl

/-- A fault record is left to be appended (R383, R384). -/
theorem State.faultRecord_frame (s : State) (p : Nat) (r : FaultRec) :
    s.faultRecord p r = { s with pkg := { s.pkg with records := (s.faultRecord p r).pkg.records } } := rfl

@[simp] theorem State.faultRecord_mem (s : State) (p : Nat) (r : FaultRec) : (s.faultRecord p r).mem = s.mem := rfl
@[simp] theorem State.faultRecord_stns (s : State) (p : Nat) (r : FaultRec) : (s.faultRecord p r).stns = s.stns := rfl

/-- A record is written at the head of its ring, or dropped (R383, R398, R399). -/
theorem State.wf_append {s : State} (r : Rec) (h : s.Inv) : (s.append r).Inv := by
  unfold State.append
  split
  · exact s.wf_poke _ _ h
  · split <;> exact h

theorem State.wf_raiseTrap {s : State} (k : Stn) (t : Trap) (h : s.Inv) : (s.raiseTrap k t).Inv := by
  unfold State.Inv; rw [s.raiseTrap_mem]; exact h

theorem State.wf_trap {s : State} (c x : Nat) (h : s.Inv) : (s.trap c x).Inv := s.wf_raiseTrap _ _ h

theorem State.wf_after {s : State} (n : Nat) (e : Eff) (h : s.Inv) : (s.after n e).Inv := h

theorem State.wf_need {s t : State} {p : Prop} [Decidable p] (h : s.Inv) (g : p → t.Inv) : (s.need p t).Inv := by
  unfold State.need
  split
  · exact g ‹_›
  · exact s.wf_trap _ _ h

/-- A station that cannot enter a handler halts, with a record and a report (R378). -/
theorem State.wf_haltOnTrap {s : State} (k : Stn) (t : Trap) (h : s.Inv) : (s.haltOnTrap k t).Inv := h

/-! ### Timed accesses -/

/-- A timed access adds its line accesses and changes nothing else (R58, R60). -/
theorem State.sendParts_frame (s : State) (use : TUse) (ps : List TPart) :
    (s.sendParts use ps = { s with txns := (s.sendParts use ps).txns, nextId := s.nextId + ps.length }) ∧
      ∃ x : Txn, (s.sendParts use ps).txns = s.txns ++ [x] ∧ x.k = s.cur.k ∧ x.nom = s.now ∧ x.use = use ∧ x.parts = ps :=
  ⟨rfl, _, rfl, rfl, rfl, rfl, rfl⟩

/-- A timed access is sent, or is a schedule miss where it reaches the stack with a lag (R174). -/
theorem State.send_cases (s : State) (use : TUse) (segs : List (Seg × List Nat × TOp)) :
    (s.here.run.lag ≠ 0 ∧ segs.any (·.1.page.bank.isNone) = true ∧ s.send use segs = s.trap 0x05 7) ∨
      ((s.here.run.lag = 0 ∨ segs.any (·.1.page.bank.isNone) = false) ∧ s.send use segs = s.sendParts use (s.paths segs)) := by
  unfold State.send
  split
  · exact .inl ⟨‹_ ∧ _›.1, ‹_ ∧ _›.2, rfl⟩
  · rename_i h
    refine .inr ⟨?_, rfl⟩
    by_cases l : s.here.run.lag = 0
    · exact .inl l
    · exact .inr (by simpa using fun e => h ⟨l, e⟩)

end Sys2Proof.Machine
end

