-- ==== Sys2Proof/Laws/PerInstr.lean ====
section
/-!
SUPPORT. The family `Encoding`: the operand bits and the extension words of an instruction, read by the fields of its opcode, give
the instruction again. One lemma for each constructor.
-/

namespace Sys2Proof

theorem wordOf_toNat (n : Nat) : (wordOf n).toNat = n % 2 ^ 32 := by simp [wordOf]

/-- A field whose bits hold a value reads as the value. -/
theorem fld_eq {n : Nat} (w : Word) (lo : Nat) (v : BitVec n) (h : w.toNat / 2 ^ lo % 2 ^ n = v.toNat) : fld w lo n = v := by
  apply BitVec.eq_of_toNat_eq
  rw [fld, BitVec.toNat_ofNat, h]

/-- A one-bit field whose bit is 0 is not 1. -/
theorem fld_ne_one (w : Word) (lo : Nat) (h : w.toNat / 2 ^ lo % 2 = 0) : ¬ fld w lo 1 = 1 := by
  intro e
  have := congrArg BitVec.toNat e
  rw [fld, BitVec.toNat_ofNat, Nat.pow_one, h] at this
  simp at this

theorem VExt.ofWord_word (e : VExt) : VExt.ofWord e.word = e := by
  obtain ⟨qe, q, t, rm, low⟩ := e
  have h1 := qe.isLt
  have h2 := q.isLt
  have h3 := t.isLt
  have h4 := rm.isLt
  have h5 := low.isLt
  simp only [VExt.ofWord, VExt.word, VExt.mk.injEq]
  refine ⟨fld_eq _ _ _ ?_, fld_eq _ _ _ ?_, fld_eq _ _ _ ?_, fld_eq _ _ _ ?_, fld_eq _ _ _ ?_⟩ <;> rw [wordOf_toNat] <;> omega

theorem optVExt_optExt (x : Option VExt) : optVExt (optExt x) = x := by
  cases x
  · rfl
  · simp [optVExt, optExt, VExt.ofWord_word]

theorem optExt_length (x : Option VExt) : (optExt x).length = nxo x := by cases x <;> rfl

theorem optMapTag_tagExts (x : Option MapTag) : optMapTag (tagExts x) = x := by
  cases x with
  | none => rfl
  | some m =>
    obtain ⟨a, b, c⟩ := m
    have h1 := a.isLt
    have h2 := b.isLt
    have h3 := c.isLt
    simp only [optMapTag, tagExts, MapTag.ofWord, Option.map_some, Option.toList_some, List.head?_cons, Option.some.injEq,
      MapTag.mk.injEq]
    refine ⟨fld_eq _ _ _ ?_, fld_eq _ _ _ ?_, fld_eq _ _ _ ?_⟩ <;> rw [wordOf_toNat] <;> omega

theorem tagExts_length (x : Option MapTag) : (tagExts x).length = nxo x := by cases x <;> rfl

theorem optRowExt_rowExts (x : Option RowExt) : optRowExt (rowExts x) = x := by
  cases x with
  | none => rfl
  | some m =>
    obtain ⟨a, b⟩ := m
    have h1 := a.isLt
    have h2 := b.isLt
    simp only [optRowExt, rowExts, Option.map_some, Option.toList_some, List.head?_cons, Option.some.injEq, RowExt.mk.injEq]
    refine ⟨fld_eq _ _ _ ?_, fld_eq _ _ _ ?_⟩ <;> rw [wordOf_toNat] <;> omega

theorem rowExts_length (x : Option RowExt) : (rowExts x).length = nxo x := by cases x <;> rfl

theorem MExt.ofWords_exts (x : MExt) : MExt.ofWords x.exts = x := by
  cases x with
  | none => rfl
  | g a => rfl
  | gk a v k =>
    have h1 := v.isLt
    have h2 := k.isLt
    simp only [MExt.exts, MExt.ofWords, MExt.gk.injEq, true_and]
    refine ⟨fld_eq _ _ _ ?_, fld_eq _ _ _ ?_⟩ <;> rw [wordOf_toNat] <;> omega

theorem MExt.exts_length (x : MExt) : x.exts.length = x.words := by cases x <;> rfl

theorem MExt.words_lt (x : MExt) : x.words < 4 := by cases x <;> simp [MExt.words]

theorem nxo_lt {α : Type} (x : Option α) : nxo x < 2 := by cases x <;> simp [nxo]

theorem head?_toList {α : Type} (x : Option α) : x.toList.head? = x := by cases x <;> rfl

theorem toList_length {α : Type} (x : Option α) : x.toList.length = nxo x := by cases x <;> rfl

/-- The fields of an encoded instruction make it up again, its counts are those that its opcode demands, and its opcode is
assigned (R215, R218 to R220, R226). -/
def Laws.Encoding.Statement (i : Instr) : Prop :=
  i.wf = true → ∀ e, i.encoding = some e → e.op < 255 ∧ e.body < 2 ^ 19 ∧
    ∀ w : Word, w.toNat % 2 ^ 19 = e.body →
      build e.space e.op w e.ext = some i ∧ (build e.space e.op w []).isSome = true ∧ e.ext.length = nxOf e.space e.op w

end Sys2Proof

namespace Sys2Proof.Laws

set_option Elab.async false

theorem Encoding.add (d : BitVec 5) (a : BitVec 5) (b : BitVec 5) : Encoding.Statement (.add d a b) := by
  intro _ e he
  cases he
  have bd := d.isLt
  have ba := a.isLt
  have bb := b.isLt
  refine ⟨by show 0x00 < 255; decide, by show pack [(d.toNat, 14), (a.toNat, 9), (b.toNat, 4)] < 2 ^ 19; simp only [pack]; omega, fun word hbody => ?_⟩
  simp only [pack] at hbody
  have gd : fld word 14 5 = d := fld_eq _ _ _ (by omega)
  have ga : fld word 9 5 = a := fld_eq _ _ _ (by omega)
  have gb : fld word 4 5 = b := fld_eq _ _ _ (by omega)
  refine ⟨?_, ?_, ?_⟩
  · show some (Instr.add (fld word 14 5) (fld word 9 5) (fld word 4 5) : Instr) = some (Instr.add d a b)
    rw [gd, ga, gb]
  · rfl
  · show 0 = if (0x00 : Nat) = 0x27 ∨ (0x00 : Nat) = 0x28 then word.toNat / 2 ^ 13 % 2 else 0
    rw [if_neg (by decide)]

theorem Encoding.sub (d : BitVec 5) (a : BitVec 5) (b : BitVec 5) : Encoding.Statement (.sub d a b) := by
  intro _ e he
  cases he
  have bd := d.isLt
  have ba := a.isLt
  have bb := b.isLt
  refine ⟨by show 0x01 < 255; decide, by show pack [(d.toNat, 14), (a.toNat, 9), (b.toNat, 4)] < 2 ^ 19; simp only [pack]; omega, fun word hbody => ?_⟩
  simp only [pack] at hbody
  have gd : fld word 14 5 = d := fld_eq _ _ _ (by omega)
  have ga : fld word 9 5 = a := fld_eq _ _ _ (by omega)
  have gb : fld word 4 5 = b := fld_eq _ _ _ (by omega)
  refine ⟨?_, ?_, ?_⟩
  · show some (Instr.sub (fld word 14 5) (fld word 9 5) (fld word 4 5) : Instr) = some (Instr.sub d a b)
    rw [gd, ga, gb]
  · rfl
  · show 0 = if (0x01 : Nat) = 0x27 ∨ (0x01 : Nat) = 0x28 then word.toNat / 2 ^ 13 % 2 else 0
    rw [if_neg (by decide)]

theorem Encoding.mul (d : BitVec 5) (a : BitVec 5) (b : BitVec 5) : Encoding.Statement (.mul d a b) := by
  intro _ e he
  cases he
  have bd := d.isLt
  have ba := a.isLt
  have bb := b.isLt
  refine ⟨by show 0x02 < 255; decide, by show pack [(d.toNat, 14), (a.toNat, 9), (b.toNat, 4)] < 2 ^ 19; simp only [pack]; omega, fun word hbody => ?_⟩
  simp only [pack] at hbody
  have gd : fld word 14 5 = d := fld_eq _ _ _ (by omega)
  have ga : fld word 9 5 = a := fld_eq _ _ _ (by omega)
  have gb : fld word 4 5 = b := fld_eq _ _ _ (by omega)
  refine ⟨?_, ?_, ?_⟩
  · show some (Instr.mul (fld word 14 5) (fld word 9 5) (fld word 4 5) : Instr) = some (Instr.mul d a b)
    rw [gd, ga, gb]
  · rfl
  · show 0 = if (0x02 : Nat) = 0x27 ∨ (0x02 : Nat) = 0x28 then word.toNat / 2 ^ 13 % 2 else 0
    rw [if_neg (by decide)]

theorem Encoding.mulh (d : BitVec 5) (a : BitVec 5) (b : BitVec 5) : Encoding.Statement (.mulh d a b) := by
  intro _ e he
  cases he
  have bd := d.isLt
  have ba := a.isLt
  have bb := b.isLt
  refine ⟨by show 0x03 < 255; decide, by show pack [(d.toNat, 14), (a.toNat, 9), (b.toNat, 4)] < 2 ^ 19; simp only [pack]; omega, fun word hbody => ?_⟩
  simp only [pack] at hbody
  have gd : fld word 14 5 = d := fld_eq _ _ _ (by omega)
  have ga : fld word 9 5 = a := fld_eq _ _ _ (by omega)
  have gb : fld word 4 5 = b := fld_eq _ _ _ (by omega)
  refine ⟨?_, ?_, ?_⟩
  · show some (Instr.mulh (fld word 14 5) (fld word 9 5) (fld word 4 5) : Instr) = some (Instr.mulh d a b)
    rw [gd, ga, gb]
  · rfl
  · show 0 = if (0x03 : Nat) = 0x27 ∨ (0x03 : Nat) = 0x28 then word.toNat / 2 ^ 13 % 2 else 0
    rw [if_neg (by decide)]

theorem Encoding.mulhu (d : BitVec 5) (a : BitVec 5) (b : BitVec 5) : Encoding.Statement (.mulhu d a b) := by
  intro _ e he
  cases he
  have bd := d.isLt
  have ba := a.isLt
  have bb := b.isLt
  refine ⟨by show 0x04 < 255; decide, by show pack [(d.toNat, 14), (a.toNat, 9), (b.toNat, 4)] < 2 ^ 19; simp only [pack]; omega, fun word hbody => ?_⟩
  simp only [pack] at hbody
  have gd : fld word 14 5 = d := fld_eq _ _ _ (by omega)
  have ga : fld word 9 5 = a := fld_eq _ _ _ (by omega)
  have gb : fld word 4 5 = b := fld_eq _ _ _ (by omega)
  refine ⟨?_, ?_, ?_⟩
  · show some (Instr.mulhu (fld word 14 5) (fld word 9 5) (fld word 4 5) : Instr) = some (Instr.mulhu d a b)
    rw [gd, ga, gb]
  · rfl
  · show 0 = if (0x04 : Nat) = 0x27 ∨ (0x04 : Nat) = 0x28 then word.toNat / 2 ^ 13 % 2 else 0
    rw [if_neg (by decide)]

theorem Encoding.div (d : BitVec 5) (a : BitVec 5) (b : BitVec 5) : Encoding.Statement (.div d a b) := by
  intro _ e he
  cases he
  have bd := d.isLt
  have ba := a.isLt
  have bb := b.isLt
  refine ⟨by show 0x05 < 255; decide, by show pack [(d.toNat, 14), (a.toNat, 9), (b.toNat, 4)] < 2 ^ 19; simp only [pack]; omega, fun word hbody => ?_⟩
  simp only [pack] at hbody
  have gd : fld word 14 5 = d := fld_eq _ _ _ (by omega)
  have ga : fld word 9 5 = a := fld_eq _ _ _ (by omega)
  have gb : fld word 4 5 = b := fld_eq _ _ _ (by omega)
  refine ⟨?_, ?_, ?_⟩
  · show some (Instr.div (fld word 14 5) (fld word 9 5) (fld word 4 5) : Instr) = some (Instr.div d a b)
    rw [gd, ga, gb]
  · rfl
  · show 0 = if (0x05 : Nat) = 0x27 ∨ (0x05 : Nat) = 0x28 then word.toNat / 2 ^ 13 % 2 else 0
    rw [if_neg (by decide)]

theorem Encoding.divu (d : BitVec 5) (a : BitVec 5) (b : BitVec 5) : Encoding.Statement (.divu d a b) := by
  intro _ e he
  cases he
  have bd := d.isLt
  have ba := a.isLt
  have bb := b.isLt
  refine ⟨by show 0x06 < 255; decide, by show pack [(d.toNat, 14), (a.toNat, 9), (b.toNat, 4)] < 2 ^ 19; simp only [pack]; omega, fun word hbody => ?_⟩
  simp only [pack] at hbody
  have gd : fld word 14 5 = d := fld_eq _ _ _ (by omega)
  have ga : fld word 9 5 = a := fld_eq _ _ _ (by omega)
  have gb : fld word 4 5 = b := fld_eq _ _ _ (by omega)
  refine ⟨?_, ?_, ?_⟩
  · show some (Instr.divu (fld word 14 5) (fld word 9 5) (fld word 4 5) : Instr) = some (Instr.divu d a b)
    rw [gd, ga, gb]
  · rfl
  · show 0 = if (0x06 : Nat) = 0x27 ∨ (0x06 : Nat) = 0x28 then word.toNat / 2 ^ 13 % 2 else 0
    rw [if_neg (by decide)]

theorem Encoding.rem (d : BitVec 5) (a : BitVec 5) (b : BitVec 5) : Encoding.Statement (.rem d a b) := by
  intro _ e he
  cases he
  have bd := d.isLt
  have ba := a.isLt
  have bb := b.isLt
  refine ⟨by show 0x07 < 255; decide, by show pack [(d.toNat, 14), (a.toNat, 9), (b.toNat, 4)] < 2 ^ 19; simp only [pack]; omega, fun word hbody => ?_⟩
  simp only [pack] at hbody
  have gd : fld word 14 5 = d := fld_eq _ _ _ (by omega)
  have ga : fld word 9 5 = a := fld_eq _ _ _ (by omega)
  have gb : fld word 4 5 = b := fld_eq _ _ _ (by omega)
  refine ⟨?_, ?_, ?_⟩
  · show some (Instr.rem (fld word 14 5) (fld word 9 5) (fld word 4 5) : Instr) = some (Instr.rem d a b)
    rw [gd, ga, gb]
  · rfl
  · show 0 = if (0x07 : Nat) = 0x27 ∨ (0x07 : Nat) = 0x28 then word.toNat / 2 ^ 13 % 2 else 0
    rw [if_neg (by decide)]

theorem Encoding.remu (d : BitVec 5) (a : BitVec 5) (b : BitVec 5) : Encoding.Statement (.remu d a b) := by
  intro _ e he
  cases he
  have bd := d.isLt
  have ba := a.isLt
  have bb := b.isLt
  refine ⟨by show 0x08 < 255; decide, by show pack [(d.toNat, 14), (a.toNat, 9), (b.toNat, 4)] < 2 ^ 19; simp only [pack]; omega, fun word hbody => ?_⟩
  simp only [pack] at hbody
  have gd : fld word 14 5 = d := fld_eq _ _ _ (by omega)
  have ga : fld word 9 5 = a := fld_eq _ _ _ (by omega)
  have gb : fld word 4 5 = b := fld_eq _ _ _ (by omega)
  refine ⟨?_, ?_, ?_⟩
  · show some (Instr.remu (fld word 14 5) (fld word 9 5) (fld word 4 5) : Instr) = some (Instr.remu d a b)
    rw [gd, ga, gb]
  · rfl
  · show 0 = if (0x08 : Nat) = 0x27 ∨ (0x08 : Nat) = 0x28 then word.toNat / 2 ^ 13 % 2 else 0
    rw [if_neg (by decide)]

theorem Encoding.and (d : BitVec 5) (a : BitVec 5) (b : BitVec 5) : Encoding.Statement (.and d a b) := by
  intro _ e he
  cases he
  have bd := d.isLt
  have ba := a.isLt
  have bb := b.isLt
  refine ⟨by show 0x09 < 255; decide, by show pack [(d.toNat, 14), (a.toNat, 9), (b.toNat, 4)] < 2 ^ 19; simp only [pack]; omega, fun word hbody => ?_⟩
  simp only [pack] at hbody
  have gd : fld word 14 5 = d := fld_eq _ _ _ (by omega)
  have ga : fld word 9 5 = a := fld_eq _ _ _ (by omega)
  have gb : fld word 4 5 = b := fld_eq _ _ _ (by omega)
  refine ⟨?_, ?_, ?_⟩
  · show some (Instr.and (fld word 14 5) (fld word 9 5) (fld word 4 5) : Instr) = some (Instr.and d a b)
    rw [gd, ga, gb]
  · rfl
  · show 0 = if (0x09 : Nat) = 0x27 ∨ (0x09 : Nat) = 0x28 then word.toNat / 2 ^ 13 % 2 else 0
    rw [if_neg (by decide)]

theorem Encoding.or (d : BitVec 5) (a : BitVec 5) (b : BitVec 5) : Encoding.Statement (.or d a b) := by
  intro _ e he
  cases he
  have bd := d.isLt
  have ba := a.isLt
  have bb := b.isLt
  refine ⟨by show 0x0A < 255; decide, by show pack [(d.toNat, 14), (a.toNat, 9), (b.toNat, 4)] < 2 ^ 19; simp only [pack]; omega, fun word hbody => ?_⟩
  simp only [pack] at hbody
  have gd : fld word 14 5 = d := fld_eq _ _ _ (by omega)
  have ga : fld word 9 5 = a := fld_eq _ _ _ (by omega)
  have gb : fld word 4 5 = b := fld_eq _ _ _ (by omega)
  refine ⟨?_, ?_, ?_⟩
  · show some (Instr.or (fld word 14 5) (fld word 9 5) (fld word 4 5) : Instr) = some (Instr.or d a b)
    rw [gd, ga, gb]
  · rfl
  · show 0 = if (0x0A : Nat) = 0x27 ∨ (0x0A : Nat) = 0x28 then word.toNat / 2 ^ 13 % 2 else 0
    rw [if_neg (by decide)]

theorem Encoding.xor (d : BitVec 5) (a : BitVec 5) (b : BitVec 5) : Encoding.Statement (.xor d a b) := by
  intro _ e he
  cases he
  have bd := d.isLt
  have ba := a.isLt
  have bb := b.isLt
  refine ⟨by show 0x0B < 255; decide, by show pack [(d.toNat, 14), (a.toNat, 9), (b.toNat, 4)] < 2 ^ 19; simp only [pack]; omega, fun word hbody => ?_⟩
  simp only [pack] at hbody
  have gd : fld word 14 5 = d := fld_eq _ _ _ (by omega)
  have ga : fld word 9 5 = a := fld_eq _ _ _ (by omega)
  have gb : fld word 4 5 = b := fld_eq _ _ _ (by omega)
  refine ⟨?_, ?_, ?_⟩
  · show some (Instr.xor (fld word 14 5) (fld word 9 5) (fld word 4 5) : Instr) = some (Instr.xor d a b)
    rw [gd, ga, gb]
  · rfl
  · show 0 = if (0x0B : Nat) = 0x27 ∨ (0x0B : Nat) = 0x28 then word.toNat / 2 ^ 13 % 2 else 0
    rw [if_neg (by decide)]

theorem Encoding.andn (d : BitVec 5) (a : BitVec 5) (b : BitVec 5) : Encoding.Statement (.andn d a b) := by
  intro _ e he
  cases he
  have bd := d.isLt
  have ba := a.isLt
  have bb := b.isLt
  refine ⟨by show 0x0C < 255; decide, by show pack [(d.toNat, 14), (a.toNat, 9), (b.toNat, 4)] < 2 ^ 19; simp only [pack]; omega, fun word hbody => ?_⟩
  simp only [pack] at hbody
  have gd : fld word 14 5 = d := fld_eq _ _ _ (by omega)
  have ga : fld word 9 5 = a := fld_eq _ _ _ (by omega)
  have gb : fld word 4 5 = b := fld_eq _ _ _ (by omega)
  refine ⟨?_, ?_, ?_⟩
  · show some (Instr.andn (fld word 14 5) (fld word 9 5) (fld word 4 5) : Instr) = some (Instr.andn d a b)
    rw [gd, ga, gb]
  · rfl
  · show 0 = if (0x0C : Nat) = 0x27 ∨ (0x0C : Nat) = 0x28 then word.toNat / 2 ^ 13 % 2 else 0
    rw [if_neg (by decide)]

theorem Encoding.shl (d : BitVec 5) (a : BitVec 5) (b : BitVec 5) : Encoding.Statement (.shl d a b) := by
  intro _ e he
  cases he
  have bd := d.isLt
  have ba := a.isLt
  have bb := b.isLt
  refine ⟨by show 0x0D < 255; decide, by show pack [(d.toNat, 14), (a.toNat, 9), (b.toNat, 4)] < 2 ^ 19; simp only [pack]; omega, fun word hbody => ?_⟩
  simp only [pack] at hbody
  have gd : fld word 14 5 = d := fld_eq _ _ _ (by omega)
  have ga : fld word 9 5 = a := fld_eq _ _ _ (by omega)
  have gb : fld word 4 5 = b := fld_eq _ _ _ (by omega)
  refine ⟨?_, ?_, ?_⟩
  · show some (Instr.shl (fld word 14 5) (fld word 9 5) (fld word 4 5) : Instr) = some (Instr.shl d a b)
    rw [gd, ga, gb]
  · rfl
  · show 0 = if (0x0D : Nat) = 0x27 ∨ (0x0D : Nat) = 0x28 then word.toNat / 2 ^ 13 % 2 else 0
    rw [if_neg (by decide)]

theorem Encoding.shr (d : BitVec 5) (a : BitVec 5) (b : BitVec 5) : Encoding.Statement (.shr d a b) := by
  intro _ e he
  cases he
  have bd := d.isLt
  have ba := a.isLt
  have bb := b.isLt
  refine ⟨by show 0x0E < 255; decide, by show pack [(d.toNat, 14), (a.toNat, 9), (b.toNat, 4)] < 2 ^ 19; simp only [pack]; omega, fun word hbody => ?_⟩
  simp only [pack] at hbody
  have gd : fld word 14 5 = d := fld_eq _ _ _ (by omega)
  have ga : fld word 9 5 = a := fld_eq _ _ _ (by omega)
  have gb : fld word 4 5 = b := fld_eq _ _ _ (by omega)
  refine ⟨?_, ?_, ?_⟩
  · show some (Instr.shr (fld word 14 5) (fld word 9 5) (fld word 4 5) : Instr) = some (Instr.shr d a b)
    rw [gd, ga, gb]
  · rfl
  · show 0 = if (0x0E : Nat) = 0x27 ∨ (0x0E : Nat) = 0x28 then word.toNat / 2 ^ 13 % 2 else 0
    rw [if_neg (by decide)]

theorem Encoding.sra (d : BitVec 5) (a : BitVec 5) (b : BitVec 5) : Encoding.Statement (.sra d a b) := by
  intro _ e he
  cases he
  have bd := d.isLt
  have ba := a.isLt
  have bb := b.isLt
  refine ⟨by show 0x0F < 255; decide, by show pack [(d.toNat, 14), (a.toNat, 9), (b.toNat, 4)] < 2 ^ 19; simp only [pack]; omega, fun word hbody => ?_⟩
  simp only [pack] at hbody
  have gd : fld word 14 5 = d := fld_eq _ _ _ (by omega)
  have ga : fld word 9 5 = a := fld_eq _ _ _ (by omega)
  have gb : fld word 4 5 = b := fld_eq _ _ _ (by omega)
  refine ⟨?_, ?_, ?_⟩
  · show some (Instr.sra (fld word 14 5) (fld word 9 5) (fld word 4 5) : Instr) = some (Instr.sra d a b)
    rw [gd, ga, gb]
  · rfl
  · show 0 = if (0x0F : Nat) = 0x27 ∨ (0x0F : Nat) = 0x28 then word.toNat / 2 ^ 13 % 2 else 0
    rw [if_neg (by decide)]

theorem Encoding.rotl (d : BitVec 5) (a : BitVec 5) (b : BitVec 5) : Encoding.Statement (.rotl d a b) := by
  intro _ e he
  cases he
  have bd := d.isLt
  have ba := a.isLt
  have bb := b.isLt
  refine ⟨by show 0x10 < 255; decide, by show pack [(d.toNat, 14), (a.toNat, 9), (b.toNat, 4)] < 2 ^ 19; simp only [pack]; omega, fun word hbody => ?_⟩
  simp only [pack] at hbody
  have gd : fld word 14 5 = d := fld_eq _ _ _ (by omega)
  have ga : fld word 9 5 = a := fld_eq _ _ _ (by omega)
  have gb : fld word 4 5 = b := fld_eq _ _ _ (by omega)
  refine ⟨?_, ?_, ?_⟩
  · show some (Instr.rotl (fld word 14 5) (fld word 9 5) (fld word 4 5) : Instr) = some (Instr.rotl d a b)
    rw [gd, ga, gb]
  · rfl
  · show 0 = if (0x10 : Nat) = 0x27 ∨ (0x10 : Nat) = 0x28 then word.toNat / 2 ^ 13 % 2 else 0
    rw [if_neg (by decide)]

theorem Encoding.min (d : BitVec 5) (a : BitVec 5) (b : BitVec 5) : Encoding.Statement (.min d a b) := by
  intro _ e he
  cases he
  have bd := d.isLt
  have ba := a.isLt
  have bb := b.isLt
  refine ⟨by show 0x11 < 255; decide, by show pack [(d.toNat, 14), (a.toNat, 9), (b.toNat, 4)] < 2 ^ 19; simp only [pack]; omega, fun word hbody => ?_⟩
  simp only [pack] at hbody
  have gd : fld word 14 5 = d := fld_eq _ _ _ (by omega)
  have ga : fld word 9 5 = a := fld_eq _ _ _ (by omega)
  have gb : fld word 4 5 = b := fld_eq _ _ _ (by omega)
  refine ⟨?_, ?_, ?_⟩
  · show some (Instr.min (fld word 14 5) (fld word 9 5) (fld word 4 5) : Instr) = some (Instr.min d a b)
    rw [gd, ga, gb]
  · rfl
  · show 0 = if (0x11 : Nat) = 0x27 ∨ (0x11 : Nat) = 0x28 then word.toNat / 2 ^ 13 % 2 else 0
    rw [if_neg (by decide)]

theorem Encoding.max (d : BitVec 5) (a : BitVec 5) (b : BitVec 5) : Encoding.Statement (.max d a b) := by
  intro _ e he
  cases he
  have bd := d.isLt
  have ba := a.isLt
  have bb := b.isLt
  refine ⟨by show 0x12 < 255; decide, by show pack [(d.toNat, 14), (a.toNat, 9), (b.toNat, 4)] < 2 ^ 19; simp only [pack]; omega, fun word hbody => ?_⟩
  simp only [pack] at hbody
  have gd : fld word 14 5 = d := fld_eq _ _ _ (by omega)
  have ga : fld word 9 5 = a := fld_eq _ _ _ (by omega)
  have gb : fld word 4 5 = b := fld_eq _ _ _ (by omega)
  refine ⟨?_, ?_, ?_⟩
  · show some (Instr.max (fld word 14 5) (fld word 9 5) (fld word 4 5) : Instr) = some (Instr.max d a b)
    rw [gd, ga, gb]
  · rfl
  · show 0 = if (0x12 : Nat) = 0x27 ∨ (0x12 : Nat) = 0x28 then word.toNat / 2 ^ 13 % 2 else 0
    rw [if_neg (by decide)]

theorem Encoding.minu (d : BitVec 5) (a : BitVec 5) (b : BitVec 5) : Encoding.Statement (.minu d a b) := by
  intro _ e he
  cases he
  have bd := d.isLt
  have ba := a.isLt
  have bb := b.isLt
  refine ⟨by show 0x13 < 255; decide, by show pack [(d.toNat, 14), (a.toNat, 9), (b.toNat, 4)] < 2 ^ 19; simp only [pack]; omega, fun word hbody => ?_⟩
  simp only [pack] at hbody
  have gd : fld word 14 5 = d := fld_eq _ _ _ (by omega)
  have ga : fld word 9 5 = a := fld_eq _ _ _ (by omega)
  have gb : fld word 4 5 = b := fld_eq _ _ _ (by omega)
  refine ⟨?_, ?_, ?_⟩
  · show some (Instr.minu (fld word 14 5) (fld word 9 5) (fld word 4 5) : Instr) = some (Instr.minu d a b)
    rw [gd, ga, gb]
  · rfl
  · show 0 = if (0x13 : Nat) = 0x27 ∨ (0x13 : Nat) = 0x28 then word.toNat / 2 ^ 13 % 2 else 0
    rw [if_neg (by decide)]

theorem Encoding.maxu (d : BitVec 5) (a : BitVec 5) (b : BitVec 5) : Encoding.Statement (.maxu d a b) := by
  intro _ e he
  cases he
  have bd := d.isLt
  have ba := a.isLt
  have bb := b.isLt
  refine ⟨by show 0x14 < 255; decide, by show pack [(d.toNat, 14), (a.toNat, 9), (b.toNat, 4)] < 2 ^ 19; simp only [pack]; omega, fun word hbody => ?_⟩
  simp only [pack] at hbody
  have gd : fld word 14 5 = d := fld_eq _ _ _ (by omega)
  have ga : fld word 9 5 = a := fld_eq _ _ _ (by omega)
  have gb : fld word 4 5 = b := fld_eq _ _ _ (by omega)
  refine ⟨?_, ?_, ?_⟩
  · show some (Instr.maxu (fld word 14 5) (fld word 9 5) (fld word 4 5) : Instr) = some (Instr.maxu d a b)
    rw [gd, ga, gb]
  · rfl
  · show 0 = if (0x14 : Nat) = 0x27 ∨ (0x14 : Nat) = 0x28 then word.toNat / 2 ^ 13 % 2 else 0
    rw [if_neg (by decide)]

theorem Encoding.clz (d : BitVec 5) (a : BitVec 5) : Encoding.Statement (.clz d a) := by
  intro _ e he
  cases he
  have bd := d.isLt
  have ba := a.isLt
  refine ⟨by show 0x15 < 255; decide, by show pack [(d.toNat, 14), (a.toNat, 9)] < 2 ^ 19; simp only [pack]; omega, fun word hbody => ?_⟩
  simp only [pack] at hbody
  have gd : fld word 14 5 = d := fld_eq _ _ _ (by omega)
  have ga : fld word 9 5 = a := fld_eq _ _ _ (by omega)
  refine ⟨?_, ?_, ?_⟩
  · show some (Instr.clz (fld word 14 5) (fld word 9 5) : Instr) = some (Instr.clz d a)
    rw [gd, ga]
  · rfl
  · show 0 = if (0x15 : Nat) = 0x27 ∨ (0x15 : Nat) = 0x28 then word.toNat / 2 ^ 13 % 2 else 0
    rw [if_neg (by decide)]

theorem Encoding.popc (d : BitVec 5) (a : BitVec 5) : Encoding.Statement (.popc d a) := by
  intro _ e he
  cases he
  have bd := d.isLt
  have ba := a.isLt
  refine ⟨by show 0x16 < 255; decide, by show pack [(d.toNat, 14), (a.toNat, 9)] < 2 ^ 19; simp only [pack]; omega, fun word hbody => ?_⟩
  simp only [pack] at hbody
  have gd : fld word 14 5 = d := fld_eq _ _ _ (by omega)
  have ga : fld word 9 5 = a := fld_eq _ _ _ (by omega)
  refine ⟨?_, ?_, ?_⟩
  · show some (Instr.popc (fld word 14 5) (fld word 9 5) : Instr) = some (Instr.popc d a)
    rw [gd, ga]
  · rfl
  · show 0 = if (0x16 : Nat) = 0x27 ∨ (0x16 : Nat) = 0x28 then word.toNat / 2 ^ 13 % 2 else 0
    rw [if_neg (by decide)]

theorem Encoding.seq (d : BitVec 5) (a : BitVec 5) (b : BitVec 5) : Encoding.Statement (.seq d a b) := by
  intro _ e he
  cases he
  have bd := d.isLt
  have ba := a.isLt
  have bb := b.isLt
  refine ⟨by show 0x17 < 255; decide, by show pack [(d.toNat, 14), (a.toNat, 9), (b.toNat, 4)] < 2 ^ 19; simp only [pack]; omega, fun word hbody => ?_⟩
  simp only [pack] at hbody
  have gd : fld word 14 5 = d := fld_eq _ _ _ (by omega)
  have ga : fld word 9 5 = a := fld_eq _ _ _ (by omega)
  have gb : fld word 4 5 = b := fld_eq _ _ _ (by omega)
  refine ⟨?_, ?_, ?_⟩
  · show some (Instr.seq (fld word 14 5) (fld word 9 5) (fld word 4 5) : Instr) = some (Instr.seq d a b)
    rw [gd, ga, gb]
  · rfl
  · show 0 = if (0x17 : Nat) = 0x27 ∨ (0x17 : Nat) = 0x28 then word.toNat / 2 ^ 13 % 2 else 0
    rw [if_neg (by decide)]

theorem Encoding.slt (d : BitVec 5) (a : BitVec 5) (b : BitVec 5) : Encoding.Statement (.slt d a b) := by
  intro _ e he
  cases he
  have bd := d.isLt
  have ba := a.isLt
  have bb := b.isLt
  refine ⟨by show 0x18 < 255; decide, by show pack [(d.toNat, 14), (a.toNat, 9), (b.toNat, 4)] < 2 ^ 19; simp only [pack]; omega, fun word hbody => ?_⟩
  simp only [pack] at hbody
  have gd : fld word 14 5 = d := fld_eq _ _ _ (by omega)
  have ga : fld word 9 5 = a := fld_eq _ _ _ (by omega)
  have gb : fld word 4 5 = b := fld_eq _ _ _ (by omega)
  refine ⟨?_, ?_, ?_⟩
  · show some (Instr.slt (fld word 14 5) (fld word 9 5) (fld word 4 5) : Instr) = some (Instr.slt d a b)
    rw [gd, ga, gb]
  · rfl
  · show 0 = if (0x18 : Nat) = 0x27 ∨ (0x18 : Nat) = 0x28 then word.toNat / 2 ^ 13 % 2 else 0
    rw [if_neg (by decide)]

theorem Encoding.sltu (d : BitVec 5) (a : BitVec 5) (b : BitVec 5) : Encoding.Statement (.sltu d a b) := by
  intro _ e he
  cases he
  have bd := d.isLt
  have ba := a.isLt
  have bb := b.isLt
  refine ⟨by show 0x19 < 255; decide, by show pack [(d.toNat, 14), (a.toNat, 9), (b.toNat, 4)] < 2 ^ 19; simp only [pack]; omega, fun word hbody => ?_⟩
  simp only [pack] at hbody
  have gd : fld word 14 5 = d := fld_eq _ _ _ (by omega)
  have ga : fld word 9 5 = a := fld_eq _ _ _ (by omega)
  have gb : fld word 4 5 = b := fld_eq _ _ _ (by omega)
  refine ⟨?_, ?_, ?_⟩
  · show some (Instr.sltu (fld word 14 5) (fld word 9 5) (fld word 4 5) : Instr) = some (Instr.sltu d a b)
    rw [gd, ga, gb]
  · rfl
  · show 0 = if (0x19 : Nat) = 0x27 ∨ (0x19 : Nat) = 0x28 then word.toNat / 2 ^ 13 % 2 else 0
    rw [if_neg (by decide)]

theorem Encoding.sel (d : BitVec 5) (a : BitVec 5) (b : BitVec 5) : Encoding.Statement (.sel d a b) := by
  intro _ e he
  cases he
  have bd := d.isLt
  have ba := a.isLt
  have bb := b.isLt
  refine ⟨by show 0x1A < 255; decide, by show pack [(d.toNat, 14), (a.toNat, 9), (b.toNat, 4)] < 2 ^ 19; simp only [pack]; omega, fun word hbody => ?_⟩
  simp only [pack] at hbody
  have gd : fld word 14 5 = d := fld_eq _ _ _ (by omega)
  have ga : fld word 9 5 = a := fld_eq _ _ _ (by omega)
  have gb : fld word 4 5 = b := fld_eq _ _ _ (by omega)
  refine ⟨?_, ?_, ?_⟩
  · show some (Instr.sel (fld word 14 5) (fld word 9 5) (fld word 4 5) : Instr) = some (Instr.sel d a b)
    rw [gd, ga, gb]
  · rfl
  · show 0 = if (0x1A : Nat) = 0x27 ∨ (0x1A : Nat) = 0x28 then word.toNat / 2 ^ 13 % 2 else 0
    rw [if_neg (by decide)]

theorem Encoding.addi (d : BitVec 5) (a : BitVec 5) (i : BitVec 9) : Encoding.Statement (.addi d a i) := by
  intro _ e he
  cases he
  have bd := d.isLt
  have ba := a.isLt
  have bi := i.isLt
  refine ⟨by show 0x20 < 255; decide, by show pack [(d.toNat, 14), (a.toNat, 9), (i.toNat, 0)] < 2 ^ 19; simp only [pack]; omega, fun word hbody => ?_⟩
  simp only [pack] at hbody
  have gd : fld word 14 5 = d := fld_eq _ _ _ (by omega)
  have ga : fld word 9 5 = a := fld_eq _ _ _ (by omega)
  have gi : fld word 0 9 = i := fld_eq _ _ _ (by omega)
  refine ⟨?_, ?_, ?_⟩
  · show some (Instr.addi (fld word 14 5) (fld word 9 5) (fld word 0 9) : Instr) = some (Instr.addi d a i)
    rw [gd, ga, gi]
  · rfl
  · show 0 = if (0x20 : Nat) = 0x27 ∨ (0x20 : Nat) = 0x28 then word.toNat / 2 ^ 13 % 2 else 0
    rw [if_neg (by decide)]

theorem Encoding.andi (d : BitVec 5) (a : BitVec 5) (i : BitVec 9) : Encoding.Statement (.andi d a i) := by
  intro _ e he
  cases he
  have bd := d.isLt
  have ba := a.isLt
  have bi := i.isLt
  refine ⟨by show 0x21 < 255; decide, by show pack [(d.toNat, 14), (a.toNat, 9), (i.toNat, 0)] < 2 ^ 19; simp only [pack]; omega, fun word hbody => ?_⟩
  simp only [pack] at hbody
  have gd : fld word 14 5 = d := fld_eq _ _ _ (by omega)
  have ga : fld word 9 5 = a := fld_eq _ _ _ (by omega)
  have gi : fld word 0 9 = i := fld_eq _ _ _ (by omega)
  refine ⟨?_, ?_, ?_⟩
  · show some (Instr.andi (fld word 14 5) (fld word 9 5) (fld word 0 9) : Instr) = some (Instr.andi d a i)
    rw [gd, ga, gi]
  · rfl
  · show 0 = if (0x21 : Nat) = 0x27 ∨ (0x21 : Nat) = 0x28 then word.toNat / 2 ^ 13 % 2 else 0
    rw [if_neg (by decide)]

theorem Encoding.ori (d : BitVec 5) (a : BitVec 5) (i : BitVec 9) : Encoding.Statement (.ori d a i) := by
  intro _ e he
  cases he
  have bd := d.isLt
  have ba := a.isLt
  have bi := i.isLt
  refine ⟨by show 0x22 < 255; decide, by show pack [(d.toNat, 14), (a.toNat, 9), (i.toNat, 0)] < 2 ^ 19; simp only [pack]; omega, fun word hbody => ?_⟩
  simp only [pack] at hbody
  have gd : fld word 14 5 = d := fld_eq _ _ _ (by omega)
  have ga : fld word 9 5 = a := fld_eq _ _ _ (by omega)
  have gi : fld word 0 9 = i := fld_eq _ _ _ (by omega)
  refine ⟨?_, ?_, ?_⟩
  · show some (Instr.ori (fld word 14 5) (fld word 9 5) (fld word 0 9) : Instr) = some (Instr.ori d a i)
    rw [gd, ga, gi]
  · rfl
  · show 0 = if (0x22 : Nat) = 0x27 ∨ (0x22 : Nat) = 0x28 then word.toNat / 2 ^ 13 % 2 else 0
    rw [if_neg (by decide)]

theorem Encoding.xori (d : BitVec 5) (a : BitVec 5) (i : BitVec 9) : Encoding.Statement (.xori d a i) := by
  intro _ e he
  cases he
  have bd := d.isLt
  have ba := a.isLt
  have bi := i.isLt
  refine ⟨by show 0x23 < 255; decide, by show pack [(d.toNat, 14), (a.toNat, 9), (i.toNat, 0)] < 2 ^ 19; simp only [pack]; omega, fun word hbody => ?_⟩
  simp only [pack] at hbody
  have gd : fld word 14 5 = d := fld_eq _ _ _ (by omega)
  have ga : fld word 9 5 = a := fld_eq _ _ _ (by omega)
  have gi : fld word 0 9 = i := fld_eq _ _ _ (by omega)
  refine ⟨?_, ?_, ?_⟩
  · show some (Instr.xori (fld word 14 5) (fld word 9 5) (fld word 0 9) : Instr) = some (Instr.xori d a i)
    rw [gd, ga, gi]
  · rfl
  · show 0 = if (0x23 : Nat) = 0x27 ∨ (0x23 : Nat) = 0x28 then word.toNat / 2 ^ 13 % 2 else 0
    rw [if_neg (by decide)]

theorem Encoding.shli (d : BitVec 5) (a : BitVec 5) (i : BitVec 6) : Encoding.Statement (.shli d a i) := by
  intro _ e he
  cases he
  have bd := d.isLt
  have ba := a.isLt
  have bi := i.isLt
  refine ⟨by show 0x24 < 255; decide, by show pack [(d.toNat, 14), (a.toNat, 9), (i.toNat, 0)] < 2 ^ 19; simp only [pack]; omega, fun word hbody => ?_⟩
  simp only [pack] at hbody
  have gd : fld word 14 5 = d := fld_eq _ _ _ (by omega)
  have ga : fld word 9 5 = a := fld_eq _ _ _ (by omega)
  have gi : fld word 0 6 = i := fld_eq _ _ _ (by omega)
  refine ⟨?_, ?_, ?_⟩
  · show some (Instr.shli (fld word 14 5) (fld word 9 5) (fld word 0 6) : Instr) = some (Instr.shli d a i)
    rw [gd, ga, gi]
  · rfl
  · show 0 = if (0x24 : Nat) = 0x27 ∨ (0x24 : Nat) = 0x28 then word.toNat / 2 ^ 13 % 2 else 0
    rw [if_neg (by decide)]

theorem Encoding.shri (d : BitVec 5) (a : BitVec 5) (i : BitVec 6) : Encoding.Statement (.shri d a i) := by
  intro _ e he
  cases he
  have bd := d.isLt
  have ba := a.isLt
  have bi := i.isLt
  refine ⟨by show 0x25 < 255; decide, by show pack [(d.toNat, 14), (a.toNat, 9), (i.toNat, 0)] < 2 ^ 19; simp only [pack]; omega, fun word hbody => ?_⟩
  simp only [pack] at hbody
  have gd : fld word 14 5 = d := fld_eq _ _ _ (by omega)
  have ga : fld word 9 5 = a := fld_eq _ _ _ (by omega)
  have gi : fld word 0 6 = i := fld_eq _ _ _ (by omega)
  refine ⟨?_, ?_, ?_⟩
  · show some (Instr.shri (fld word 14 5) (fld word 9 5) (fld word 0 6) : Instr) = some (Instr.shri d a i)
    rw [gd, ga, gi]
  · rfl
  · show 0 = if (0x25 : Nat) = 0x27 ∨ (0x25 : Nat) = 0x28 then word.toNat / 2 ^ 13 % 2 else 0
    rw [if_neg (by decide)]

theorem Encoding.srai (d : BitVec 5) (a : BitVec 5) (i : BitVec 6) : Encoding.Statement (.srai d a i) := by
  intro _ e he
  cases he
  have bd := d.isLt
  have ba := a.isLt
  have bi := i.isLt
  refine ⟨by show 0x26 < 255; decide, by show pack [(d.toNat, 14), (a.toNat, 9), (i.toNat, 0)] < 2 ^ 19; simp only [pack]; omega, fun word hbody => ?_⟩
  simp only [pack] at hbody
  have gd : fld word 14 5 = d := fld_eq _ _ _ (by omega)
  have ga : fld word 9 5 = a := fld_eq _ _ _ (by omega)
  have gi : fld word 0 6 = i := fld_eq _ _ _ (by omega)
  refine ⟨?_, ?_, ?_⟩
  · show some (Instr.srai (fld word 14 5) (fld word 9 5) (fld word 0 6) : Instr) = some (Instr.srai d a i)
    rw [gd, ga, gi]
  · rfl
  · show 0 = if (0x26 : Nat) = 0x27 ∨ (0x26 : Nat) = 0x28 then word.toNat / 2 ^ 13 % 2 else 0
    rw [if_neg (by decide)]

theorem Encoding.li (d : BitVec 5) (i : BitVec 13) : Encoding.Statement (.li d i) := by
  intro _ e he
  cases he
  have bd := d.isLt
  have bi := i.isLt
  refine ⟨by show 0x27 < 255; decide, by show pack [(d.toNat, 14), (i.toNat, 0)] < 2 ^ 19; simp only [pack]; omega, fun word hbody => ?_⟩
  simp only [pack] at hbody
  have hcond : ¬ fld word 13 1 = 1 := fld_ne_one _ _ (by omega)
  have gd : fld word 14 5 = d := fld_eq _ _ _ (by omega)
  have gi : fld word 0 13 = i := fld_eq _ _ _ (by omega)
  refine ⟨?_, ?_, ?_⟩
  · show some (if fld word 13 1 = 1 then Instr.liWide (fld word 14 5) (ext0 []) else Instr.li (fld word 14 5) (fld word 0 13) : Instr) = some (Instr.li d i)
    rw [if_neg hcond, gd, gi]
  · rfl
  · show 0 = if (0x27 : Nat) = 0x27 ∨ (0x27 : Nat) = 0x28 then word.toNat / 2 ^ 13 % 2 else 0
    rw [if_pos (by decide)]; omega

theorem Encoding.liWide (d : BitVec 5) (v : BitVec 32) : Encoding.Statement (.liWide d v) := by
  intro _ e he
  cases he
  have bd := d.isLt
  have bv := v.isLt
  refine ⟨by show 0x27 < 255; decide, by show pack [(d.toNat, 14), (1, 13)] < 2 ^ 19; simp only [pack]; omega, fun word hbody => ?_⟩
  simp only [pack] at hbody
  have hcond : fld word 13 1 = 1 := fld_eq _ _ 1 (by simp; omega)
  have gd : fld word 14 5 = d := fld_eq _ _ _ (by omega)
  refine ⟨?_, ?_, ?_⟩
  · show some (if fld word 13 1 = 1 then Instr.liWide (fld word 14 5) (v) else Instr.li (fld word 14 5) (fld word 0 13) : Instr) = some (Instr.liWide d v)
    rw [if_pos hcond, gd]
  · rfl
  · show 1 = if (0x27 : Nat) = 0x27 ∨ (0x27 : Nat) = 0x28 then word.toNat / 2 ^ 13 % 2 else 0
    rw [if_pos (by decide)]; omega

theorem Encoding.lih (d : BitVec 5) (i : BitVec 13) : Encoding.Statement (.lih d i) := by
  intro _ e he
  cases he
  have bd := d.isLt
  have bi := i.isLt
  refine ⟨by show 0x28 < 255; decide, by show pack [(d.toNat, 14), (i.toNat, 0)] < 2 ^ 19; simp only [pack]; omega, fun word hbody => ?_⟩
  simp only [pack] at hbody
  have hcond : ¬ fld word 13 1 = 1 := fld_ne_one _ _ (by omega)
  have gd : fld word 14 5 = d := fld_eq _ _ _ (by omega)
  have gi : fld word 0 13 = i := fld_eq _ _ _ (by omega)
  refine ⟨?_, ?_, ?_⟩
  · show some (if fld word 13 1 = 1 then Instr.lihWide (fld word 14 5) (ext0 []) else Instr.lih (fld word 14 5) (fld word 0 13) : Instr) = some (Instr.lih d i)
    rw [if_neg hcond, gd, gi]
  · rfl
  · show 0 = if (0x28 : Nat) = 0x27 ∨ (0x28 : Nat) = 0x28 then word.toNat / 2 ^ 13 % 2 else 0
    rw [if_pos (by decide)]; omega

theorem Encoding.lihWide (d : BitVec 5) (v : BitVec 32) : Encoding.Statement (.lihWide d v) := by
  intro _ e he
  cases he
  have bd := d.isLt
  have bv := v.isLt
  refine ⟨by show 0x28 < 255; decide, by show pack [(d.toNat, 14), (1, 13)] < 2 ^ 19; simp only [pack]; omega, fun word hbody => ?_⟩
  simp only [pack] at hbody
  have hcond : fld word 13 1 = 1 := fld_eq _ _ 1 (by simp; omega)
  have gd : fld word 14 5 = d := fld_eq _ _ _ (by omega)
  refine ⟨?_, ?_, ?_⟩
  · show some (if fld word 13 1 = 1 then Instr.lihWide (fld word 14 5) (v) else Instr.lih (fld word 14 5) (fld word 0 13) : Instr) = some (Instr.lihWide d v)
    rw [if_pos hcond, gd]
  · rfl
  · show 1 = if (0x28 : Nat) = 0x27 ∨ (0x28 : Nat) = 0x28 then word.toNat / 2 ^ 13 % 2 else 0
    rw [if_pos (by decide)]; omega

theorem Encoding.beq (a : BitVec 5) (b : BitVec 5) (o : BitVec 9) : Encoding.Statement (.beq a b o) := by
  intro _ e he
  cases he
  have ba := a.isLt
  have bb := b.isLt
  have bo := o.isLt
  refine ⟨by show 0x30 < 255; decide, by show pack [(a.toNat, 14), (b.toNat, 9), (o.toNat, 0)] < 2 ^ 19; simp only [pack]; omega, fun word hbody => ?_⟩
  simp only [pack] at hbody
  have ga : fld word 14 5 = a := fld_eq _ _ _ (by omega)
  have gb : fld word 9 5 = b := fld_eq _ _ _ (by omega)
  have go : fld word 0 9 = o := fld_eq _ _ _ (by omega)
  refine ⟨?_, ?_, ?_⟩
  · show some (Instr.beq (fld word 14 5) (fld word 9 5) (fld word 0 9) : Instr) = some (Instr.beq a b o)
    rw [ga, gb, go]
  · rfl
  · show 0 = if (0x30 : Nat) = 0x27 ∨ (0x30 : Nat) = 0x28 then word.toNat / 2 ^ 13 % 2 else 0
    rw [if_neg (by decide)]

theorem Encoding.bne (a : BitVec 5) (b : BitVec 5) (o : BitVec 9) : Encoding.Statement (.bne a b o) := by
  intro _ e he
  cases he
  have ba := a.isLt
  have bb := b.isLt
  have bo := o.isLt
  refine ⟨by show 0x31 < 255; decide, by show pack [(a.toNat, 14), (b.toNat, 9), (o.toNat, 0)] < 2 ^ 19; simp only [pack]; omega, fun word hbody => ?_⟩
  simp only [pack] at hbody
  have ga : fld word 14 5 = a := fld_eq _ _ _ (by omega)
  have gb : fld word 9 5 = b := fld_eq _ _ _ (by omega)
  have go : fld word 0 9 = o := fld_eq _ _ _ (by omega)
  refine ⟨?_, ?_, ?_⟩
  · show some (Instr.bne (fld word 14 5) (fld word 9 5) (fld word 0 9) : Instr) = some (Instr.bne a b o)
    rw [ga, gb, go]
  · rfl
  · show 0 = if (0x31 : Nat) = 0x27 ∨ (0x31 : Nat) = 0x28 then word.toNat / 2 ^ 13 % 2 else 0
    rw [if_neg (by decide)]

theorem Encoding.blt (a : BitVec 5) (b : BitVec 5) (o : BitVec 9) : Encoding.Statement (.blt a b o) := by
  intro _ e he
  cases he
  have ba := a.isLt
  have bb := b.isLt
  have bo := o.isLt
  refine ⟨by show 0x32 < 255; decide, by show pack [(a.toNat, 14), (b.toNat, 9), (o.toNat, 0)] < 2 ^ 19; simp only [pack]; omega, fun word hbody => ?_⟩
  simp only [pack] at hbody
  have ga : fld word 14 5 = a := fld_eq _ _ _ (by omega)
  have gb : fld word 9 5 = b := fld_eq _ _ _ (by omega)
  have go : fld word 0 9 = o := fld_eq _ _ _ (by omega)
  refine ⟨?_, ?_, ?_⟩
  · show some (Instr.blt (fld word 14 5) (fld word 9 5) (fld word 0 9) : Instr) = some (Instr.blt a b o)
    rw [ga, gb, go]
  · rfl
  · show 0 = if (0x32 : Nat) = 0x27 ∨ (0x32 : Nat) = 0x28 then word.toNat / 2 ^ 13 % 2 else 0
    rw [if_neg (by decide)]

theorem Encoding.bge (a : BitVec 5) (b : BitVec 5) (o : BitVec 9) : Encoding.Statement (.bge a b o) := by
  intro _ e he
  cases he
  have ba := a.isLt
  have bb := b.isLt
  have bo := o.isLt
  refine ⟨by show 0x33 < 255; decide, by show pack [(a.toNat, 14), (b.toNat, 9), (o.toNat, 0)] < 2 ^ 19; simp only [pack]; omega, fun word hbody => ?_⟩
  simp only [pack] at hbody
  have ga : fld word 14 5 = a := fld_eq _ _ _ (by omega)
  have gb : fld word 9 5 = b := fld_eq _ _ _ (by omega)
  have go : fld word 0 9 = o := fld_eq _ _ _ (by omega)
  refine ⟨?_, ?_, ?_⟩
  · show some (Instr.bge (fld word 14 5) (fld word 9 5) (fld word 0 9) : Instr) = some (Instr.bge a b o)
    rw [ga, gb, go]
  · rfl
  · show 0 = if (0x33 : Nat) = 0x27 ∨ (0x33 : Nat) = 0x28 then word.toNat / 2 ^ 13 % 2 else 0
    rw [if_neg (by decide)]

theorem Encoding.bltu (a : BitVec 5) (b : BitVec 5) (o : BitVec 9) : Encoding.Statement (.bltu a b o) := by
  intro _ e he
  cases he
  have ba := a.isLt
  have bb := b.isLt
  have bo := o.isLt
  refine ⟨by show 0x34 < 255; decide, by show pack [(a.toNat, 14), (b.toNat, 9), (o.toNat, 0)] < 2 ^ 19; simp only [pack]; omega, fun word hbody => ?_⟩
  simp only [pack] at hbody
  have ga : fld word 14 5 = a := fld_eq _ _ _ (by omega)
  have gb : fld word 9 5 = b := fld_eq _ _ _ (by omega)
  have go : fld word 0 9 = o := fld_eq _ _ _ (by omega)
  refine ⟨?_, ?_, ?_⟩
  · show some (Instr.bltu (fld word 14 5) (fld word 9 5) (fld word 0 9) : Instr) = some (Instr.bltu a b o)
    rw [ga, gb, go]
  · rfl
  · show 0 = if (0x34 : Nat) = 0x27 ∨ (0x34 : Nat) = 0x28 then word.toNat / 2 ^ 13 % 2 else 0
    rw [if_neg (by decide)]

theorem Encoding.bgeu (a : BitVec 5) (b : BitVec 5) (o : BitVec 9) : Encoding.Statement (.bgeu a b o) := by
  intro _ e he
  cases he
  have ba := a.isLt
  have bb := b.isLt
  have bo := o.isLt
  refine ⟨by show 0x35 < 255; decide, by show pack [(a.toNat, 14), (b.toNat, 9), (o.toNat, 0)] < 2 ^ 19; simp only [pack]; omega, fun word hbody => ?_⟩
  simp only [pack] at hbody
  have ga : fld word 14 5 = a := fld_eq _ _ _ (by omega)
  have gb : fld word 9 5 = b := fld_eq _ _ _ (by omega)
  have go : fld word 0 9 = o := fld_eq _ _ _ (by omega)
  refine ⟨?_, ?_, ?_⟩
  · show some (Instr.bgeu (fld word 14 5) (fld word 9 5) (fld word 0 9) : Instr) = some (Instr.bgeu a b o)
    rw [ga, gb, go]
  · rfl
  · show 0 = if (0x35 : Nat) = 0x27 ∨ (0x35 : Nat) = 0x28 then word.toNat / 2 ^ 13 % 2 else 0
    rw [if_neg (by decide)]

theorem Encoding.jmp (a : BitVec 5) (t : BitVec 9) : Encoding.Statement (.jmp a t) := by
  intro _ e he
  cases he
  have ba := a.isLt
  have bt := t.isLt
  refine ⟨by show 0x36 < 255; decide, by show pack [(a.toNat, 9), (t.toNat, 0)] < 2 ^ 19; simp only [pack]; omega, fun word hbody => ?_⟩
  simp only [pack] at hbody
  have ga : fld word 9 5 = a := fld_eq _ _ _ (by omega)
  have gt : fld word 0 9 = t := fld_eq _ _ _ (by omega)
  refine ⟨?_, ?_, ?_⟩
  · show some (Instr.jmp (fld word 9 5) (fld word 0 9) : Instr) = some (Instr.jmp a t)
    rw [ga, gt]
  · rfl
  · show 0 = if (0x36 : Nat) = 0x27 ∨ (0x36 : Nat) = 0x28 then word.toNat / 2 ^ 13 % 2 else 0
    rw [if_neg (by decide)]

theorem Encoding.call (d : BitVec 5) (a : BitVec 5) (t : BitVec 9) : Encoding.Statement (.call d a t) := by
  intro _ e he
  cases he
  have bd := d.isLt
  have ba := a.isLt
  have bt := t.isLt
  refine ⟨by show 0x37 < 255; decide, by show pack [(d.toNat, 14), (a.toNat, 9), (t.toNat, 0)] < 2 ^ 19; simp only [pack]; omega, fun word hbody => ?_⟩
  simp only [pack] at hbody
  have gd : fld word 14 5 = d := fld_eq _ _ _ (by omega)
  have ga : fld word 9 5 = a := fld_eq _ _ _ (by omega)
  have gt : fld word 0 9 = t := fld_eq _ _ _ (by omega)
  refine ⟨?_, ?_, ?_⟩
  · show some (Instr.call (fld word 14 5) (fld word 9 5) (fld word 0 9) : Instr) = some (Instr.call d a t)
    rw [gd, ga, gt]
  · rfl
  · show 0 = if (0x37 : Nat) = 0x27 ∨ (0x37 : Nat) = 0x28 then word.toNat / 2 ^ 13 % 2 else 0
    rw [if_neg (by decide)]

theorem Encoding.ret (a : BitVec 5) : Encoding.Statement (.ret a) := by
  intro _ e he
  cases he
  have ba := a.isLt
  refine ⟨by show 0x38 < 255; decide, by show pack [(a.toNat, 9)] < 2 ^ 19; simp only [pack]; omega, fun word hbody => ?_⟩
  simp only [pack] at hbody
  have ga : fld word 9 5 = a := fld_eq _ _ _ (by omega)
  refine ⟨?_, ?_, ?_⟩
  · show some (Instr.ret (fld word 9 5) : Instr) = some (Instr.ret a)
    rw [ga]
  · rfl
  · show 0 = if (0x38 : Nat) = 0x27 ∨ (0x38 : Nat) = 0x28 then word.toNat / 2 ^ 13 % 2 else 0
    rw [if_neg (by decide)]

theorem Encoding.lpset (a : BitVec 5) (l : BitVec 1) (t : BitVec 9) : Encoding.Statement (.lpset a l t) := by
  intro _ e he
  cases he
  have ba := a.isLt
  have bl := l.isLt
  have bt := t.isLt
  refine ⟨by show 0x39 < 255; decide, by show pack [(a.toNat, 14), (l.toNat, 13), (t.toNat, 0)] < 2 ^ 19; simp only [pack]; omega, fun word hbody => ?_⟩
  simp only [pack] at hbody
  have ga : fld word 14 5 = a := fld_eq _ _ _ (by omega)
  have gl : fld word 13 1 = l := fld_eq _ _ _ (by omega)
  have gt : fld word 0 9 = t := fld_eq _ _ _ (by omega)
  refine ⟨?_, ?_, ?_⟩
  · show some (Instr.lpset (fld word 14 5) (fld word 13 1) (fld word 0 9) : Instr) = some (Instr.lpset a l t)
    rw [ga, gl, gt]
  · rfl
  · show 0 = if (0x39 : Nat) = 0x27 ∨ (0x39 : Nat) = 0x28 then word.toNat / 2 ^ 13 % 2 else 0
    rw [if_neg (by decide)]

theorem Encoding.lpbrk (a : BitVec 5) (l : BitVec 1) (t : BitVec 9) : Encoding.Statement (.lpbrk a l t) := by
  intro _ e he
  cases he
  have ba := a.isLt
  have bl := l.isLt
  have bt := t.isLt
  refine ⟨by show 0x3A < 255; decide, by show pack [(a.toNat, 14), (l.toNat, 13), (t.toNat, 0)] < 2 ^ 19; simp only [pack]; omega, fun word hbody => ?_⟩
  simp only [pack] at hbody
  have ga : fld word 14 5 = a := fld_eq _ _ _ (by omega)
  have gl : fld word 13 1 = l := fld_eq _ _ _ (by omega)
  have gt : fld word 0 9 = t := fld_eq _ _ _ (by omega)
  refine ⟨?_, ?_, ?_⟩
  · show some (Instr.lpbrk (fld word 14 5) (fld word 13 1) (fld word 0 9) : Instr) = some (Instr.lpbrk a l t)
    rw [ga, gl, gt]
  · rfl
  · show 0 = if (0x3A : Nat) = 0x27 ∨ (0x3A : Nat) = 0x28 then word.toNat / 2 ^ 13 % 2 else 0
    rw [if_neg (by decide)]

theorem Encoding.lds (d : BitVec 5) (c : BitVec 4) (sz : BitVec 3) (i : BitVec 7) : Encoding.Statement (.lds d c sz i) := by
  intro _ e he
  cases he
  have bd := d.isLt
  have bc := c.isLt
  have bsz := sz.isLt
  have bi := i.isLt
  refine ⟨by show 0x40 < 255; decide, by show pack [(d.toNat, 14), (c.toNat, 10), (sz.toNat, 7), (i.toNat, 0)] < 2 ^ 19; simp only [pack]; omega, fun word hbody => ?_⟩
  simp only [pack] at hbody
  have gd : fld word 14 5 = d := fld_eq _ _ _ (by omega)
  have gc : fld word 10 4 = c := fld_eq _ _ _ (by omega)
  have gsz : fld word 7 3 = sz := fld_eq _ _ _ (by omega)
  have gi : fld word 0 7 = i := fld_eq _ _ _ (by omega)
  refine ⟨?_, ?_, ?_⟩
  · show some (Instr.lds (fld word 14 5) (fld word 10 4) (fld word 7 3) (fld word 0 7) : Instr) = some (Instr.lds d c sz i)
    rw [gd, gc, gsz, gi]
  · rfl
  · show 0 = if (0x40 : Nat) = 0x27 ∨ (0x40 : Nat) = 0x28 then word.toNat / 2 ^ 13 % 2 else 0
    rw [if_neg (by decide)]

theorem Encoding.sts (d : BitVec 5) (c : BitVec 4) (sz : BitVec 3) (i : BitVec 7) : Encoding.Statement (.sts d c sz i) := by
  intro _ e he
  cases he
  have bd := d.isLt
  have bc := c.isLt
  have bsz := sz.isLt
  have bi := i.isLt
  refine ⟨by show 0x41 < 255; decide, by show pack [(d.toNat, 14), (c.toNat, 10), (sz.toNat, 7), (i.toNat, 0)] < 2 ^ 19; simp only [pack]; omega, fun word hbody => ?_⟩
  simp only [pack] at hbody
  have gd : fld word 14 5 = d := fld_eq _ _ _ (by omega)
  have gc : fld word 10 4 = c := fld_eq _ _ _ (by omega)
  have gsz : fld word 7 3 = sz := fld_eq _ _ _ (by omega)
  have gi : fld word 0 7 = i := fld_eq _ _ _ (by omega)
  refine ⟨?_, ?_, ?_⟩
  · show some (Instr.sts (fld word 14 5) (fld word 10 4) (fld word 7 3) (fld word 0 7) : Instr) = some (Instr.sts d c sz i)
    rw [gd, gc, gsz, gi]
  · rfl
  · show 0 = if (0x41 : Nat) = 0x27 ∨ (0x41 : Nat) = 0x28 then word.toNat / 2 ^ 13 % 2 else 0
    rw [if_neg (by decide)]

theorem Encoding.rld (d : BitVec 4) (c : BitVec 4) (sz : BitVec 3) (i : BitVec 7) : Encoding.Statement (.rld d c sz i) := by
  intro _ e he
  cases he
  have bd := d.isLt
  have bc := c.isLt
  have bsz := sz.isLt
  have bi := i.isLt
  refine ⟨by show 0x42 < 255; decide, by show pack [(d.toNat, 14), (c.toNat, 10), (sz.toNat, 7), (i.toNat, 0)] < 2 ^ 19; simp only [pack]; omega, fun word hbody => ?_⟩
  simp only [pack] at hbody
  have gd : fld word 14 4 = d := fld_eq _ _ _ (by omega)
  have gc : fld word 10 4 = c := fld_eq _ _ _ (by omega)
  have gsz : fld word 7 3 = sz := fld_eq _ _ _ (by omega)
  have gi : fld word 0 7 = i := fld_eq _ _ _ (by omega)
  refine ⟨?_, ?_, ?_⟩
  · show some (Instr.rld (fld word 14 4) (fld word 10 4) (fld word 7 3) (fld word 0 7) : Instr) = some (Instr.rld d c sz i)
    rw [gd, gc, gsz, gi]
  · rfl
  · show 0 = if (0x42 : Nat) = 0x27 ∨ (0x42 : Nat) = 0x28 then word.toNat / 2 ^ 13 % 2 else 0
    rw [if_neg (by decide)]

theorem Encoding.bayrd (d : BitVec 5) (a : BitVec 4) (b : BitVec 5) (u : BitVec 1) (z : BitVec 2) : Encoding.Statement (.bayrd d a b u z) := by
  intro _ e he
  cases he
  have bd := d.isLt
  have ba := a.isLt
  have bb := b.isLt
  have bu := u.isLt
  have bz := z.isLt
  refine ⟨by show 0x43 < 255; decide, by show pack [(d.toNat, 14), (a.toNat, 9), (b.toNat, 4), (u.toNat, 2), (z.toNat, 0)] < 2 ^ 19; simp only [pack]; omega, fun word hbody => ?_⟩
  simp only [pack] at hbody
  have gd : fld word 14 5 = d := fld_eq _ _ _ (by omega)
  have ga : fld word 9 4 = a := fld_eq _ _ _ (by omega)
  have gb : fld word 4 5 = b := fld_eq _ _ _ (by omega)
  have gu : fld word 2 1 = u := fld_eq _ _ _ (by omega)
  have gz : fld word 0 2 = z := fld_eq _ _ _ (by omega)
  refine ⟨?_, ?_, ?_⟩
  · show some (Instr.bayrd (fld word 14 5) (fld word 9 4) (fld word 4 5) (fld word 2 1) (fld word 0 2) : Instr) = some (Instr.bayrd d a b u z)
    rw [gd, ga, gb, gu, gz]
  · rfl
  · show 0 = if (0x43 : Nat) = 0x27 ∨ (0x43 : Nat) = 0x28 then word.toNat / 2 ^ 13 % 2 else 0
    rw [if_neg (by decide)]

theorem Encoding.align : Encoding.Statement .align := by
  intro _ e he
  cases he
  refine ⟨by show 0x44 < 255; decide, by show pack [] < 2 ^ 19; simp only [pack]; omega, fun word hbody => ?_⟩
  simp only [pack] at hbody
  refine ⟨?_, ?_, ?_⟩
  · rfl
  · rfl
  · show 0 = if (0x44 : Nat) = 0x27 ∨ (0x44 : Nat) = 0x28 then word.toNat / 2 ^ 13 % 2 else 0
    rw [if_neg (by decide)]

theorem Encoding.fence (k : BitVec 3) (m : BitVec 9) : Encoding.Statement (.fence k m) := by
  intro _ e he
  cases he
  have bk := k.isLt
  have bm := m.isLt
  refine ⟨by show 0x45 < 255; decide, by show pack [(k.toNat, 16), (m.toNat, 0)] < 2 ^ 19; simp only [pack]; omega, fun word hbody => ?_⟩
  simp only [pack] at hbody
  have gk : fld word 16 3 = k := fld_eq _ _ _ (by omega)
  have gm : fld word 0 9 = m := fld_eq _ _ _ (by omega)
  refine ⟨?_, ?_, ?_⟩
  · show some (Instr.fence (fld word 16 3) (fld word 0 9) : Instr) = some (Instr.fence k m)
    rw [gk, gm]
  · rfl
  · show 0 = if (0x45 : Nat) = 0x27 ∨ (0x45 : Nat) = 0x28 then word.toNat / 2 ^ 13 % 2 else 0
    rw [if_neg (by decide)]

theorem Encoding.amo (d : BitVec 4) (a : BitVec 4) (b : BitVec 5) (z : BitVec 1) (o : BitVec 3) : Encoding.Statement (.amo d a b z o) := by
  intro _ e he
  cases he
  have bd := d.isLt
  have ba := a.isLt
  have bb := b.isLt
  have bz := z.isLt
  have bo := o.isLt
  refine ⟨by show 0x46 < 255; decide, by show pack [(d.toNat, 14), (a.toNat, 9), (b.toNat, 4), (z.toNat, 3), (o.toNat, 0)] < 2 ^ 19; simp only [pack]; omega, fun word hbody => ?_⟩
  simp only [pack] at hbody
  have gd : fld word 14 4 = d := fld_eq _ _ _ (by omega)
  have ga : fld word 9 4 = a := fld_eq _ _ _ (by omega)
  have gb : fld word 4 5 = b := fld_eq _ _ _ (by omega)
  have gz : fld word 3 1 = z := fld_eq _ _ _ (by omega)
  have go : fld word 0 3 = o := fld_eq _ _ _ (by omega)
  refine ⟨?_, ?_, ?_⟩
  · show some (Instr.amo (fld word 14 4) (fld word 9 4) (fld word 4 5) (fld word 3 1) (fld word 0 3) : Instr) = some (Instr.amo d a b z o)
    rw [gd, ga, gb, gz, go]
  · rfl
  · show 0 = if (0x46 : Nat) = 0x27 ∨ (0x46 : Nat) = 0x28 then word.toNat / 2 ^ 13 % 2 else 0
    rw [if_neg (by decide)]

theorem Encoding.acas (d : BitVec 4) (a : BitVec 4) (b : BitVec 4) (z : BitVec 1) : Encoding.Statement (.acas d a b z) := by
  intro _ e he
  cases he
  have bd := d.isLt
  have ba := a.isLt
  have bb := b.isLt
  have bz := z.isLt
  refine ⟨by show 0x47 < 255; decide, by show pack [(d.toNat, 14), (a.toNat, 9), (b.toNat, 5), (z.toNat, 3)] < 2 ^ 19; simp only [pack]; omega, fun word hbody => ?_⟩
  simp only [pack] at hbody
  have gd : fld word 14 4 = d := fld_eq _ _ _ (by omega)
  have ga : fld word 9 4 = a := fld_eq _ _ _ (by omega)
  have gb : fld word 5 4 = b := fld_eq _ _ _ (by omega)
  have gz : fld word 3 1 = z := fld_eq _ _ _ (by omega)
  refine ⟨?_, ?_, ?_⟩
  · show some (Instr.acas (fld word 14 4) (fld word 9 4) (fld word 5 4) (fld word 3 1) : Instr) = some (Instr.acas d a b z)
    rw [gd, ga, gb, gz]
  · rfl
  · show 0 = if (0x47 : Nat) = 0x27 ∨ (0x47 : Nat) = 0x28 then word.toNat / 2 ^ 13 % 2 else 0
    rw [if_neg (by decide)]

theorem Encoding.ared (a : BitVec 4) (b : BitVec 5) (z : BitVec 1) (o : BitVec 3) : Encoding.Statement (.ared a b z o) := by
  intro _ e he
  cases he
  have ba := a.isLt
  have bb := b.isLt
  have bz := z.isLt
  have bo := o.isLt
  refine ⟨by show 0x48 < 255; decide, by show pack [(a.toNat, 9), (b.toNat, 4), (z.toNat, 3), (o.toNat, 0)] < 2 ^ 19; simp only [pack]; omega, fun word hbody => ?_⟩
  simp only [pack] at hbody
  have ga : fld word 9 4 = a := fld_eq _ _ _ (by omega)
  have gb : fld word 4 5 = b := fld_eq _ _ _ (by omega)
  have gz : fld word 3 1 = z := fld_eq _ _ _ (by omega)
  have go : fld word 0 3 = o := fld_eq _ _ _ (by omega)
  refine ⟨?_, ?_, ?_⟩
  · show some (Instr.ared (fld word 9 4) (fld word 4 5) (fld word 3 1) (fld word 0 3) : Instr) = some (Instr.ared a b z o)
    rw [ga, gb, gz, go]
  · rfl
  · show 0 = if (0x48 : Nat) = 0x27 ∨ (0x48 : Nat) = 0x28 then word.toNat / 2 ^ 13 % 2 else 0
    rw [if_neg (by decide)]

theorem Encoding.cderive (d : BitVec 4) (a : BitVec 4) (b : BitVec 5) (m : BitVec 4) : Encoding.Statement (.cderive d a b m) := by
  intro _ e he
  cases he
  have bd := d.isLt
  have ba := a.isLt
  have bb := b.isLt
  have bm := m.isLt
  refine ⟨by show 0x49 < 255; decide, by show pack [(d.toNat, 14), (a.toNat, 9), (b.toNat, 4), (m.toNat, 0)] < 2 ^ 19; simp only [pack]; omega, fun word hbody => ?_⟩
  simp only [pack] at hbody
  have gd : fld word 14 4 = d := fld_eq _ _ _ (by omega)
  have ga : fld word 9 4 = a := fld_eq _ _ _ (by omega)
  have gb : fld word 4 5 = b := fld_eq _ _ _ (by omega)
  have gm : fld word 0 4 = m := fld_eq _ _ _ (by omega)
  refine ⟨?_, ?_, ?_⟩
  · show some (Instr.cderive (fld word 14 4) (fld word 9 4) (fld word 4 5) (fld word 0 4) : Instr) = some (Instr.cderive d a b m)
    rw [gd, ga, gb, gm]
  · rfl
  · show 0 = if (0x49 : Nat) = 0x27 ∨ (0x49 : Nat) = 0x28 then word.toNat / 2 ^ 13 % 2 else 0
    rw [if_neg (by decide)]

theorem Encoding.cbound (d : BitVec 4) (a : BitVec 4) (b : BitVec 5) : Encoding.Statement (.cbound d a b) := by
  intro _ e he
  cases he
  have bd := d.isLt
  have ba := a.isLt
  have bb := b.isLt
  refine ⟨by show 0x4A < 255; decide, by show pack [(d.toNat, 14), (a.toNat, 9), (b.toNat, 4)] < 2 ^ 19; simp only [pack]; omega, fun word hbody => ?_⟩
  simp only [pack] at hbody
  have gd : fld word 14 4 = d := fld_eq _ _ _ (by omega)
  have ga : fld word 9 4 = a := fld_eq _ _ _ (by omega)
  have gb : fld word 4 5 = b := fld_eq _ _ _ (by omega)
  refine ⟨?_, ?_, ?_⟩
  · show some (Instr.cbound (fld word 14 4) (fld word 9 4) (fld word 4 5) : Instr) = some (Instr.cbound d a b)
    rw [gd, ga, gb]
  · rfl
  · show 0 = if (0x4A : Nat) = 0x27 ∨ (0x4A : Nat) = 0x28 then word.toNat / 2 ^ 13 % 2 else 0
    rw [if_neg (by decide)]

theorem Encoding.cfield (d : BitVec 5) (a : BitVec 4) (f : BitVec 4) : Encoding.Statement (.cfield d a f) := by
  intro _ e he
  cases he
  have bd := d.isLt
  have ba := a.isLt
  have bf := f.isLt
  refine ⟨by show 0x4B < 255; decide, by show pack [(d.toNat, 14), (a.toNat, 9), (f.toNat, 0)] < 2 ^ 19; simp only [pack]; omega, fun word hbody => ?_⟩
  simp only [pack] at hbody
  have gd : fld word 14 5 = d := fld_eq _ _ _ (by omega)
  have ga : fld word 9 4 = a := fld_eq _ _ _ (by omega)
  have gf : fld word 0 4 = f := fld_eq _ _ _ (by omega)
  refine ⟨?_, ?_, ?_⟩
  · show some (Instr.cfield (fld word 14 5) (fld word 9 4) (fld word 0 4) : Instr) = some (Instr.cfield d a f)
    rw [gd, ga, gf]
  · rfl
  · show 0 = if (0x4B : Nat) = 0x27 ∨ (0x4B : Nat) = 0x28 then word.toNat / 2 ^ 13 % 2 else 0
    rw [if_neg (by decide)]

theorem Encoding.fork (r : BitVec 1) (i : BitVec 16) : Encoding.Statement (.fork r i) := by
  intro _ e he
  cases he
  have br := r.isLt
  have bi := i.isLt
  refine ⟨by show 0x50 < 255; decide, by show pack [(r.toNat, 17), (i.toNat, 0)] < 2 ^ 19; simp only [pack]; omega, fun word hbody => ?_⟩
  simp only [pack] at hbody
  have hcond : ¬ fld word 16 1 = 1 := fld_ne_one _ _ (by omega)
  have gr : fld word 17 1 = r := fld_eq _ _ _ (by omega)
  have gi : fld word 0 16 = i := fld_eq _ _ _ (by omega)
  refine ⟨?_, ?_, ?_⟩
  · show some (if fld word 16 1 = 1 then Instr.forkPf (fld word 17 1) (fld word 0 16) else Instr.fork (fld word 17 1) (fld word 0 16) : Instr) = some (Instr.fork r i)
    rw [if_neg hcond, gr, gi]
  · rfl
  · show 0 = if (0x50 : Nat) = 0x27 ∨ (0x50 : Nat) = 0x28 then word.toNat / 2 ^ 13 % 2 else 0
    rw [if_neg (by decide)]

theorem Encoding.forkPf (r : BitVec 1) (i : BitVec 16) : Encoding.Statement (.forkPf r i) := by
  intro _ e he
  cases he
  have br := r.isLt
  have bi := i.isLt
  refine ⟨by show 0x50 < 255; decide, by show pack [(r.toNat, 17), (i.toNat, 0), (1, 16)] < 2 ^ 19; simp only [pack]; omega, fun word hbody => ?_⟩
  simp only [pack] at hbody
  have hcond : fld word 16 1 = 1 := fld_eq _ _ 1 (by simp; omega)
  have gr : fld word 17 1 = r := fld_eq _ _ _ (by omega)
  have gi : fld word 0 16 = i := fld_eq _ _ _ (by omega)
  refine ⟨?_, ?_, ?_⟩
  · show some (if fld word 16 1 = 1 then Instr.forkPf (fld word 17 1) (fld word 0 16) else Instr.fork (fld word 17 1) (fld word 0 16) : Instr) = some (Instr.forkPf r i)
    rw [if_pos hcond, gr, gi]
  · rfl
  · show 0 = if (0x50 : Nat) = 0x27 ∨ (0x50 : Nat) = 0x28 then word.toNat / 2 ^ 13 % 2 else 0
    rw [if_neg (by decide)]

theorem Encoding.rdv : Encoding.Statement .rdv := by
  intro _ e he
  cases he
  refine ⟨by show 0x51 < 255; decide, by show pack [] < 2 ^ 19; simp only [pack]; omega, fun word hbody => ?_⟩
  simp only [pack] at hbody
  refine ⟨?_, ?_, ?_⟩
  · rfl
  · rfl
  · show 0 = if (0x51 : Nat) = 0x27 ∨ (0x51 : Nat) = 0x28 then word.toNat / 2 ^ 13 % 2 else 0
    rw [if_neg (by decide)]

theorem Encoding.barr (t : BitVec 3) : Encoding.Statement (.barr t) := by
  intro _ e he
  cases he
  have bt := t.isLt
  refine ⟨by show 0x52 < 255; decide, by show pack [(t.toNat, 0)] < 2 ^ 19; simp only [pack]; omega, fun word hbody => ?_⟩
  simp only [pack] at hbody
  have gt : fld word 0 3 = t := fld_eq _ _ _ (by omega)
  refine ⟨?_, ?_, ?_⟩
  · show some (Instr.barr (fld word 0 3) : Instr) = some (Instr.barr t)
    rw [gt]
  · rfl
  · show 0 = if (0x52 : Nat) = 0x27 ∨ (0x52 : Nat) = 0x28 then word.toNat / 2 ^ 13 % 2 else 0
    rw [if_neg (by decide)]

theorem Encoding.bwait (a : BitVec 5) (t : BitVec 3) : Encoding.Statement (.bwait a t) := by
  intro _ e he
  cases he
  have ba := a.isLt
  have bt := t.isLt
  refine ⟨by show 0x53 < 255; decide, by show pack [(a.toNat, 9), (t.toNat, 0)] < 2 ^ 19; simp only [pack]; omega, fun word hbody => ?_⟩
  simp only [pack] at hbody
  have hcond : ¬ fld word 3 1 = 1 := fld_ne_one _ _ (by omega)
  have ga : fld word 9 5 = a := fld_eq _ _ _ (by omega)
  have gt : fld word 0 3 = t := fld_eq _ _ _ (by omega)
  refine ⟨?_, ?_, ?_⟩
  · show some (if fld word 3 1 = 1 then Instr.bwaitP (fld word 9 5) (fld word 0 3) else Instr.bwait (fld word 9 5) (fld word 0 3) : Instr) = some (Instr.bwait a t)
    rw [if_neg hcond, ga, gt]
  · rfl
  · show 0 = if (0x53 : Nat) = 0x27 ∨ (0x53 : Nat) = 0x28 then word.toNat / 2 ^ 13 % 2 else 0
    rw [if_neg (by decide)]

theorem Encoding.bwaitP (a : BitVec 5) (t : BitVec 3) : Encoding.Statement (.bwaitP a t) := by
  intro _ e he
  cases he
  have ba := a.isLt
  have bt := t.isLt
  refine ⟨by show 0x53 < 255; decide, by show pack [(a.toNat, 9), (t.toNat, 0), (1, 3)] < 2 ^ 19; simp only [pack]; omega, fun word hbody => ?_⟩
  simp only [pack] at hbody
  have hcond : fld word 3 1 = 1 := fld_eq _ _ 1 (by simp; omega)
  have ga : fld word 9 5 = a := fld_eq _ _ _ (by omega)
  have gt : fld word 0 3 = t := fld_eq _ _ _ (by omega)
  refine ⟨?_, ?_, ?_⟩
  · show some (if fld word 3 1 = 1 then Instr.bwaitP (fld word 9 5) (fld word 0 3) else Instr.bwait (fld word 9 5) (fld word 0 3) : Instr) = some (Instr.bwaitP a t)
    rw [if_pos hcond, ga, gt]
  · rfl
  · show 0 = if (0x53 : Nat) = 0x27 ∨ (0x53 : Nat) = 0x28 then word.toNat / 2 ^ 13 % 2 else 0
    rw [if_neg (by decide)]

theorem Encoding.hsig (n : BitVec 6) : Encoding.Statement (.hsig n) := by
  intro _ e he
  cases he
  have bn := n.isLt
  refine ⟨by show 0x54 < 255; decide, by show pack [(n.toNat, 0)] < 2 ^ 19; simp only [pack]; omega, fun word hbody => ?_⟩
  simp only [pack] at hbody
  have hcond : ¬ fld word 16 1 = 1 := fld_ne_one _ _ (by omega)
  have gn : fld word 0 6 = n := fld_eq _ _ _ (by omega)
  refine ⟨?_, ?_, ?_⟩
  · show some (if fld word 16 1 = 1 then Instr.hsigLo (fld word 0 6) else Instr.hsig (fld word 0 6) : Instr) = some (Instr.hsig n)
    rw [if_neg hcond, gn]
  · rfl
  · show 0 = if (0x54 : Nat) = 0x27 ∨ (0x54 : Nat) = 0x28 then word.toNat / 2 ^ 13 % 2 else 0
    rw [if_neg (by decide)]

theorem Encoding.hsigLo (n : BitVec 6) : Encoding.Statement (.hsigLo n) := by
  intro _ e he
  cases he
  have bn := n.isLt
  refine ⟨by show 0x54 < 255; decide, by show pack [(n.toNat, 0), (1, 16)] < 2 ^ 19; simp only [pack]; omega, fun word hbody => ?_⟩
  simp only [pack] at hbody
  have hcond : fld word 16 1 = 1 := fld_eq _ _ 1 (by simp; omega)
  have gn : fld word 0 6 = n := fld_eq _ _ _ (by omega)
  refine ⟨?_, ?_, ?_⟩
  · show some (if fld word 16 1 = 1 then Instr.hsigLo (fld word 0 6) else Instr.hsig (fld word 0 6) : Instr) = some (Instr.hsigLo n)
    rw [if_pos hcond, gn]
  · rfl
  · show 0 = if (0x54 : Nat) = 0x27 ∨ (0x54 : Nat) = 0x28 then word.toNat / 2 ^ 13 % 2 else 0
    rw [if_neg (by decide)]

theorem Encoding.hchk (k : BitVec 1) (n : BitVec 6) : Encoding.Statement (.hchk k n) := by
  intro _ e he
  cases he
  have bk := k.isLt
  have bn := n.isLt
  refine ⟨by show 0x55 < 255; decide, by show pack [(k.toNat, 16), (n.toNat, 0)] < 2 ^ 19; simp only [pack]; omega, fun word hbody => ?_⟩
  simp only [pack] at hbody
  have gk : fld word 16 1 = k := fld_eq _ _ _ (by omega)
  have gn : fld word 0 6 = n := fld_eq _ _ _ (by omega)
  refine ⟨?_, ?_, ?_⟩
  · show some (Instr.hchk (fld word 16 1) (fld word 0 6) : Instr) = some (Instr.hchk k n)
    rw [gk, gn]
  · rfl
  · show 0 = if (0x55 : Nat) = 0x27 ∨ (0x55 : Nat) = 0x28 then word.toNat / 2 ^ 13 % 2 else 0
    rw [if_neg (by decide)]

theorem Encoding.pause (i : BitVec 16) : Encoding.Statement (.pause i) := by
  intro _ e he
  cases he
  have bi := i.isLt
  refine ⟨by show 0x56 < 255; decide, by show pack [(i.toNat, 0)] < 2 ^ 19; simp only [pack]; omega, fun word hbody => ?_⟩
  simp only [pack] at hbody
  have gi : fld word 0 16 = i := fld_eq _ _ _ (by omega)
  refine ⟨?_, ?_, ?_⟩
  · show some (Instr.pause (fld word 0 16) : Instr) = some (Instr.pause i)
    rw [gi]
  · rfl
  · show 0 = if (0x56 : Nat) = 0x27 ∨ (0x56 : Nat) = 0x28 then word.toNat / 2 ^ 13 % 2 else 0
    rw [if_neg (by decide)]

theorem Encoding.resync (i : BitVec 16) : Encoding.Statement (.resync i) := by
  intro _ e he
  cases he
  have bi := i.isLt
  refine ⟨by show 0x57 < 255; decide, by show pack [(i.toNat, 0)] < 2 ^ 19; simp only [pack]; omega, fun word hbody => ?_⟩
  simp only [pack] at hbody
  have gi : fld word 0 16 = i := fld_eq _ _ _ (by omega)
  refine ⟨?_, ?_, ?_⟩
  · show some (Instr.resync (fld word 0 16) : Instr) = some (Instr.resync i)
    rw [gi]
  · rfl
  · show 0 = if (0x57 : Nat) = 0x27 ∨ (0x57 : Nat) = 0x28 then word.toNat / 2 ^ 13 % 2 else 0
    rw [if_neg (by decide)]

theorem Encoding.board (d : BitVec 5) (a : BitVec 5) (b : BitVec 5) (m : BitVec 4) : Encoding.Statement (.board d a b m) := by
  intro _ e he
  cases he
  have bd := d.isLt
  have ba := a.isLt
  have bb := b.isLt
  have bm := m.isLt
  refine ⟨by show 0x58 < 255; decide, by show pack [(d.toNat, 14), (a.toNat, 9), (b.toNat, 4), (m.toNat, 0)] < 2 ^ 19; simp only [pack]; omega, fun word hbody => ?_⟩
  simp only [pack] at hbody
  have gd : fld word 14 5 = d := fld_eq _ _ _ (by omega)
  have ga : fld word 9 5 = a := fld_eq _ _ _ (by omega)
  have gb : fld word 4 5 = b := fld_eq _ _ _ (by omega)
  have gm : fld word 0 4 = m := fld_eq _ _ _ (by omega)
  refine ⟨?_, ?_, ?_⟩
  · show some (Instr.board (fld word 14 5) (fld word 9 5) (fld word 4 5) (fld word 0 4) : Instr) = some (Instr.board d a b m)
    rw [gd, ga, gb, gm]
  · rfl
  · show 0 = if (0x58 : Nat) = 0x27 ∨ (0x58 : Nat) = 0x28 then word.toNat / 2 ^ 13 % 2 else 0
    rw [if_neg (by decide)]

theorem Encoding.wbset (d : BitVec 5) (a : BitVec 5) (b : BitVec 5) (m : BitVec 4) : Encoding.Statement (.wbset d a b m) := by
  intro _ e he
  cases he
  have bd := d.isLt
  have ba := a.isLt
  have bb := b.isLt
  have bm := m.isLt
  refine ⟨by show 0x59 < 255; decide, by show pack [(d.toNat, 14), (a.toNat, 9), (b.toNat, 4), (m.toNat, 0)] < 2 ^ 19; simp only [pack]; omega, fun word hbody => ?_⟩
  simp only [pack] at hbody
  have gd : fld word 14 5 = d := fld_eq _ _ _ (by omega)
  have ga : fld word 9 5 = a := fld_eq _ _ _ (by omega)
  have gb : fld word 4 5 = b := fld_eq _ _ _ (by omega)
  have gm : fld word 0 4 = m := fld_eq _ _ _ (by omega)
  refine ⟨?_, ?_, ?_⟩
  · show some (Instr.wbset (fld word 14 5) (fld word 9 5) (fld word 4 5) (fld word 0 4) : Instr) = some (Instr.wbset d a b m)
    rw [gd, ga, gb, gm]
  · rfl
  · show 0 = if (0x59 : Nat) = 0x27 ∨ (0x59 : Nat) = 0x28 then word.toNat / 2 ^ 13 % 2 else 0
    rw [if_neg (by decide)]

theorem Encoding.sig (k : BitVec 3) (f : BitVec 2) (n : BitVec 6) : Encoding.Statement (.sig k f n) := by
  intro _ e he
  cases he
  have bk := k.isLt
  have bf := f.isLt
  have bn := n.isLt
  refine ⟨by show 0x5A < 255; decide, by show pack [(k.toNat, 16), (f.toNat, 14), (n.toNat, 0)] < 2 ^ 19; simp only [pack]; omega, fun word hbody => ?_⟩
  simp only [pack] at hbody
  have gk : fld word 16 3 = k := fld_eq _ _ _ (by omega)
  have gf : fld word 14 2 = f := fld_eq _ _ _ (by omega)
  have gn : fld word 0 6 = n := fld_eq _ _ _ (by omega)
  refine ⟨?_, ?_, ?_⟩
  · show some (Instr.sig (fld word 16 3) (fld word 14 2) (fld word 0 6) : Instr) = some (Instr.sig k f n)
    rw [gk, gf, gn]
  · rfl
  · show 0 = if (0x5A : Nat) = 0x27 ∨ (0x5A : Nat) = 0x28 then word.toNat / 2 ^ 13 % 2 else 0
    rw [if_neg (by decide)]

theorem Encoding.mbrecv (d : BitVec 4) : Encoding.Statement (.mbrecv d) := by
  intro _ e he
  cases he
  have bd := d.isLt
  refine ⟨by show 0x5B < 255; decide, by show pack [(d.toNat, 14)] < 2 ^ 19; simp only [pack]; omega, fun word hbody => ?_⟩
  simp only [pack] at hbody
  have gd : fld word 14 4 = d := fld_eq _ _ _ (by omega)
  refine ⟨?_, ?_, ?_⟩
  · show some (Instr.mbrecv (fld word 14 4) : Instr) = some (Instr.mbrecv d)
    rw [gd]
  · rfl
  · show 0 = if (0x5B : Nat) = 0x27 ∨ (0x5B : Nat) = 0x28 then word.toNat / 2 ^ 13 % 2 else 0
    rw [if_neg (by decide)]

theorem Encoding.mbpost (a : BitVec 5) (b : BitVec 4) : Encoding.Statement (.mbpost a b) := by
  intro _ e he
  cases he
  have ba := a.isLt
  have bb := b.isLt
  refine ⟨by show 0x5C < 255; decide, by show pack [(a.toNat, 9), (b.toNat, 4)] < 2 ^ 19; simp only [pack]; omega, fun word hbody => ?_⟩
  simp only [pack] at hbody
  have ga : fld word 9 5 = a := fld_eq _ _ _ (by omega)
  have gb : fld word 4 4 = b := fld_eq _ _ _ (by omega)
  refine ⟨?_, ?_, ?_⟩
  · show some (Instr.mbpost (fld word 9 5) (fld word 4 4) : Instr) = some (Instr.mbpost a b)
    rw [ga, gb]
  · rfl
  · show 0 = if (0x5C : Nat) = 0x27 ∨ (0x5C : Nat) = 0x28 then word.toNat / 2 ^ 13 % 2 else 0
    rw [if_neg (by decide)]

theorem Encoding.csr (d : BitVec 5) (o : BitVec 2) (n : BitVec 12) : Encoding.Statement (.csr d o n) := by
  intro _ e he
  cases he
  have bd := d.isLt
  have bo := o.isLt
  have bn := n.isLt
  refine ⟨by show 0x60 < 255; decide, by show pack [(d.toNat, 14), (o.toNat, 12), (n.toNat, 0)] < 2 ^ 19; simp only [pack]; omega, fun word hbody => ?_⟩
  simp only [pack] at hbody
  have gd : fld word 14 5 = d := fld_eq _ _ _ (by omega)
  have go : fld word 12 2 = o := fld_eq _ _ _ (by omega)
  have gn : fld word 0 12 = n := fld_eq _ _ _ (by omega)
  refine ⟨?_, ?_, ?_⟩
  · show some (Instr.csr (fld word 14 5) (fld word 12 2) (fld word 0 12) : Instr) = some (Instr.csr d o n)
    rw [gd, go, gn]
  · rfl
  · show 0 = if (0x60 : Nat) = 0x27 ∨ (0x60 : Nat) = 0x28 then word.toNat / 2 ^ 13 % 2 else 0
    rw [if_neg (by decide)]

theorem Encoding.trap (i : BitVec 16) : Encoding.Statement (.trap i) := by
  intro _ e he
  cases he
  have bi := i.isLt
  refine ⟨by show 0x61 < 255; decide, by show pack [(i.toNat, 0)] < 2 ^ 19; simp only [pack]; omega, fun word hbody => ?_⟩
  simp only [pack] at hbody
  have gi : fld word 0 16 = i := fld_eq _ _ _ (by omega)
  refine ⟨?_, ?_, ?_⟩
  · show some (Instr.trap (fld word 0 16) : Instr) = some (Instr.trap i)
    rw [gi]
  · rfl
  · show 0 = if (0x61 : Nat) = 0x27 ∨ (0x61 : Nat) = 0x28 then word.toNat / 2 ^ 13 % 2 else 0
    rw [if_neg (by decide)]

theorem Encoding.eret : Encoding.Statement .eret := by
  intro _ e he
  cases he
  refine ⟨by show 0x62 < 255; decide, by show pack [] < 2 ^ 19; simp only [pack]; omega, fun word hbody => ?_⟩
  simp only [pack] at hbody
  refine ⟨?_, ?_, ?_⟩
  · rfl
  · rfl
  · show 0 = if (0x62 : Nat) = 0x27 ∨ (0x62 : Nat) = 0x28 then word.toNat / 2 ^ 13 % 2 else 0
    rw [if_neg (by decide)]

theorem Encoding.halt : Encoding.Statement .halt := by
  intro _ e he
  cases he
  refine ⟨by show 0x63 < 255; decide, by show pack [] < 2 ^ 19; simp only [pack]; omega, fun word hbody => ?_⟩
  simp only [pack] at hbody
  refine ⟨?_, ?_, ?_⟩
  · rfl
  · rfl
  · show 0 = if (0x63 : Nat) = 0x27 ∨ (0x63 : Nat) = 0x28 then word.toNat / 2 ^ 13 % 2 else 0
    rw [if_neg (by decide)]

theorem Encoding.rcsnap (d : BitVec 4) (a : BitVec 5) : Encoding.Statement (.rcsnap d a) := by
  intro _ e he
  cases he
  have bd := d.isLt
  have ba := a.isLt
  refine ⟨by show 0x64 < 255; decide, by show pack [(d.toNat, 14), (a.toNat, 9)] < 2 ^ 19; simp only [pack]; omega, fun word hbody => ?_⟩
  simp only [pack] at hbody
  have gd : fld word 14 4 = d := fld_eq _ _ _ (by omega)
  have ga : fld word 9 5 = a := fld_eq _ _ _ (by omega)
  refine ⟨?_, ?_, ?_⟩
  · show some (Instr.rcsnap (fld word 14 4) (fld word 9 5) : Instr) = some (Instr.rcsnap d a)
    rw [gd, ga]
  · rfl
  · show 0 = if (0x64 : Nat) = 0x27 ∨ (0x64 : Nat) = 0x28 then word.toNat / 2 ^ 13 % 2 else 0
    rw [if_neg (by decide)]

theorem Encoding.smark (k : BitVec 3) (i : BitVec 16) : Encoding.Statement (.smark k i) := by
  intro _ e he
  cases he
  have bk := k.isLt
  have bi := i.isLt
  refine ⟨by show 0x65 < 255; decide, by show pack [(k.toNat, 16), (i.toNat, 0)] < 2 ^ 19; simp only [pack]; omega, fun word hbody => ?_⟩
  simp only [pack] at hbody
  have gk : fld word 16 3 = k := fld_eq _ _ _ (by omega)
  have gi : fld word 0 16 = i := fld_eq _ _ _ (by omega)
  refine ⟨?_, ?_, ?_⟩
  · show some (Instr.smark (fld word 16 3) (fld word 0 16) : Instr) = some (Instr.smark k i)
    rw [gk, gi]
  · rfl
  · show 0 = if (0x65 : Nat) = 0x27 ∨ (0x65 : Nat) = 0x28 then word.toNat / 2 ^ 13 % 2 else 0
    rw [if_neg (by decide)]

theorem Encoding.bcfg (a : BitVec 4) (b : BitVec 5) (t : BitVec 3) : Encoding.Statement (.bcfg a b t) := by
  intro _ e he
  cases he
  have ba := a.isLt
  have bb := b.isLt
  have bt := t.isLt
  refine ⟨by show 0x66 < 255; decide, by show pack [(a.toNat, 9), (b.toNat, 4), (t.toNat, 0)] < 2 ^ 19; simp only [pack]; omega, fun word hbody => ?_⟩
  simp only [pack] at hbody
  have ga : fld word 9 4 = a := fld_eq _ _ _ (by omega)
  have gb : fld word 4 5 = b := fld_eq _ _ _ (by omega)
  have gt : fld word 0 3 = t := fld_eq _ _ _ (by omega)
  refine ⟨?_, ?_, ?_⟩
  · show some (Instr.bcfg (fld word 9 4) (fld word 4 5) (fld word 0 3) : Instr) = some (Instr.bcfg a b t)
    rw [ga, gb, gt]
  · rfl
  · show 0 = if (0x66 : Nat) = 0x27 ∨ (0x66 : Nat) = 0x28 then word.toNat / 2 ^ 13 % 2 else 0
    rw [if_neg (by decide)]

theorem Encoding.rpt (p : BitVec 5) (n : BitVec 9) (d : BitVec 3) (a : BitVec 3) (b : BitVec 3) : Encoding.Statement (.rpt p n d a b) :=
  fun _ _ h => by simp [Instr.encoding] at h

theorem Encoding.vadd (d : BitVec 6) (a : BitVec 6) (b : BitVec 6) (x : Option VExt) : Encoding.Statement (.vadd d a b x) := by
  intro _ e he
  cases he
  have bd := d.isLt
  have ba := a.isLt
  have bb := b.isLt
  have bx := nxo_lt x
  refine ⟨by show 0x00 < 255; decide, by show pack [(d.toNat, 13), (a.toNat, 7), (b.toNat, 1), (nxo x, 0)] < 2 ^ 19; simp only [pack]; omega, fun word hbody => ?_⟩
  simp only [pack] at hbody
  have gd : fld word 13 6 = d := fld_eq _ _ _ (by omega)
  have ga : fld word 7 6 = a := fld_eq _ _ _ (by omega)
  have gb : fld word 1 6 = b := fld_eq _ _ _ (by omega)
  refine ⟨?_, ?_, ?_⟩
  · show some (Instr.vadd (fld word 13 6) (fld word 7 6) (fld word 1 6) (optVExt (optExt x)) : Instr) = some (Instr.vadd d a b x)
    rw [gd, ga, gb, optVExt_optExt]
  · rfl
  · exact (optExt_length x).trans (by show nxo x = word.toNat % 2; omega)

theorem Encoding.vsub (d : BitVec 6) (a : BitVec 6) (b : BitVec 6) (x : Option VExt) : Encoding.Statement (.vsub d a b x) := by
  intro _ e he
  cases he
  have bd := d.isLt
  have ba := a.isLt
  have bb := b.isLt
  have bx := nxo_lt x
  refine ⟨by show 0x01 < 255; decide, by show pack [(d.toNat, 13), (a.toNat, 7), (b.toNat, 1), (nxo x, 0)] < 2 ^ 19; simp only [pack]; omega, fun word hbody => ?_⟩
  simp only [pack] at hbody
  have gd : fld word 13 6 = d := fld_eq _ _ _ (by omega)
  have ga : fld word 7 6 = a := fld_eq _ _ _ (by omega)
  have gb : fld word 1 6 = b := fld_eq _ _ _ (by omega)
  refine ⟨?_, ?_, ?_⟩
  · show some (Instr.vsub (fld word 13 6) (fld word 7 6) (fld word 1 6) (optVExt (optExt x)) : Instr) = some (Instr.vsub d a b x)
    rw [gd, ga, gb, optVExt_optExt]
  · rfl
  · exact (optExt_length x).trans (by show nxo x = word.toNat % 2; omega)

theorem Encoding.vmul (d : BitVec 6) (a : BitVec 6) (b : BitVec 6) (x : Option VExt) : Encoding.Statement (.vmul d a b x) := by
  intro _ e he
  cases he
  have bd := d.isLt
  have ba := a.isLt
  have bb := b.isLt
  have bx := nxo_lt x
  refine ⟨by show 0x02 < 255; decide, by show pack [(d.toNat, 13), (a.toNat, 7), (b.toNat, 1), (nxo x, 0)] < 2 ^ 19; simp only [pack]; omega, fun word hbody => ?_⟩
  simp only [pack] at hbody
  have gd : fld word 13 6 = d := fld_eq _ _ _ (by omega)
  have ga : fld word 7 6 = a := fld_eq _ _ _ (by omega)
  have gb : fld word 1 6 = b := fld_eq _ _ _ (by omega)
  refine ⟨?_, ?_, ?_⟩
  · show some (Instr.vmul (fld word 13 6) (fld word 7 6) (fld word 1 6) (optVExt (optExt x)) : Instr) = some (Instr.vmul d a b x)
    rw [gd, ga, gb, optVExt_optExt]
  · rfl
  · exact (optExt_length x).trans (by show nxo x = word.toNat % 2; omega)

theorem Encoding.vfma (d : BitVec 6) (a : BitVec 6) (b : BitVec 6) (x : Option VExt) : Encoding.Statement (.vfma d a b x) := by
  intro _ e he
  cases he
  have bd := d.isLt
  have ba := a.isLt
  have bb := b.isLt
  have bx := nxo_lt x
  refine ⟨by show 0x03 < 255; decide, by show pack [(d.toNat, 13), (a.toNat, 7), (b.toNat, 1), (nxo x, 0)] < 2 ^ 19; simp only [pack]; omega, fun word hbody => ?_⟩
  simp only [pack] at hbody
  have gd : fld word 13 6 = d := fld_eq _ _ _ (by omega)
  have ga : fld word 7 6 = a := fld_eq _ _ _ (by omega)
  have gb : fld word 1 6 = b := fld_eq _ _ _ (by omega)
  refine ⟨?_, ?_, ?_⟩
  · show some (Instr.vfma (fld word 13 6) (fld word 7 6) (fld word 1 6) (optVExt (optExt x)) : Instr) = some (Instr.vfma d a b x)
    rw [gd, ga, gb, optVExt_optExt]
  · rfl
  · exact (optExt_length x).trans (by show nxo x = word.toNat % 2; omega)

theorem Encoding.vfms (d : BitVec 6) (a : BitVec 6) (b : BitVec 6) (x : Option VExt) : Encoding.Statement (.vfms d a b x) := by
  intro _ e he
  cases he
  have bd := d.isLt
  have ba := a.isLt
  have bb := b.isLt
  have bx := nxo_lt x
  refine ⟨by show 0x04 < 255; decide, by show pack [(d.toNat, 13), (a.toNat, 7), (b.toNat, 1), (nxo x, 0)] < 2 ^ 19; simp only [pack]; omega, fun word hbody => ?_⟩
  simp only [pack] at hbody
  have gd : fld word 13 6 = d := fld_eq _ _ _ (by omega)
  have ga : fld word 7 6 = a := fld_eq _ _ _ (by omega)
  have gb : fld word 1 6 = b := fld_eq _ _ _ (by omega)
  refine ⟨?_, ?_, ?_⟩
  · show some (Instr.vfms (fld word 13 6) (fld word 7 6) (fld word 1 6) (optVExt (optExt x)) : Instr) = some (Instr.vfms d a b x)
    rw [gd, ga, gb, optVExt_optExt]
  · rfl
  · exact (optExt_length x).trans (by show nxo x = word.toNat % 2; omega)

theorem Encoding.vmax (d : BitVec 6) (a : BitVec 6) (b : BitVec 6) (x : Option VExt) : Encoding.Statement (.vmax d a b x) := by
  intro _ e he
  cases he
  have bd := d.isLt
  have ba := a.isLt
  have bb := b.isLt
  have bx := nxo_lt x
  refine ⟨by show 0x05 < 255; decide, by show pack [(d.toNat, 13), (a.toNat, 7), (b.toNat, 1), (nxo x, 0)] < 2 ^ 19; simp only [pack]; omega, fun word hbody => ?_⟩
  simp only [pack] at hbody
  have gd : fld word 13 6 = d := fld_eq _ _ _ (by omega)
  have ga : fld word 7 6 = a := fld_eq _ _ _ (by omega)
  have gb : fld word 1 6 = b := fld_eq _ _ _ (by omega)
  refine ⟨?_, ?_, ?_⟩
  · show some (Instr.vmax (fld word 13 6) (fld word 7 6) (fld word 1 6) (optVExt (optExt x)) : Instr) = some (Instr.vmax d a b x)
    rw [gd, ga, gb, optVExt_optExt]
  · rfl
  · exact (optExt_length x).trans (by show nxo x = word.toNat % 2; omega)

theorem Encoding.vmin (d : BitVec 6) (a : BitVec 6) (b : BitVec 6) (x : Option VExt) : Encoding.Statement (.vmin d a b x) := by
  intro _ e he
  cases he
  have bd := d.isLt
  have ba := a.isLt
  have bb := b.isLt
  have bx := nxo_lt x
  refine ⟨by show 0x06 < 255; decide, by show pack [(d.toNat, 13), (a.toNat, 7), (b.toNat, 1), (nxo x, 0)] < 2 ^ 19; simp only [pack]; omega, fun word hbody => ?_⟩
  simp only [pack] at hbody
  have gd : fld word 13 6 = d := fld_eq _ _ _ (by omega)
  have ga : fld word 7 6 = a := fld_eq _ _ _ (by omega)
  have gb : fld word 1 6 = b := fld_eq _ _ _ (by omega)
  refine ⟨?_, ?_, ?_⟩
  · show some (Instr.vmin (fld word 13 6) (fld word 7 6) (fld word 1 6) (optVExt (optExt x)) : Instr) = some (Instr.vmin d a b x)
    rw [gd, ga, gb, optVExt_optExt]
  · rfl
  · exact (optExt_length x).trans (by show nxo x = word.toNat % 2; omega)

theorem Encoding.vabs (d : BitVec 6) (a : BitVec 6) (x : Option VExt) : Encoding.Statement (.vabs d a x) := by
  intro _ e he
  cases he
  have bd := d.isLt
  have ba := a.isLt
  have bx := nxo_lt x
  refine ⟨by show 0x07 < 255; decide, by show pack [(d.toNat, 13), (a.toNat, 7), (nxo x, 0)] < 2 ^ 19; simp only [pack]; omega, fun word hbody => ?_⟩
  simp only [pack] at hbody
  have gd : fld word 13 6 = d := fld_eq _ _ _ (by omega)
  have ga : fld word 7 6 = a := fld_eq _ _ _ (by omega)
  refine ⟨?_, ?_, ?_⟩
  · show some (Instr.vabs (fld word 13 6) (fld word 7 6) (optVExt (optExt x)) : Instr) = some (Instr.vabs d a x)
    rw [gd, ga, optVExt_optExt]
  · rfl
  · exact (optExt_length x).trans (by show nxo x = word.toNat % 2; omega)

theorem Encoding.vneg (d : BitVec 6) (a : BitVec 6) (x : Option VExt) : Encoding.Statement (.vneg d a x) := by
  intro _ e he
  cases he
  have bd := d.isLt
  have ba := a.isLt
  have bx := nxo_lt x
  refine ⟨by show 0x08 < 255; decide, by show pack [(d.toNat, 13), (a.toNat, 7), (nxo x, 0)] < 2 ^ 19; simp only [pack]; omega, fun word hbody => ?_⟩
  simp only [pack] at hbody
  have gd : fld word 13 6 = d := fld_eq _ _ _ (by omega)
  have ga : fld word 7 6 = a := fld_eq _ _ _ (by omega)
  refine ⟨?_, ?_, ?_⟩
  · show some (Instr.vneg (fld word 13 6) (fld word 7 6) (optVExt (optExt x)) : Instr) = some (Instr.vneg d a x)
    rw [gd, ga, optVExt_optExt]
  · rfl
  · exact (optExt_length x).trans (by show nxo x = word.toNat % 2; omega)

theorem Encoding.vand (d : BitVec 6) (a : BitVec 6) (b : BitVec 6) (x : Option VExt) : Encoding.Statement (.vand d a b x) := by
  intro _ e he
  cases he
  have bd := d.isLt
  have ba := a.isLt
  have bb := b.isLt
  have bx := nxo_lt x
  refine ⟨by show 0x09 < 255; decide, by show pack [(d.toNat, 13), (a.toNat, 7), (b.toNat, 1), (nxo x, 0)] < 2 ^ 19; simp only [pack]; omega, fun word hbody => ?_⟩
  simp only [pack] at hbody
  have gd : fld word 13 6 = d := fld_eq _ _ _ (by omega)
  have ga : fld word 7 6 = a := fld_eq _ _ _ (by omega)
  have gb : fld word 1 6 = b := fld_eq _ _ _ (by omega)
  refine ⟨?_, ?_, ?_⟩
  · show some (Instr.vand (fld word 13 6) (fld word 7 6) (fld word 1 6) (optVExt (optExt x)) : Instr) = some (Instr.vand d a b x)
    rw [gd, ga, gb, optVExt_optExt]
  · rfl
  · exact (optExt_length x).trans (by show nxo x = word.toNat % 2; omega)

theorem Encoding.vor (d : BitVec 6) (a : BitVec 6) (b : BitVec 6) (x : Option VExt) : Encoding.Statement (.vor d a b x) := by
  intro _ e he
  cases he
  have bd := d.isLt
  have ba := a.isLt
  have bb := b.isLt
  have bx := nxo_lt x
  refine ⟨by show 0x0A < 255; decide, by show pack [(d.toNat, 13), (a.toNat, 7), (b.toNat, 1), (nxo x, 0)] < 2 ^ 19; simp only [pack]; omega, fun word hbody => ?_⟩
  simp only [pack] at hbody
  have gd : fld word 13 6 = d := fld_eq _ _ _ (by omega)
  have ga : fld word 7 6 = a := fld_eq _ _ _ (by omega)
  have gb : fld word 1 6 = b := fld_eq _ _ _ (by omega)
  refine ⟨?_, ?_, ?_⟩
  · show some (Instr.vor (fld word 13 6) (fld word 7 6) (fld word 1 6) (optVExt (optExt x)) : Instr) = some (Instr.vor d a b x)
    rw [gd, ga, gb, optVExt_optExt]
  · rfl
  · exact (optExt_length x).trans (by show nxo x = word.toNat % 2; omega)

theorem Encoding.vxor (d : BitVec 6) (a : BitVec 6) (b : BitVec 6) (x : Option VExt) : Encoding.Statement (.vxor d a b x) := by
  intro _ e he
  cases he
  have bd := d.isLt
  have ba := a.isLt
  have bb := b.isLt
  have bx := nxo_lt x
  refine ⟨by show 0x0B < 255; decide, by show pack [(d.toNat, 13), (a.toNat, 7), (b.toNat, 1), (nxo x, 0)] < 2 ^ 19; simp only [pack]; omega, fun word hbody => ?_⟩
  simp only [pack] at hbody
  have gd : fld word 13 6 = d := fld_eq _ _ _ (by omega)
  have ga : fld word 7 6 = a := fld_eq _ _ _ (by omega)
  have gb : fld word 1 6 = b := fld_eq _ _ _ (by omega)
  refine ⟨?_, ?_, ?_⟩
  · show some (Instr.vxor (fld word 13 6) (fld word 7 6) (fld word 1 6) (optVExt (optExt x)) : Instr) = some (Instr.vxor d a b x)
    rw [gd, ga, gb, optVExt_optExt]
  · rfl
  · exact (optExt_length x).trans (by show nxo x = word.toNat % 2; omega)

theorem Encoding.vshl (d : BitVec 6) (a : BitVec 6) (b : BitVec 6) (x : Option VExt) : Encoding.Statement (.vshl d a b x) := by
  intro _ e he
  cases he
  have bd := d.isLt
  have ba := a.isLt
  have bb := b.isLt
  have bx := nxo_lt x
  refine ⟨by show 0x0C < 255; decide, by show pack [(d.toNat, 13), (a.toNat, 7), (b.toNat, 1), (nxo x, 0)] < 2 ^ 19; simp only [pack]; omega, fun word hbody => ?_⟩
  simp only [pack] at hbody
  have gd : fld word 13 6 = d := fld_eq _ _ _ (by omega)
  have ga : fld word 7 6 = a := fld_eq _ _ _ (by omega)
  have gb : fld word 1 6 = b := fld_eq _ _ _ (by omega)
  refine ⟨?_, ?_, ?_⟩
  · show some (Instr.vshl (fld word 13 6) (fld word 7 6) (fld word 1 6) (optVExt (optExt x)) : Instr) = some (Instr.vshl d a b x)
    rw [gd, ga, gb, optVExt_optExt]
  · rfl
  · exact (optExt_length x).trans (by show nxo x = word.toNat % 2; omega)

theorem Encoding.vshr (d : BitVec 6) (a : BitVec 6) (b : BitVec 6) (x : Option VExt) : Encoding.Statement (.vshr d a b x) := by
  intro _ e he
  cases he
  have bd := d.isLt
  have ba := a.isLt
  have bb := b.isLt
  have bx := nxo_lt x
  refine ⟨by show 0x0D < 255; decide, by show pack [(d.toNat, 13), (a.toNat, 7), (b.toNat, 1), (nxo x, 0)] < 2 ^ 19; simp only [pack]; omega, fun word hbody => ?_⟩
  simp only [pack] at hbody
  have gd : fld word 13 6 = d := fld_eq _ _ _ (by omega)
  have ga : fld word 7 6 = a := fld_eq _ _ _ (by omega)
  have gb : fld word 1 6 = b := fld_eq _ _ _ (by omega)
  refine ⟨?_, ?_, ?_⟩
  · show some (Instr.vshr (fld word 13 6) (fld word 7 6) (fld word 1 6) (optVExt (optExt x)) : Instr) = some (Instr.vshr d a b x)
    rw [gd, ga, gb, optVExt_optExt]
  · rfl
  · exact (optExt_length x).trans (by show nxo x = word.toNat % 2; omega)

theorem Encoding.vsra (d : BitVec 6) (a : BitVec 6) (b : BitVec 6) (x : Option VExt) : Encoding.Statement (.vsra d a b x) := by
  intro _ e he
  cases he
  have bd := d.isLt
  have ba := a.isLt
  have bb := b.isLt
  have bx := nxo_lt x
  refine ⟨by show 0x0E < 255; decide, by show pack [(d.toNat, 13), (a.toNat, 7), (b.toNat, 1), (nxo x, 0)] < 2 ^ 19; simp only [pack]; omega, fun word hbody => ?_⟩
  simp only [pack] at hbody
  have gd : fld word 13 6 = d := fld_eq _ _ _ (by omega)
  have ga : fld word 7 6 = a := fld_eq _ _ _ (by omega)
  have gb : fld word 1 6 = b := fld_eq _ _ _ (by omega)
  refine ⟨?_, ?_, ?_⟩
  · show some (Instr.vsra (fld word 13 6) (fld word 7 6) (fld word 1 6) (optVExt (optExt x)) : Instr) = some (Instr.vsra d a b x)
    rw [gd, ga, gb, optVExt_optExt]
  · rfl
  · exact (optExt_length x).trans (by show nxo x = word.toNat % 2; omega)

theorem Encoding.vcmp (d : BitVec 3) (a : BitVec 6) (b : BitVec 6) (x : Option VExt) : Encoding.Statement (.vcmp d a b x) := by
  intro _ e he
  cases he
  have bd := d.isLt
  have ba := a.isLt
  have bb := b.isLt
  have bx := nxo_lt x
  refine ⟨by show 0x10 < 255; decide, by show pack [(d.toNat, 13), (a.toNat, 7), (b.toNat, 1), (nxo x, 0)] < 2 ^ 19; simp only [pack]; omega, fun word hbody => ?_⟩
  simp only [pack] at hbody
  have gd : fld word 13 3 = d := fld_eq _ _ _ (by omega)
  have ga : fld word 7 6 = a := fld_eq _ _ _ (by omega)
  have gb : fld word 1 6 = b := fld_eq _ _ _ (by omega)
  refine ⟨?_, ?_, ?_⟩
  · show some (Instr.vcmp (fld word 13 3) (fld word 7 6) (fld word 1 6) (optVExt (optExt x)) : Instr) = some (Instr.vcmp d a b x)
    rw [gd, ga, gb, optVExt_optExt]
  · rfl
  · exact (optExt_length x).trans (by show nxo x = word.toNat % 2; omega)

theorem Encoding.vsel (d : BitVec 6) (a : BitVec 6) (b : BitVec 6) (x : VExt) : Encoding.Statement (.vsel d a b x) := by
  intro _ e he
  cases he
  have bd := d.isLt
  have ba := a.isLt
  have bb := b.isLt
  refine ⟨by show 0x11 < 255; decide, by show pack [(d.toNat, 13), (a.toNat, 7), (b.toNat, 1), (1, 0)] < 2 ^ 19; simp only [pack]; omega, fun word hbody => ?_⟩
  simp only [pack] at hbody
  have gd : fld word 13 6 = d := fld_eq _ _ _ (by omega)
  have ga : fld word 7 6 = a := fld_eq _ _ _ (by omega)
  have gb : fld word 1 6 = b := fld_eq _ _ _ (by omega)
  refine ⟨?_, ?_, ?_⟩
  · show some (Instr.vsel (fld word 13 6) (fld word 7 6) (fld word 1 6) (VExt.ofWord (x.word)) : Instr) = some (Instr.vsel d a b x)
    rw [gd, ga, gb, VExt.ofWord_word]
  · rfl
  · show 1 = word.toNat % 2
    omega

theorem Encoding.pand (d : BitVec 3) (a : BitVec 3) (b : BitVec 3) : Encoding.Statement (.pand d a b) := by
  intro _ e he
  cases he
  have bd := d.isLt
  have ba := a.isLt
  have bb := b.isLt
  refine ⟨by show 0x12 < 255; decide, by show pack [(d.toNat, 16), (a.toNat, 13), (b.toNat, 10)] < 2 ^ 19; simp only [pack]; omega, fun word hbody => ?_⟩
  simp only [pack] at hbody
  have gd : fld word 16 3 = d := fld_eq _ _ _ (by omega)
  have ga : fld word 13 3 = a := fld_eq _ _ _ (by omega)
  have gb : fld word 10 3 = b := fld_eq _ _ _ (by omega)
  refine ⟨?_, ?_, ?_⟩
  · show some (Instr.pand (fld word 16 3) (fld word 13 3) (fld word 10 3) : Instr) = some (Instr.pand d a b)
    rw [gd, ga, gb]
  · rfl
  · show 0 = word.toNat % 2
    omega

theorem Encoding.por (d : BitVec 3) (a : BitVec 3) (b : BitVec 3) : Encoding.Statement (.por d a b) := by
  intro _ e he
  cases he
  have bd := d.isLt
  have ba := a.isLt
  have bb := b.isLt
  refine ⟨by show 0x13 < 255; decide, by show pack [(d.toNat, 16), (a.toNat, 13), (b.toNat, 10)] < 2 ^ 19; simp only [pack]; omega, fun word hbody => ?_⟩
  simp only [pack] at hbody
  have gd : fld word 16 3 = d := fld_eq _ _ _ (by omega)
  have ga : fld word 13 3 = a := fld_eq _ _ _ (by omega)
  have gb : fld word 10 3 = b := fld_eq _ _ _ (by omega)
  refine ⟨?_, ?_, ?_⟩
  · show some (Instr.por (fld word 16 3) (fld word 13 3) (fld word 10 3) : Instr) = some (Instr.por d a b)
    rw [gd, ga, gb]
  · rfl
  · show 0 = word.toNat % 2
    omega

theorem Encoding.pxor (d : BitVec 3) (a : BitVec 3) (b : BitVec 3) : Encoding.Statement (.pxor d a b) := by
  intro _ e he
  cases he
  have bd := d.isLt
  have ba := a.isLt
  have bb := b.isLt
  refine ⟨by show 0x14 < 255; decide, by show pack [(d.toNat, 16), (a.toNat, 13), (b.toNat, 10)] < 2 ^ 19; simp only [pack]; omega, fun word hbody => ?_⟩
  simp only [pack] at hbody
  have gd : fld word 16 3 = d := fld_eq _ _ _ (by omega)
  have ga : fld word 13 3 = a := fld_eq _ _ _ (by omega)
  have gb : fld word 10 3 = b := fld_eq _ _ _ (by omega)
  refine ⟨?_, ?_, ?_⟩
  · show some (Instr.pxor (fld word 16 3) (fld word 13 3) (fld word 10 3) : Instr) = some (Instr.pxor d a b)
    rw [gd, ga, gb]
  · rfl
  · show 0 = word.toNat % 2
    omega

theorem Encoding.pnot (d : BitVec 3) (a : BitVec 3) : Encoding.Statement (.pnot d a) := by
  intro _ e he
  cases he
  have bd := d.isLt
  have ba := a.isLt
  refine ⟨by show 0x15 < 255; decide, by show pack [(d.toNat, 16), (a.toNat, 13)] < 2 ^ 19; simp only [pack]; omega, fun word hbody => ?_⟩
  simp only [pack] at hbody
  have gd : fld word 16 3 = d := fld_eq _ _ _ (by omega)
  have ga : fld word 13 3 = a := fld_eq _ _ _ (by omega)
  refine ⟨?_, ?_, ?_⟩
  · show some (Instr.pnot (fld word 16 3) (fld word 13 3) : Instr) = some (Instr.pnot d a)
    rw [gd, ga]
  · rfl
  · show 0 = word.toNat % 2
    omega

theorem Encoding.vcvt (d : BitVec 6) (a : BitVec 6) (x : VExt) : Encoding.Statement (.vcvt d a x) := by
  intro _ e he
  cases he
  have bd := d.isLt
  have ba := a.isLt
  refine ⟨by show 0x20 < 255; decide, by show pack [(d.toNat, 13), (a.toNat, 7), (1, 0)] < 2 ^ 19; simp only [pack]; omega, fun word hbody => ?_⟩
  simp only [pack] at hbody
  have gd : fld word 13 6 = d := fld_eq _ _ _ (by omega)
  have ga : fld word 7 6 = a := fld_eq _ _ _ (by omega)
  refine ⟨?_, ?_, ?_⟩
  · show some (Instr.vcvt (fld word 13 6) (fld word 7 6) (VExt.ofWord (x.word)) : Instr) = some (Instr.vcvt d a x)
    rw [gd, ga, VExt.ofWord_word]
  · rfl
  · show 1 = word.toNat % 2
    omega

theorem Encoding.vquant (d : BitVec 6) (a : BitVec 6) (x : Option VExt) : Encoding.Statement (.vquant d a x) := by
  intro _ e he
  cases he
  have bd := d.isLt
  have ba := a.isLt
  have bx := nxo_lt x
  refine ⟨by show 0x21 < 255; decide, by show pack [(d.toNat, 13), (a.toNat, 7), (nxo x, 0)] < 2 ^ 19; simp only [pack]; omega, fun word hbody => ?_⟩
  simp only [pack] at hbody
  have gd : fld word 13 6 = d := fld_eq _ _ _ (by omega)
  have ga : fld word 7 6 = a := fld_eq _ _ _ (by omega)
  refine ⟨?_, ?_, ?_⟩
  · show some (Instr.vquant (fld word 13 6) (fld word 7 6) (optVExt (optExt x)) : Instr) = some (Instr.vquant d a x)
    rw [gd, ga, optVExt_optExt]
  · rfl
  · exact (optExt_length x).trans (by show nxo x = word.toNat % 2; omega)

theorem Encoding.vdeq (d : BitVec 6) (a : BitVec 6) (x : Option VExt) : Encoding.Statement (.vdeq d a x) := by
  intro _ e he
  cases he
  have bd := d.isLt
  have ba := a.isLt
  have bx := nxo_lt x
  refine ⟨by show 0x22 < 255; decide, by show pack [(d.toNat, 13), (a.toNat, 7), (nxo x, 0)] < 2 ^ 19; simp only [pack]; omega, fun word hbody => ?_⟩
  simp only [pack] at hbody
  have gd : fld word 13 6 = d := fld_eq _ _ _ (by omega)
  have ga : fld word 7 6 = a := fld_eq _ _ _ (by omega)
  refine ⟨?_, ?_, ?_⟩
  · show some (Instr.vdeq (fld word 13 6) (fld word 7 6) (optVExt (optExt x)) : Instr) = some (Instr.vdeq d a x)
    rw [gd, ga, optVExt_optExt]
  · rfl
  · exact (optExt_length x).trans (by show nxo x = word.toNat % 2; omega)

theorem Encoding.vscale (d : BitVec 6) (a : BitVec 6) (b : BitVec 6) (x : Option VExt) : Encoding.Statement (.vscale d a b x) := by
  intro _ e he
  cases he
  have bd := d.isLt
  have ba := a.isLt
  have bb := b.isLt
  have bx := nxo_lt x
  refine ⟨by show 0x23 < 255; decide, by show pack [(d.toNat, 13), (a.toNat, 7), (b.toNat, 1), (nxo x, 0)] < 2 ^ 19; simp only [pack]; omega, fun word hbody => ?_⟩
  simp only [pack] at hbody
  have gd : fld word 13 6 = d := fld_eq _ _ _ (by omega)
  have ga : fld word 7 6 = a := fld_eq _ _ _ (by omega)
  have gb : fld word 1 6 = b := fld_eq _ _ _ (by omega)
  refine ⟨?_, ?_, ?_⟩
  · show some (Instr.vscale (fld word 13 6) (fld word 7 6) (fld word 1 6) (optVExt (optExt x)) : Instr) = some (Instr.vscale d a b x)
    rw [gd, ga, gb, optVExt_optExt]
  · rfl
  · exact (optExt_length x).trans (by show nxo x = word.toNat % 2; omega)

theorem Encoding.vexp2 (d : BitVec 6) (a : BitVec 6) (x : Option VExt) : Encoding.Statement (.vexp2 d a x) := by
  intro _ e he
  cases he
  have bd := d.isLt
  have ba := a.isLt
  have bx := nxo_lt x
  refine ⟨by show 0x24 < 255; decide, by show pack [(d.toNat, 13), (a.toNat, 7), (nxo x, 0)] < 2 ^ 19; simp only [pack]; omega, fun word hbody => ?_⟩
  simp only [pack] at hbody
  have gd : fld word 13 6 = d := fld_eq _ _ _ (by omega)
  have ga : fld word 7 6 = a := fld_eq _ _ _ (by omega)
  refine ⟨?_, ?_, ?_⟩
  · show some (Instr.vexp2 (fld word 13 6) (fld word 7 6) (optVExt (optExt x)) : Instr) = some (Instr.vexp2 d a x)
    rw [gd, ga, optVExt_optExt]
  · rfl
  · exact (optExt_length x).trans (by show nxo x = word.toNat % 2; omega)

theorem Encoding.vrcp (d : BitVec 6) (a : BitVec 6) (x : Option VExt) : Encoding.Statement (.vrcp d a x) := by
  intro _ e he
  cases he
  have bd := d.isLt
  have ba := a.isLt
  have bx := nxo_lt x
  refine ⟨by show 0x25 < 255; decide, by show pack [(d.toNat, 13), (a.toNat, 7), (nxo x, 0)] < 2 ^ 19; simp only [pack]; omega, fun word hbody => ?_⟩
  simp only [pack] at hbody
  have gd : fld word 13 6 = d := fld_eq _ _ _ (by omega)
  have ga : fld word 7 6 = a := fld_eq _ _ _ (by omega)
  refine ⟨?_, ?_, ?_⟩
  · show some (Instr.vrcp (fld word 13 6) (fld word 7 6) (optVExt (optExt x)) : Instr) = some (Instr.vrcp d a x)
    rw [gd, ga, optVExt_optExt]
  · rfl
  · exact (optExt_length x).trans (by show nxo x = word.toNat % 2; omega)

theorem Encoding.vrsq (d : BitVec 6) (a : BitVec 6) (x : Option VExt) : Encoding.Statement (.vrsq d a x) := by
  intro _ e he
  cases he
  have bd := d.isLt
  have ba := a.isLt
  have bx := nxo_lt x
  refine ⟨by show 0x26 < 255; decide, by show pack [(d.toNat, 13), (a.toNat, 7), (nxo x, 0)] < 2 ^ 19; simp only [pack]; omega, fun word hbody => ?_⟩
  simp only [pack] at hbody
  have gd : fld word 13 6 = d := fld_eq _ _ _ (by omega)
  have ga : fld word 7 6 = a := fld_eq _ _ _ (by omega)
  refine ⟨?_, ?_, ?_⟩
  · show some (Instr.vrsq (fld word 13 6) (fld word 7 6) (optVExt (optExt x)) : Instr) = some (Instr.vrsq d a x)
    rw [gd, ga, optVExt_optExt]
  · rfl
  · exact (optExt_length x).trans (by show nxo x = word.toNat % 2; omega)

theorem Encoding.vlog2 (d : BitVec 6) (a : BitVec 6) (x : Option VExt) : Encoding.Statement (.vlog2 d a x) := by
  intro _ e he
  cases he
  have bd := d.isLt
  have ba := a.isLt
  have bx := nxo_lt x
  refine ⟨by show 0x27 < 255; decide, by show pack [(d.toNat, 13), (a.toNat, 7), (nxo x, 0)] < 2 ^ 19; simp only [pack]; omega, fun word hbody => ?_⟩
  simp only [pack] at hbody
  have gd : fld word 13 6 = d := fld_eq _ _ _ (by omega)
  have ga : fld word 7 6 = a := fld_eq _ _ _ (by omega)
  refine ⟨?_, ?_, ?_⟩
  · show some (Instr.vlog2 (fld word 13 6) (fld word 7 6) (optVExt (optExt x)) : Instr) = some (Instr.vlog2 d a x)
    rw [gd, ga, optVExt_optExt]
  · rfl
  · exact (optExt_length x).trans (by show nxo x = word.toNat % 2; omega)

theorem Encoding.vredsum (d : BitVec 6) (a : BitVec 6) (b : BitVec 6) (x : Option VExt) : Encoding.Statement (.vredsum d a b x) := by
  intro _ e he
  cases he
  have bd := d.isLt
  have ba := a.isLt
  have bb := b.isLt
  have bx := nxo_lt x
  refine ⟨by show 0x30 < 255; decide, by show pack [(d.toNat, 13), (a.toNat, 7), (b.toNat, 1), (nxo x, 0)] < 2 ^ 19; simp only [pack]; omega, fun word hbody => ?_⟩
  simp only [pack] at hbody
  have gd : fld word 13 6 = d := fld_eq _ _ _ (by omega)
  have ga : fld word 7 6 = a := fld_eq _ _ _ (by omega)
  have gb : fld word 1 6 = b := fld_eq _ _ _ (by omega)
  refine ⟨?_, ?_, ?_⟩
  · show some (Instr.vredsum (fld word 13 6) (fld word 7 6) (fld word 1 6) (optVExt (optExt x)) : Instr) = some (Instr.vredsum d a b x)
    rw [gd, ga, gb, optVExt_optExt]
  · rfl
  · exact (optExt_length x).trans (by show nxo x = word.toNat % 2; omega)

theorem Encoding.vredmax (d : BitVec 6) (a : BitVec 6) (x : Option VExt) : Encoding.Statement (.vredmax d a x) := by
  intro _ e he
  cases he
  have bd := d.isLt
  have ba := a.isLt
  have bx := nxo_lt x
  refine ⟨by show 0x31 < 255; decide, by show pack [(d.toNat, 13), (a.toNat, 7), (nxo x, 0)] < 2 ^ 19; simp only [pack]; omega, fun word hbody => ?_⟩
  simp only [pack] at hbody
  have gd : fld word 13 6 = d := fld_eq _ _ _ (by omega)
  have ga : fld word 7 6 = a := fld_eq _ _ _ (by omega)
  refine ⟨?_, ?_, ?_⟩
  · show some (Instr.vredmax (fld word 13 6) (fld word 7 6) (optVExt (optExt x)) : Instr) = some (Instr.vredmax d a x)
    rw [gd, ga, optVExt_optExt]
  · rfl
  · exact (optExt_length x).trans (by show nxo x = word.toNat % 2; omega)

theorem Encoding.vscan (d : BitVec 6) (a : BitVec 6) (b : BitVec 6) (x : Option VExt) : Encoding.Statement (.vscan d a b x) := by
  intro _ e he
  cases he
  have bd := d.isLt
  have ba := a.isLt
  have bb := b.isLt
  have bx := nxo_lt x
  refine ⟨by show 0x32 < 255; decide, by show pack [(d.toNat, 13), (a.toNat, 7), (b.toNat, 1), (nxo x, 0)] < 2 ^ 19; simp only [pack]; omega, fun word hbody => ?_⟩
  simp only [pack] at hbody
  have gd : fld word 13 6 = d := fld_eq _ _ _ (by omega)
  have ga : fld word 7 6 = a := fld_eq _ _ _ (by omega)
  have gb : fld word 1 6 = b := fld_eq _ _ _ (by omega)
  refine ⟨?_, ?_, ?_⟩
  · show some (Instr.vscan (fld word 13 6) (fld word 7 6) (fld word 1 6) (optVExt (optExt x)) : Instr) = some (Instr.vscan d a b x)
    rw [gd, ga, gb, optVExt_optExt]
  · rfl
  · exact (optExt_length x).trans (by show nxo x = word.toNat % 2; omega)

theorem Encoding.vperm (d : BitVec 6) (a : BitVec 6) (b : BitVec 6) (x : Option VExt) : Encoding.Statement (.vperm d a b x) := by
  intro _ e he
  cases he
  have bd := d.isLt
  have ba := a.isLt
  have bb := b.isLt
  have bx := nxo_lt x
  refine ⟨by show 0x33 < 255; decide, by show pack [(d.toNat, 13), (a.toNat, 7), (b.toNat, 1), (nxo x, 0)] < 2 ^ 19; simp only [pack]; omega, fun word hbody => ?_⟩
  simp only [pack] at hbody
  have gd : fld word 13 6 = d := fld_eq _ _ _ (by omega)
  have ga : fld word 7 6 = a := fld_eq _ _ _ (by omega)
  have gb : fld word 1 6 = b := fld_eq _ _ _ (by omega)
  refine ⟨?_, ?_, ?_⟩
  · show some (Instr.vperm (fld word 13 6) (fld word 7 6) (fld word 1 6) (optVExt (optExt x)) : Instr) = some (Instr.vperm d a b x)
    rw [gd, ga, gb, optVExt_optExt]
  · rfl
  · exact (optExt_length x).trans (by show nxo x = word.toNat % 2; omega)

theorem Encoding.vbcast (d : BitVec 6) (a : BitVec 6) (x : Option VExt) : Encoding.Statement (.vbcast d a x) := by
  intro _ e he
  cases he
  have bd := d.isLt
  have ba := a.isLt
  have bx := nxo_lt x
  refine ⟨by show 0x34 < 255; decide, by show pack [(d.toNat, 13), (a.toNat, 7), (nxo x, 0)] < 2 ^ 19; simp only [pack]; omega, fun word hbody => ?_⟩
  simp only [pack] at hbody
  have gd : fld word 13 6 = d := fld_eq _ _ _ (by omega)
  have ga : fld word 7 6 = a := fld_eq _ _ _ (by omega)
  refine ⟨?_, ?_, ?_⟩
  · show some (Instr.vbcast (fld word 13 6) (fld word 7 6) (optVExt (optExt x)) : Instr) = some (Instr.vbcast d a x)
    rw [gd, ga, optVExt_optExt]
  · rfl
  · exact (optExt_length x).trans (by show nxo x = word.toNat % 2; omega)

theorem Encoding.vslide (d : BitVec 6) (a : BitVec 6) (b : BitVec 6) (x : Option VExt) : Encoding.Statement (.vslide d a b x) := by
  intro _ e he
  cases he
  have bd := d.isLt
  have ba := a.isLt
  have bb := b.isLt
  have bx := nxo_lt x
  refine ⟨by show 0x35 < 255; decide, by show pack [(d.toNat, 13), (a.toNat, 7), (b.toNat, 1), (nxo x, 0)] < 2 ^ 19; simp only [pack]; omega, fun word hbody => ?_⟩
  simp only [pack] at hbody
  have gd : fld word 13 6 = d := fld_eq _ _ _ (by omega)
  have ga : fld word 7 6 = a := fld_eq _ _ _ (by omega)
  have gb : fld word 1 6 = b := fld_eq _ _ _ (by omega)
  refine ⟨?_, ?_, ?_⟩
  · show some (Instr.vslide (fld word 13 6) (fld word 7 6) (fld word 1 6) (optVExt (optExt x)) : Instr) = some (Instr.vslide d a b x)
    rw [gd, ga, gb, optVExt_optExt]
  · rfl
  · exact (optExt_length x).trans (by show nxo x = word.toNat % 2; omega)

theorem Encoding.vpack (d : BitVec 6) (a : BitVec 6) (b : BitVec 6) (x : Option VExt) : Encoding.Statement (.vpack d a b x) := by
  intro _ e he
  cases he
  have bd := d.isLt
  have ba := a.isLt
  have bb := b.isLt
  have bx := nxo_lt x
  refine ⟨by show 0x36 < 255; decide, by show pack [(d.toNat, 13), (a.toNat, 7), (b.toNat, 1), (nxo x, 0)] < 2 ^ 19; simp only [pack]; omega, fun word hbody => ?_⟩
  simp only [pack] at hbody
  have gd : fld word 13 6 = d := fld_eq _ _ _ (by omega)
  have ga : fld word 7 6 = a := fld_eq _ _ _ (by omega)
  have gb : fld word 1 6 = b := fld_eq _ _ _ (by omega)
  refine ⟨?_, ?_, ?_⟩
  · show some (Instr.vpack (fld word 13 6) (fld word 7 6) (fld word 1 6) (optVExt (optExt x)) : Instr) = some (Instr.vpack d a b x)
    rw [gd, ga, gb, optVExt_optExt]
  · rfl
  · exact (optExt_length x).trans (by show nxo x = word.toNat % 2; omega)

theorem Encoding.vld (d : BitVec 6) (c : BitVec 4) (i : BitVec 8) (x : Option VExt) : Encoding.Statement (.vld d c i x) := by
  intro _ e he
  cases he
  have bd := d.isLt
  have bc := c.isLt
  have bi := i.isLt
  have bx := nxo_lt x
  refine ⟨by show 0x40 < 255; decide, by show pack [(d.toNat, 13), (c.toNat, 9), (i.toNat, 1), (nxo x, 0)] < 2 ^ 19; simp only [pack]; omega, fun word hbody => ?_⟩
  simp only [pack] at hbody
  have gd : fld word 13 6 = d := fld_eq _ _ _ (by omega)
  have gc : fld word 9 4 = c := fld_eq _ _ _ (by omega)
  have gi : fld word 1 8 = i := fld_eq _ _ _ (by omega)
  refine ⟨?_, ?_, ?_⟩
  · show some (Instr.vld (fld word 13 6) (fld word 9 4) (fld word 1 8) (optVExt (optExt x)) : Instr) = some (Instr.vld d c i x)
    rw [gd, gc, gi, optVExt_optExt]
  · rfl
  · exact (optExt_length x).trans (by show nxo x = word.toNat % 2; omega)

theorem Encoding.vst (d : BitVec 6) (c : BitVec 4) (i : BitVec 8) (x : Option VExt) : Encoding.Statement (.vst d c i x) := by
  intro _ e he
  cases he
  have bd := d.isLt
  have bc := c.isLt
  have bi := i.isLt
  have bx := nxo_lt x
  refine ⟨by show 0x41 < 255; decide, by show pack [(d.toNat, 13), (c.toNat, 9), (i.toNat, 1), (nxo x, 0)] < 2 ^ 19; simp only [pack]; omega, fun word hbody => ?_⟩
  simp only [pack] at hbody
  have gd : fld word 13 6 = d := fld_eq _ _ _ (by omega)
  have gc : fld word 9 4 = c := fld_eq _ _ _ (by omega)
  have gi : fld word 1 8 = i := fld_eq _ _ _ (by omega)
  refine ⟨?_, ?_, ?_⟩
  · show some (Instr.vst (fld word 13 6) (fld word 9 4) (fld word 1 8) (optVExt (optExt x)) : Instr) = some (Instr.vst d c i x)
    rw [gd, gc, gi, optVExt_optExt]
  · rfl
  · exact (optExt_length x).trans (by show nxo x = word.toNat % 2; omega)

theorem Encoding.vgat (d : BitVec 6) (c : BitVec 4) (i : BitVec 8) (x : VExt) : Encoding.Statement (.vgat d c i x) := by
  intro _ e he
  cases he
  have bd := d.isLt
  have bc := c.isLt
  have bi := i.isLt
  refine ⟨by show 0x42 < 255; decide, by show pack [(d.toNat, 13), (c.toNat, 9), (i.toNat, 1), (1, 0)] < 2 ^ 19; simp only [pack]; omega, fun word hbody => ?_⟩
  simp only [pack] at hbody
  have gd : fld word 13 6 = d := fld_eq _ _ _ (by omega)
  have gc : fld word 9 4 = c := fld_eq _ _ _ (by omega)
  have gi : fld word 1 8 = i := fld_eq _ _ _ (by omega)
  refine ⟨?_, ?_, ?_⟩
  · show some (Instr.vgat (fld word 13 6) (fld word 9 4) (fld word 1 8) (VExt.ofWord (x.word)) : Instr) = some (Instr.vgat d c i x)
    rw [gd, gc, gi, VExt.ofWord_word]
  · rfl
  · show 1 = word.toNat % 2
    omega

theorem Encoding.vsct (d : BitVec 6) (c : BitVec 4) (i : BitVec 8) (x : VExt) : Encoding.Statement (.vsct d c i x) := by
  intro _ e he
  cases he
  have bd := d.isLt
  have bc := c.isLt
  have bi := i.isLt
  refine ⟨by show 0x43 < 255; decide, by show pack [(d.toNat, 13), (c.toNat, 9), (i.toNat, 1), (1, 0)] < 2 ^ 19; simp only [pack]; omega, fun word hbody => ?_⟩
  simp only [pack] at hbody
  have gd : fld word 13 6 = d := fld_eq _ _ _ (by omega)
  have gc : fld word 9 4 = c := fld_eq _ _ _ (by omega)
  have gi : fld word 1 8 = i := fld_eq _ _ _ (by omega)
  refine ⟨?_, ?_, ?_⟩
  · show some (Instr.vsct (fld word 13 6) (fld word 9 4) (fld word 1 8) (VExt.ofWord (x.word)) : Instr) = some (Instr.vsct d c i x)
    rw [gd, gc, gi, VExt.ofWord_word]
  · rfl
  · show 1 = word.toNat % 2
    omega

theorem Encoding.vrng (d : BitVec 6) (a : BitVec 6) (b : BitVec 6) (x : Option VExt) : Encoding.Statement (.vrng d a b x) := by
  intro _ e he
  cases he
  have bd := d.isLt
  have ba := a.isLt
  have bb := b.isLt
  have bx := nxo_lt x
  refine ⟨by show 0x50 < 255; decide, by show pack [(d.toNat, 13), (a.toNat, 7), (b.toNat, 1), (nxo x, 0)] < 2 ^ 19; simp only [pack]; omega, fun word hbody => ?_⟩
  simp only [pack] at hbody
  have gd : fld word 13 6 = d := fld_eq _ _ _ (by omega)
  have ga : fld word 7 6 = a := fld_eq _ _ _ (by omega)
  have gb : fld word 1 6 = b := fld_eq _ _ _ (by omega)
  refine ⟨?_, ?_, ?_⟩
  · show some (Instr.vrng (fld word 13 6) (fld word 7 6) (fld word 1 6) (optVExt (optExt x)) : Instr) = some (Instr.vrng d a b x)
    rw [gd, ga, gb, optVExt_optExt]
  · rfl
  · exact (optExt_length x).trans (by show nxo x = word.toNat % 2; omega)

theorem Encoding.vdrop (d : BitVec 6) (a : BitVec 6) (b : BitVec 6) (x : Option VExt) : Encoding.Statement (.vdrop d a b x) := by
  intro _ e he
  cases he
  have bd := d.isLt
  have ba := a.isLt
  have bb := b.isLt
  have bx := nxo_lt x
  refine ⟨by show 0x51 < 255; decide, by show pack [(d.toNat, 13), (a.toNat, 7), (b.toNat, 1), (nxo x, 0)] < 2 ^ 19; simp only [pack]; omega, fun word hbody => ?_⟩
  simp only [pack] at hbody
  have gd : fld word 13 6 = d := fld_eq _ _ _ (by omega)
  have ga : fld word 7 6 = a := fld_eq _ _ _ (by omega)
  have gb : fld word 1 6 = b := fld_eq _ _ _ (by omega)
  refine ⟨?_, ?_, ?_⟩
  · show some (Instr.vdrop (fld word 13 6) (fld word 7 6) (fld word 1 6) (optVExt (optExt x)) : Instr) = some (Instr.vdrop d a b x)
    rw [gd, ga, gb, optVExt_optExt]
  · rfl
  · exact (optExt_length x).trans (by show nxo x = word.toNat % 2; omega)

theorem Encoding.vtopk (d : BitVec 6) (a : BitVec 6) (b : BitVec 6) (x : Option VExt) : Encoding.Statement (.vtopk d a b x) := by
  intro _ e he
  cases he
  have bd := d.isLt
  have ba := a.isLt
  have bb := b.isLt
  have bx := nxo_lt x
  refine ⟨by show 0x52 < 255; decide, by show pack [(d.toNat, 13), (a.toNat, 7), (b.toNat, 1), (nxo x, 0)] < 2 ^ 19; simp only [pack]; omega, fun word hbody => ?_⟩
  simp only [pack] at hbody
  have gd : fld word 13 6 = d := fld_eq _ _ _ (by omega)
  have ga : fld word 7 6 = a := fld_eq _ _ _ (by omega)
  have gb : fld word 1 6 = b := fld_eq _ _ _ (by omega)
  refine ⟨?_, ?_, ?_⟩
  · show some (Instr.vtopk (fld word 13 6) (fld word 7 6) (fld word 1 6) (optVExt (optExt x)) : Instr) = some (Instr.vtopk d a b x)
    rw [gd, ga, gb, optVExt_optExt]
  · rfl
  · exact (optExt_length x).trans (by show nxo x = word.toNat % 2; omega)

theorem Encoding.vmov (d : BitVec 6) (a : BitVec 6) (x : Option VExt) : Encoding.Statement (.vmov d a x) := by
  intro _ e he
  cases he
  have bd := d.isLt
  have ba := a.isLt
  have bx := nxo_lt x
  refine ⟨by show 0x60 < 255; decide, by show pack [(d.toNat, 13), (a.toNat, 7), (nxo x, 0)] < 2 ^ 19; simp only [pack]; omega, fun word hbody => ?_⟩
  simp only [pack] at hbody
  have gd : fld word 13 6 = d := fld_eq _ _ _ (by omega)
  have ga : fld word 7 6 = a := fld_eq _ _ _ (by omega)
  refine ⟨?_, ?_, ?_⟩
  · show some (Instr.vmov (fld word 13 6) (fld word 7 6) (optVExt (optExt x)) : Instr) = some (Instr.vmov d a x)
    rw [gd, ga, optVExt_optExt]
  · rfl
  · exact (optExt_length x).trans (by show nxo x = word.toNat % 2; omega)

theorem Encoding.vli (d : BitVec 6) (i : BitVec 12) (x : Option VExt) : Encoding.Statement (.vli d i x) := by
  intro _ e he
  cases he
  have bd := d.isLt
  have bi := i.isLt
  have bx := nxo_lt x
  refine ⟨by show 0x61 < 255; decide, by show pack [(d.toNat, 13), (i.toNat, 1), (nxo x, 0)] < 2 ^ 19; simp only [pack]; omega, fun word hbody => ?_⟩
  simp only [pack] at hbody
  have gd : fld word 13 6 = d := fld_eq _ _ _ (by omega)
  have gi : fld word 1 12 = i := fld_eq _ _ _ (by omega)
  refine ⟨?_, ?_, ?_⟩
  · show some (Instr.vli (fld word 13 6) (fld word 1 12) (optVExt (optExt x)) : Instr) = some (Instr.vli d i x)
    rw [gd, gi, optVExt_optExt]
  · rfl
  · exact (optExt_length x).trans (by show nxo x = word.toNat % 2; omega)

theorem Encoding.vlse (d : BitVec 6) (a : BitVec 6) (b : BitVec 6) (x : Option VExt) : Encoding.Statement (.vlse d a b x) := by
  intro _ e he
  cases he
  have bd := d.isLt
  have ba := a.isLt
  have bb := b.isLt
  have bx := nxo_lt x
  refine ⟨by show 0x62 < 255; decide, by show pack [(d.toNat, 13), (a.toNat, 7), (b.toNat, 1), (nxo x, 0)] < 2 ^ 19; simp only [pack]; omega, fun word hbody => ?_⟩
  simp only [pack] at hbody
  have gd : fld word 13 6 = d := fld_eq _ _ _ (by omega)
  have ga : fld word 7 6 = a := fld_eq _ _ _ (by omega)
  have gb : fld word 1 6 = b := fld_eq _ _ _ (by omega)
  refine ⟨?_, ?_, ?_⟩
  · show some (Instr.vlse (fld word 13 6) (fld word 7 6) (fld word 1 6) (optVExt (optExt x)) : Instr) = some (Instr.vlse d a b x)
    rw [gd, ga, gb, optVExt_optExt]
  · rfl
  · exact (optExt_length x).trans (by show nxo x = word.toNat % 2; omega)

theorem Encoding.vpush (a : BitVec 6) (x : Option VExt) : Encoding.Statement (.vpush a x) := by
  intro _ e he
  cases he
  have ba := a.isLt
  have bx := nxo_lt x
  refine ⟨by show 0x63 < 255; decide, by show pack [(a.toNat, 7), (nxo x, 0)] < 2 ^ 19; simp only [pack]; omega, fun word hbody => ?_⟩
  simp only [pack] at hbody
  have ga : fld word 7 6 = a := fld_eq _ _ _ (by omega)
  refine ⟨?_, ?_, ?_⟩
  · show some (Instr.vpush (fld word 7 6) (optVExt (optExt x)) : Instr) = some (Instr.vpush a x)
    rw [ga, optVExt_optExt]
  · rfl
  · exact (optExt_length x).trans (by show nxo x = word.toNat % 2; omega)

theorem Encoding.vpop (d : BitVec 6) (x : Option VExt) : Encoding.Statement (.vpop d x) := by
  intro _ e he
  cases he
  have bd := d.isLt
  have bx := nxo_lt x
  refine ⟨by show 0x64 < 255; decide, by show pack [(d.toNat, 13), (nxo x, 0)] < 2 ^ 19; simp only [pack]; omega, fun word hbody => ?_⟩
  simp only [pack] at hbody
  have gd : fld word 13 6 = d := fld_eq _ _ _ (by omega)
  refine ⟨?_, ?_, ?_⟩
  · show some (Instr.vpop (fld word 13 6) (optVExt (optExt x)) : Instr) = some (Instr.vpop d x)
    rw [gd, optVExt_optExt]
  · rfl
  · exact (optExt_length x).trans (by show nxo x = word.toNat % 2; omega)

theorem Encoding.mfmt (w : BitVec 13) : Encoding.Statement (.mfmt w) := by
  intro _ e he
  cases he
  have bw := w.isLt
  refine ⟨by show 0x00 < 255; decide, by show pack [(1, 0)] < 2 ^ 19; simp only [pack]; omega, fun word hbody => ?_⟩
  simp only [pack] at hbody
  have gw : fld (wordOf (w.toNat * 2 ^ 19)) 19 13 = w := fld_eq _ _ _ (by rw [wordOf_toNat]; omega)
  refine ⟨?_, ?_, ?_⟩
  · show some (Instr.mfmt (fld (wordOf (w.toNat * 2 ^ 19)) 19 13) : Instr) = some (Instr.mfmt w)
    rw [gw]
  · rfl
  · show 1 = word.toNat % 4
    omega

theorem Encoding.mzero (t : BitVec 3) (u : BitVec 3) : Encoding.Statement (.mzero t u) := by
  intro _ e he
  cases he
  have bt := t.isLt
  have bu := u.isLt
  refine ⟨by show 0x01 < 255; decide, by show pack [(t.toNat, 16), (u.toNat, 13)] < 2 ^ 19; simp only [pack]; omega, fun word hbody => ?_⟩
  simp only [pack] at hbody
  have gt : fld word 16 3 = t := fld_eq _ _ _ (by omega)
  have gu : fld word 13 3 = u := fld_eq _ _ _ (by omega)
  refine ⟨?_, ?_, ?_⟩
  · show some (Instr.mzero (fld word 16 3) (fld word 13 3) : Instr) = some (Instr.mzero t u)
    rw [gt, gu]
  · rfl
  · show 0 = word.toNat % 4
    omega

theorem Encoding.mma (t : BitVec 3) (u : BitVec 3) (f : BitVec 1) (w : BitVec 2) (c : BitVec 2) (x : MExt) : Encoding.Statement (.mma t u f w c x) := by
  intro _ e he
  cases he
  have bt := t.isLt
  have bu := u.isLt
  have bf := f.isLt
  have bw := w.isLt
  have bc := c.isLt
  have bx := x.words_lt
  refine ⟨by show 0x02 < 255; decide, by show pack [(t.toNat, 16), (u.toNat, 13), (f.toNat, 12), (w.toNat, 4), (c.toNat, 2), (x.words, 0)] < 2 ^ 19; simp only [pack]; omega, fun word hbody => ?_⟩
  simp only [pack] at hbody
  have gt : fld word 16 3 = t := fld_eq _ _ _ (by omega)
  have gu : fld word 13 3 = u := fld_eq _ _ _ (by omega)
  have gf : fld word 12 1 = f := fld_eq _ _ _ (by omega)
  have gw : fld word 4 2 = w := fld_eq _ _ _ (by omega)
  have gc : fld word 2 2 = c := fld_eq _ _ _ (by omega)
  refine ⟨?_, ?_, ?_⟩
  · show some (Instr.mma (fld word 16 3) (fld word 13 3) (fld word 12 1) (fld word 4 2) (fld word 2 2) (MExt.ofWords x.exts) : Instr) = some (Instr.mma t u f w c x)
    rw [gt, gu, gf, gw, gc, MExt.ofWords_exts]
  · rfl
  · exact (MExt.exts_length x).trans (by show MExt.words x = word.toNat % 4; omega)

theorem Encoding.mmaw (t : BitVec 3) (u : BitVec 3) (f : BitVec 1) (r : BitVec 1) (w : BitVec 2) (c : BitVec 2) (x : MExt) : Encoding.Statement (.mmaw t u f r w c x) := by
  intro _ e he
  cases he
  have bt := t.isLt
  have bu := u.isLt
  have bf := f.isLt
  have br := r.isLt
  have bw := w.isLt
  have bc := c.isLt
  have bx := x.words_lt
  refine ⟨by show 0x03 < 255; decide, by show pack [(t.toNat, 16), (u.toNat, 13), (f.toNat, 12), (r.toNat, 10), (w.toNat, 4), (c.toNat, 2), (x.words, 0)] < 2 ^ 19; simp only [pack]; omega, fun word hbody => ?_⟩
  simp only [pack] at hbody
  have gt : fld word 16 3 = t := fld_eq _ _ _ (by omega)
  have gu : fld word 13 3 = u := fld_eq _ _ _ (by omega)
  have gf : fld word 12 1 = f := fld_eq _ _ _ (by omega)
  have gr : fld word 10 1 = r := fld_eq _ _ _ (by omega)
  have gw : fld word 4 2 = w := fld_eq _ _ _ (by omega)
  have gc : fld word 2 2 = c := fld_eq _ _ _ (by omega)
  refine ⟨?_, ?_, ?_⟩
  · show some (Instr.mmaw (fld word 16 3) (fld word 13 3) (fld word 12 1) (fld word 10 1) (fld word 4 2) (fld word 2 2) (MExt.ofWords x.exts) : Instr) = some (Instr.mmaw t u f r w c x)
    rw [gt, gu, gf, gr, gw, gc, MExt.ofWords_exts]
  · rfl
  · exact (MExt.exts_length x).trans (by show MExt.words x = word.toNat % 4; omega)

theorem Encoding.mmat (t : BitVec 3) (u : BitVec 3) (f : BitVec 1) (w : BitVec 2) (c : BitVec 2) (x : MExt) : Encoding.Statement (.mmat t u f w c x) := by
  intro _ e he
  cases he
  have bt := t.isLt
  have bu := u.isLt
  have bf := f.isLt
  have bw := w.isLt
  have bc := c.isLt
  have bx := x.words_lt
  refine ⟨by show 0x04 < 255; decide, by show pack [(t.toNat, 16), (u.toNat, 13), (f.toNat, 12), (w.toNat, 4), (c.toNat, 2), (x.words, 0)] < 2 ^ 19; simp only [pack]; omega, fun word hbody => ?_⟩
  simp only [pack] at hbody
  have gt : fld word 16 3 = t := fld_eq _ _ _ (by omega)
  have gu : fld word 13 3 = u := fld_eq _ _ _ (by omega)
  have gf : fld word 12 1 = f := fld_eq _ _ _ (by omega)
  have gw : fld word 4 2 = w := fld_eq _ _ _ (by omega)
  have gc : fld word 2 2 = c := fld_eq _ _ _ (by omega)
  refine ⟨?_, ?_, ?_⟩
  · show some (Instr.mmat (fld word 16 3) (fld word 13 3) (fld word 12 1) (fld word 4 2) (fld word 2 2) (MExt.ofWords x.exts) : Instr) = some (Instr.mmat t u f w c x)
    rw [gt, gu, gf, gw, gc, MExt.ofWords_exts]
  · rfl
  · exact (MExt.exts_length x).trans (by show MExt.words x = word.toNat % 4; omega)

theorem Encoding.mwait (t : BitVec 3) (n : BitVec 6) : Encoding.Statement (.mwait t n) := by
  intro _ e he
  cases he
  have bt := t.isLt
  have bn := n.isLt
  refine ⟨by show 0x05 < 255; decide, by show pack [(t.toNat, 16), (n.toNat, 7)] < 2 ^ 19; simp only [pack]; omega, fun word hbody => ?_⟩
  simp only [pack] at hbody
  have gt : fld word 16 3 = t := fld_eq _ _ _ (by omega)
  have gn : fld word 7 6 = n := fld_eq _ _ _ (by omega)
  refine ⟨?_, ?_, ?_⟩
  · show some (Instr.mwait (fld word 16 3) (fld word 7 6) : Instr) = some (Instr.mwait t n)
    rw [gt, gn]
  · rfl
  · show 0 = word.toNat % 4
    omega

theorem Encoding.mrd (t : BitVec 3) (v : BitVec 5) (r : BitVec 6) (x : Option RowExt) : Encoding.Statement (.mrd t v r x) := by
  intro _ e he
  cases he
  have bt := t.isLt
  have bv := v.isLt
  have br := r.isLt
  have bx := nxo_lt x
  refine ⟨by show 0x06 < 255; decide, by show pack [(t.toNat, 16), (v.toNat, 8), (r.toNat, 2), (nxo x, 0)] < 2 ^ 19; simp only [pack]; omega, fun word hbody => ?_⟩
  simp only [pack] at hbody
  have gt : fld word 16 3 = t := fld_eq _ _ _ (by omega)
  have gv : fld word 8 5 = v := fld_eq _ _ _ (by omega)
  have gr : fld word 2 6 = r := fld_eq _ _ _ (by omega)
  refine ⟨?_, ?_, ?_⟩
  · show some (Instr.mrd (fld word 16 3) (fld word 8 5) (fld word 2 6) (optRowExt (rowExts x)) : Instr) = some (Instr.mrd t v r x)
    rw [gt, gv, gr, optRowExt_rowExts]
  · rfl
  · exact (rowExts_length x).trans (by show nxo x = word.toNat % 4; omega)

theorem Encoding.mwr (t : BitVec 3) (v : BitVec 5) (r : BitVec 6) (x : Option RowExt) : Encoding.Statement (.mwr t v r x) := by
  intro _ e he
  cases he
  have bt := t.isLt
  have bv := v.isLt
  have br := r.isLt
  have bx := nxo_lt x
  refine ⟨by show 0x07 < 255; decide, by show pack [(t.toNat, 16), (v.toNat, 8), (r.toNat, 2), (nxo x, 0)] < 2 ^ 19; simp only [pack]; omega, fun word hbody => ?_⟩
  simp only [pack] at hbody
  have gt : fld word 16 3 = t := fld_eq _ _ _ (by omega)
  have gv : fld word 8 5 = v := fld_eq _ _ _ (by omega)
  have gr : fld word 2 6 = r := fld_eq _ _ _ (by omega)
  refine ⟨?_, ?_, ?_⟩
  · show some (Instr.mwr (fld word 16 3) (fld word 8 5) (fld word 2 6) (optRowExt (rowExts x)) : Instr) = some (Instr.mwr t v r x)
    rw [gt, gv, gr, optRowExt_rowExts]
  · rfl
  · exact (rowExts_length x).trans (by show nxo x = word.toNat % 4; omega)

theorem Encoding.mvoc (t : BitVec 3) (u : BitVec 3) (f : BitVec 1) (l : BitVec 1) (w : BitVec 2) (c : BitVec 2) (x : MExt) : Encoding.Statement (.mvoc t u f l w c x) := by
  intro _ e he
  cases he
  have bt := t.isLt
  have bu := u.isLt
  have bf := f.isLt
  have bl := l.isLt
  have bw := w.isLt
  have bc := c.isLt
  have bx := x.words_lt
  refine ⟨by show 0x08 < 255; decide, by show pack [(t.toNat, 16), (u.toNat, 13), (f.toNat, 12), (l.toNat, 11), (w.toNat, 4), (c.toNat, 2), (x.words, 0)] < 2 ^ 19; simp only [pack]; omega, fun word hbody => ?_⟩
  simp only [pack] at hbody
  have gt : fld word 16 3 = t := fld_eq _ _ _ (by omega)
  have gu : fld word 13 3 = u := fld_eq _ _ _ (by omega)
  have gf : fld word 12 1 = f := fld_eq _ _ _ (by omega)
  have gl : fld word 11 1 = l := fld_eq _ _ _ (by omega)
  have gw : fld word 4 2 = w := fld_eq _ _ _ (by omega)
  have gc : fld word 2 2 = c := fld_eq _ _ _ (by omega)
  refine ⟨?_, ?_, ?_⟩
  · show some (Instr.mvoc (fld word 16 3) (fld word 13 3) (fld word 12 1) (fld word 11 1) (fld word 4 2) (fld word 2 2) (MExt.ofWords x.exts) : Instr) = some (Instr.mvoc t u f l w c x)
    rw [gt, gu, gf, gl, gw, gc, MExt.ofWords_exts]
  · rfl
  · exact (MExt.exts_length x).trans (by show MExt.words x = word.toNat % 4; omega)

theorem Encoding.mvocbFwd (t : BitVec 3) (u : BitVec 3) (f : BitVec 1) (l : BitVec 1) (w : BitVec 2) (c : BitVec 2) (x : MExt) : Encoding.Statement (.mvocbFwd t u f l w c x) := by
  intro _ e he
  cases he
  have bt := t.isLt
  have bu := u.isLt
  have bf := f.isLt
  have bl := l.isLt
  have bw := w.isLt
  have bc := c.isLt
  have bx := x.words_lt
  refine ⟨by show 0x09 < 255; decide, by show pack [(t.toNat, 16), (u.toNat, 13), (f.toNat, 12), (l.toNat, 11), (w.toNat, 4), (c.toNat, 2), (x.words, 0)] < 2 ^ 19; simp only [pack]; omega, fun word hbody => ?_⟩
  simp only [pack] at hbody
  have hcond : ¬ fld word 9 1 = 1 := fld_ne_one _ _ (by omega)
  have gt : fld word 16 3 = t := fld_eq _ _ _ (by omega)
  have gu : fld word 13 3 = u := fld_eq _ _ _ (by omega)
  have gf : fld word 12 1 = f := fld_eq _ _ _ (by omega)
  have gl : fld word 11 1 = l := fld_eq _ _ _ (by omega)
  have gw : fld word 4 2 = w := fld_eq _ _ _ (by omega)
  have gc : fld word 2 2 = c := fld_eq _ _ _ (by omega)
  refine ⟨?_, ?_, ?_⟩
  · show some (if fld word 9 1 = 1 then Instr.mvocbBwd (fld word 16 3) (fld word 13 3) (fld word 12 1) (fld word 6 3) (fld word 4 2) (fld word 2 2) (MExt.ofWords x.exts) else Instr.mvocbFwd (fld word 16 3) (fld word 13 3) (fld word 12 1) (fld word 11 1) (fld word 4 2) (fld word 2 2) (MExt.ofWords x.exts) : Instr) = some (Instr.mvocbFwd t u f l w c x)
    rw [if_neg hcond, gt, gu, gf, gl, gw, gc, MExt.ofWords_exts]
  · rfl
  · exact (MExt.exts_length x).trans (by show MExt.words x = word.toNat % 4; omega)

theorem Encoding.mvocbBwd (t : BitVec 3) (u : BitVec 3) (f : BitVec 1) (p : BitVec 3) (w : BitVec 2) (c : BitVec 2) (x : MExt) : Encoding.Statement (.mvocbBwd t u f p w c x) := by
  intro _ e he
  cases he
  have bt := t.isLt
  have bu := u.isLt
  have bf := f.isLt
  have bp := p.isLt
  have bw := w.isLt
  have bc := c.isLt
  have bx := x.words_lt
  refine ⟨by show 0x09 < 255; decide, by show pack [(t.toNat, 16), (u.toNat, 13), (f.toNat, 12), (p.toNat, 6), (w.toNat, 4), (c.toNat, 2), (1, 9), (x.words, 0)] < 2 ^ 19; simp only [pack]; omega, fun word hbody => ?_⟩
  simp only [pack] at hbody
  have hcond : fld word 9 1 = 1 := fld_eq _ _ 1 (by simp; omega)
  have gt : fld word 16 3 = t := fld_eq _ _ _ (by omega)
  have gu : fld word 13 3 = u := fld_eq _ _ _ (by omega)
  have gf : fld word 12 1 = f := fld_eq _ _ _ (by omega)
  have gp : fld word 6 3 = p := fld_eq _ _ _ (by omega)
  have gw : fld word 4 2 = w := fld_eq _ _ _ (by omega)
  have gc : fld word 2 2 = c := fld_eq _ _ _ (by omega)
  refine ⟨?_, ?_, ?_⟩
  · show some (if fld word 9 1 = 1 then Instr.mvocbBwd (fld word 16 3) (fld word 13 3) (fld word 12 1) (fld word 6 3) (fld word 4 2) (fld word 2 2) (MExt.ofWords x.exts) else Instr.mvocbFwd (fld word 16 3) (fld word 13 3) (fld word 12 1) (fld word 11 1) (fld word 4 2) (fld word 2 2) (MExt.ofWords x.exts) : Instr) = some (Instr.mvocbBwd t u f p w c x)
    rw [if_pos hcond, gt, gu, gf, gp, gw, gc, MExt.ofWords_exts]
  · rfl
  · exact (MExt.exts_length x).trans (by show MExt.words x = word.toNat % 4; omega)

theorem Encoding.hmerge (lo : BitVec 1) (v : BitVec 6) (row : BitVec 6) : Encoding.Statement (.hmerge lo v row) := by
  intro _ e he
  cases he
  have blo := lo.isLt
  have bv := v.isLt
  have brow := row.isLt
  refine ⟨by show 0x0A < 255; decide, by show pack [(lo.toNat, 16), (v.toNat, 7), (1, 0)] < 2 ^ 19; simp only [pack]; omega, fun word hbody => ?_⟩
  simp only [pack] at hbody
  have glo : fld word 16 1 = lo := fld_eq _ _ _ (by omega)
  have gv : fld word 7 6 = v := fld_eq _ _ _ (by omega)
  have grow : fld (wordOf row.toNat) 0 6 = row := fld_eq _ _ _ (by rw [wordOf_toNat]; omega)
  refine ⟨?_, ?_, ?_⟩
  · show some (Instr.hmerge (fld word 16 1) (fld word 7 6) (fld (wordOf row.toNat) 0 6) : Instr) = some (Instr.hmerge lo v row)
    rw [glo, gv, grow]
  · rfl
  · show 1 = word.toNat % 4
    omega

theorem Encoding.hread (v : BitVec 6) (row : BitVec 6) : Encoding.Statement (.hread v row) := by
  intro _ e he
  cases he
  have bv := v.isLt
  have brow := row.isLt
  refine ⟨by show 0x0B < 255; decide, by show pack [(v.toNat, 7), (1, 0)] < 2 ^ 19; simp only [pack]; omega, fun word hbody => ?_⟩
  simp only [pack] at hbody
  have gv : fld word 7 6 = v := fld_eq _ _ _ (by omega)
  have grow : fld (wordOf row.toNat) 0 6 = row := fld_eq _ _ _ (by rw [wordOf_toNat]; omega)
  refine ⟨?_, ?_, ?_⟩
  · show some (Instr.hread (fld word 7 6) (fld (wordOf row.toNat) 0 6) : Instr) = some (Instr.hread v row)
    rw [gv, grow]
  · rfl
  · show 1 = word.toNat % 4
    omega

theorem Encoding.mapld (s : BitVec 2) (gen : BitVec 6) (mw : BitVec 3) (c : BitVec 4) (rse : BitVec 1) (sem : BitVec 6) : Encoding.Statement (.mapld s gen mw c rse sem) := by
  intro _ e he
  cases he
  have bs := s.isLt
  have bgen := gen.isLt
  have bmw := mw.isLt
  have bc := c.isLt
  have brse := rse.isLt
  have bsem := sem.isLt
  refine ⟨by show 0x0C < 255; decide, by show pack [(s.toNat, 16), (gen.toNat, 7), (mw.toNat, 4), (1, 0)] < 2 ^ 19; simp only [pack]; omega, fun word hbody => ?_⟩
  simp only [pack] at hbody
  have gs : fld word 16 2 = s := fld_eq _ _ _ (by omega)
  have ggen : fld word 7 6 = gen := fld_eq _ _ _ (by omega)
  have gmw : fld word 4 3 = mw := fld_eq _ _ _ (by omega)
  have gc : fld (wordOf (c.toNat * 2 ^ 28 + rse.toNat * 2 ^ 27 + sem.toNat * 2 ^ 21)) 28 4 = c := fld_eq _ _ _ (by rw [wordOf_toNat]; omega)
  have grse : fld (wordOf (c.toNat * 2 ^ 28 + rse.toNat * 2 ^ 27 + sem.toNat * 2 ^ 21)) 27 1 = rse := fld_eq _ _ _ (by rw [wordOf_toNat]; omega)
  have gsem : fld (wordOf (c.toNat * 2 ^ 28 + rse.toNat * 2 ^ 27 + sem.toNat * 2 ^ 21)) 21 6 = sem := fld_eq _ _ _ (by rw [wordOf_toNat]; omega)
  refine ⟨?_, ?_, ?_⟩
  · show some (Instr.mapld (fld word 16 2) (fld word 7 6) (fld word 4 3) (fld (wordOf (c.toNat * 2 ^ 28 + rse.toNat * 2 ^ 27 + sem.toNat * 2 ^ 21)) 28 4) (fld (wordOf (c.toNat * 2 ^ 28 + rse.toNat * 2 ^ 27 + sem.toNat * 2 ^ 21)) 27 1) (fld (wordOf (c.toNat * 2 ^ 28 + rse.toNat * 2 ^ 27 + sem.toNat * 2 ^ 21)) 21 6) : Instr) = some (Instr.mapld s gen mw c rse sem)
    rw [gs, ggen, gmw, gc, grse, gsem]
  · rfl
  · show 1 = word.toNat % 4
    omega

theorem Encoding.mnorm (m : BitVec 2) (v : BitVec 6) (row : BitVec 6) : Encoding.Statement (.mnorm m v row) := by
  intro _ e he
  cases he
  have bm := m.isLt
  have bv := v.isLt
  have brow := row.isLt
  refine ⟨by show 0x0D < 255; decide, by show pack [(m.toNat, 16), (v.toNat, 7), (1, 0)] < 2 ^ 19; simp only [pack]; omega, fun word hbody => ?_⟩
  simp only [pack] at hbody
  have gm : fld word 16 2 = m := fld_eq _ _ _ (by omega)
  have gv : fld word 7 6 = v := fld_eq _ _ _ (by omega)
  have grow : fld (wordOf row.toNat) 0 6 = row := fld_eq _ _ _ (by rw [wordOf_toNat]; omega)
  refine ⟨?_, ?_, ?_⟩
  · show some (Instr.mnorm (fld word 16 2) (fld word 7 6) (fld (wordOf row.toNat) 0 6) : Instr) = some (Instr.mnorm m v row)
    rw [gm, gv, grow]
  · rfl
  · show 1 = word.toNat % 4
    omega

theorem Encoding.cpy (d : BitVec 16) : Encoding.Statement (.cpy d) := by
  intro _ e he
  cases he
  have bd := d.isLt
  refine ⟨by show 0x00 < 255; decide, by show pack [(d.toNat, 3)] < 2 ^ 19; simp only [pack]; omega, fun word hbody => ?_⟩
  simp only [pack] at hbody
  have gd : fld word 3 16 = d := fld_eq _ _ _ (by omega)
  refine ⟨?_, ?_, ?_⟩
  · show some (Instr.cpy (fld word 3 16) : Instr) = some (Instr.cpy d)
    rw [gd]
  · rfl
  · show 0 = word.toNat % 2
    omega

theorem Encoding.cpyf (d : BitVec 16) (x : Option MapTag) : Encoding.Statement (.cpyf d x) := by
  intro _ e he
  cases he
  have bd := d.isLt
  have bx := nxo_lt x
  refine ⟨by show 0x01 < 255; decide, by show pack [(d.toNat, 3), (nxo x, 0)] < 2 ^ 19; simp only [pack]; omega, fun word hbody => ?_⟩
  simp only [pack] at hbody
  have gd : fld word 3 16 = d := fld_eq _ _ _ (by omega)
  refine ⟨?_, ?_, ?_⟩
  · show some (Instr.cpyf (fld word 3 16) (optMapTag (tagExts x)) : Instr) = some (Instr.cpyf d x)
    rw [gd, optMapTag_tagExts]
  · rfl
  · exact (tagExts_length x).trans (by show nxo x = word.toNat % 2; omega)

theorem Encoding.cpyt (d : BitVec 16) : Encoding.Statement (.cpyt d) := by
  intro _ e he
  cases he
  have bd := d.isLt
  refine ⟨by show 0x02 < 255; decide, by show pack [(d.toNat, 3)] < 2 ^ 19; simp only [pack]; omega, fun word hbody => ?_⟩
  simp only [pack] at hbody
  have gd : fld word 3 16 = d := fld_eq _ _ _ (by omega)
  refine ⟨?_, ?_, ?_⟩
  · show some (Instr.cpyt (fld word 3 16) : Instr) = some (Instr.cpyt d)
    rw [gd]
  · rfl
  · show 0 = word.toNat % 2
    omega

theorem Encoding.cpyw (d : BitVec 16) : Encoding.Statement (.cpyw d) := by
  intro _ e he
  cases he
  have bd := d.isLt
  refine ⟨by show 0x03 < 255; decide, by show pack [(d.toNat, 3)] < 2 ^ 19; simp only [pack]; omega, fun word hbody => ?_⟩
  simp only [pack] at hbody
  have gd : fld word 3 16 = d := fld_eq _ _ _ (by omega)
  refine ⟨?_, ?_, ?_⟩
  · show some (Instr.cpyw (fld word 3 16) : Instr) = some (Instr.cpyw d)
    rw [gd]
  · rfl
  · show 0 = word.toNat % 2
    omega

theorem Encoding.cpyr (d : BitVec 16) : Encoding.Statement (.cpyr d) := by
  intro _ e he
  cases he
  have bd := d.isLt
  refine ⟨by show 0x04 < 255; decide, by show pack [(d.toNat, 3)] < 2 ^ 19; simp only [pack]; omega, fun word hbody => ?_⟩
  simp only [pack] at hbody
  have gd : fld word 3 16 = d := fld_eq _ _ _ (by omega)
  refine ⟨?_, ?_, ?_⟩
  · show some (Instr.cpyr (fld word 3 16) : Instr) = some (Instr.cpyr d)
    rw [gd]
  · rfl
  · show 0 = word.toNat % 2
    omega

theorem Encoding.chead (h : BitVec 6) (a : BitVec 4) : Encoding.Statement (.chead h a) := by
  intro _ e he
  cases he
  have bh := h.isLt
  have ba := a.isLt
  refine ⟨by show 0x07 < 255; decide, by show pack [(h.toNat, 10), (a.toNat, 1)] < 2 ^ 19; simp only [pack]; omega, fun word hbody => ?_⟩
  simp only [pack] at hbody
  have gh : fld word 10 6 = h := fld_eq _ _ _ (by omega)
  have ga : fld word 1 4 = a := fld_eq _ _ _ (by omega)
  refine ⟨?_, ?_, ?_⟩
  · show some (Instr.chead (fld word 10 6) (fld word 1 4) : Instr) = some (Instr.chead h a)
    rw [gh, ga]
  · rfl
  · show 0 = word.toNat % 2
    omega

theorem Encoding.cmap (k : BitVec 3) (a : BitVec 4) (n : BitVec 8) : Encoding.Statement (.cmap k a n) := by
  intro _ e he
  cases he
  have bk := k.isLt
  have ba := a.isLt
  have bn := n.isLt
  refine ⟨by show 0x08 < 255; decide, by show pack [(k.toNat, 16), (a.toNat, 1), (1, 0)] < 2 ^ 19; simp only [pack]; omega, fun word hbody => ?_⟩
  simp only [pack] at hbody
  have gk : fld word 16 3 = k := fld_eq _ _ _ (by omega)
  have ga : fld word 1 4 = a := fld_eq _ _ _ (by omega)
  have gn : fld (wordOf n.toNat) 0 8 = n := fld_eq _ _ _ (by rw [wordOf_toNat]; omega)
  refine ⟨?_, ?_, ?_⟩
  · show some (Instr.cmap (fld word 16 3) (fld word 1 4) (fld (wordOf n.toNat) 0 8) : Instr) = some (Instr.cmap k a n)
    rw [gk, ga, gn]
  · rfl
  · show 1 = word.toNat % 2
    omega

theorem Encoding.cmwait (k : BitVec 3) (hs : BitVec 6) (t : BitVec 1) (h : BitVec 3) (v : BitVec 32) : Encoding.Statement (.cmwait k hs t h v) := by
  intro _ e he
  cases he
  have bk := k.isLt
  have bhs := hs.isLt
  have bt := t.isLt
  have bh := h.isLt
  have bv := v.isLt
  refine ⟨by show 0x09 < 255; decide, by show pack [(k.toNat, 16), (hs.toNat, 10), (t.toNat, 9), (h.toNat, 1), (1, 0)] < 2 ^ 19; simp only [pack]; omega, fun word hbody => ?_⟩
  simp only [pack] at hbody
  have gk : fld word 16 3 = k := fld_eq _ _ _ (by omega)
  have ghs : fld word 10 6 = hs := fld_eq _ _ _ (by omega)
  have gt : fld word 9 1 = t := fld_eq _ _ _ (by omega)
  have gh : fld word 1 3 = h := fld_eq _ _ _ (by omega)
  refine ⟨?_, ?_, ?_⟩
  · show some (Instr.cmwait (fld word 16 3) (fld word 10 6) (fld word 9 1) (fld word 1 3) (v) : Instr) = some (Instr.cmwait k hs t h v)
    rw [gk, ghs, gt, gh]
  · rfl
  · show 1 = word.toNat % 2
    omega

theorem Encoding.cfence (k : BitVec 3) (m : BitVec 9) : Encoding.Statement (.cfence k m) := by
  intro _ e he
  cases he
  have bk := k.isLt
  have bm := m.isLt
  refine ⟨by show 0x0A < 255; decide, by show pack [(k.toNat, 16), (m.toNat, 1)] < 2 ^ 19; simp only [pack]; omega, fun word hbody => ?_⟩
  simp only [pack] at hbody
  have gk : fld word 16 3 = k := fld_eq _ _ _ (by omega)
  have gm : fld word 1 9 = m := fld_eq _ _ _ (by omega)
  refine ⟨?_, ?_, ?_⟩
  · show some (Instr.cfence (fld word 16 3) (fld word 1 9) : Instr) = some (Instr.cfence k m)
    rw [gk, gm]
  · rfl
  · show 0 = word.toNat % 2
    omega

theorem Encoding.cabort (c : BitVec 1) : Encoding.Statement (.cabort c) := by
  intro _ e he
  cases he
  have bc := c.isLt
  refine ⟨by show 0x0B < 255; decide, by show pack [(c.toNat, 16)] < 2 ^ 19; simp only [pack]; omega, fun word hbody => ?_⟩
  simp only [pack] at hbody
  have hcond : ¬ fld word 18 1 = 1 := fld_ne_one _ _ (by omega)
  have gc : fld word 16 1 = c := fld_eq _ _ _ (by omega)
  refine ⟨?_, ?_, ?_⟩
  · show some (if fld word 18 1 = 1 then Instr.cabortBt (fld word 10 6) else Instr.cabort (fld word 16 1) : Instr) = some (Instr.cabort c)
    rw [if_neg hcond, gc]
  · rfl
  · show 0 = word.toNat % 2
    omega

theorem Encoding.cabortBt (h : BitVec 6) : Encoding.Statement (.cabortBt h) := by
  intro _ e he
  cases he
  have bh := h.isLt
  refine ⟨by show 0x0B < 255; decide, by show pack [(h.toNat, 10), (4, 16)] < 2 ^ 19; simp only [pack]; omega, fun word hbody => ?_⟩
  simp only [pack] at hbody
  have hcond : fld word 18 1 = 1 := fld_eq _ _ 1 (by simp; omega)
  have gh : fld word 10 6 = h := fld_eq _ _ _ (by omega)
  refine ⟨?_, ?_, ?_⟩
  · show some (if fld word 18 1 = 1 then Instr.cabortBt (fld word 10 6) else Instr.cabort (fld word 16 1) : Instr) = some (Instr.cabortBt h)
    rw [if_pos hcond, gh]
  · rfl
  · show 0 = word.toNat % 2
    omega

theorem Encoding.ldrive (l : BitVec 5) (k : BitVec 3) (i : BitVec 10) (h : BitVec 7) : Encoding.Statement (.ldrive l k i h) := by
  intro _ e he
  cases he
  have bl := l.isLt
  have bk := k.isLt
  have bi := i.isLt
  have bh := h.isLt
  refine ⟨by show 0x01 < 255; decide, by show pack [(l.toNat, 14), (k.toNat, 11), (i.toNat, 1), (1, 0)] < 2 ^ 19; simp only [pack]; omega, fun word hbody => ?_⟩
  simp only [pack] at hbody
  have gl : fld word 14 5 = l := fld_eq _ _ _ (by omega)
  have gk : fld word 11 3 = k := fld_eq _ _ _ (by omega)
  have gi : fld word 1 10 = i := fld_eq _ _ _ (by omega)
  have gh : fld (wordOf h.toNat) 0 7 = h := fld_eq _ _ _ (by rw [wordOf_toNat]; omega)
  refine ⟨?_, ?_, ?_⟩
  · show some (Instr.ldrive (fld word 14 5) (fld word 11 3) (fld word 1 10) (fld (wordOf h.toNat) 0 7) : Instr) = some (Instr.ldrive l k i h)
    rw [gl, gk, gi, gh]
  · rfl
  · show 1 = word.toNat % 2
    omega

theorem Encoding.lfwd (l : BitVec 5) (o : BitVec 5) (h : BitVec 7) : Encoding.Statement (.lfwd l o h) := by
  intro _ e he
  cases he
  have bl := l.isLt
  have bo := o.isLt
  have bh := h.isLt
  refine ⟨by show 0x02 < 255; decide, by show pack [(l.toNat, 14), (o.toNat, 1), (1, 0)] < 2 ^ 19; simp only [pack]; omega, fun word hbody => ?_⟩
  simp only [pack] at hbody
  have gl : fld word 14 5 = l := fld_eq _ _ _ (by omega)
  have go : fld word 1 5 = o := fld_eq _ _ _ (by omega)
  have gh : fld (wordOf h.toNat) 0 7 = h := fld_eq _ _ _ (by rw [wordOf_toNat]; omega)
  refine ⟨?_, ?_, ?_⟩
  · show some (Instr.lfwd (fld word 14 5) (fld word 1 5) (fld (wordOf h.toNat) 0 7) : Instr) = some (Instr.lfwd l o h)
    rw [gl, go, gh]
  · rfl
  · show 1 = word.toNat % 2
    omega

theorem Encoding.lidle (n : BitVec 10) : Encoding.Statement (.lidle n) := by
  intro _ e he
  cases he
  have bn := n.isLt
  refine ⟨by show 0x04 < 255; decide, by show pack [(n.toNat, 1)] < 2 ^ 19; simp only [pack]; omega, fun word hbody => ?_⟩
  simp only [pack] at hbody
  have gn : fld word 1 10 = n := fld_eq _ _ _ (by omega)
  refine ⟨?_, ?_, ?_⟩
  · show some (Instr.lidle (fld word 1 10) : Instr) = some (Instr.lidle n)
    rw [gn]
  · rfl
  · show 0 = word.toNat % 2
    omega

theorem Encoding.lcfg (w : BitVec 4) : Encoding.Statement (.lcfg w) := by
  intro _ e he
  cases he
  have bw := w.isLt
  refine ⟨by show 0x05 < 255; decide, by show pack [(w.toNat, 1)] < 2 ^ 19; simp only [pack]; omega, fun word hbody => ?_⟩
  simp only [pack] at hbody
  have gw : fld word 1 4 = w := fld_eq _ _ _ (by omega)
  refine ⟨?_, ?_, ?_⟩
  · show some (Instr.lcfg (fld word 1 4) : Instr) = some (Instr.lcfg w)
    rw [gw]
  · rfl
  · show 0 = word.toNat % 2
    omega

theorem Encoding.fput (d : BitVec 16) : Encoding.Statement (.fput d) := by
  intro _ e he
  cases he
  have bd := d.isLt
  refine ⟨by show 0x00 < 255; decide, by show pack [(d.toNat, 3)] < 2 ^ 19; simp only [pack]; omega, fun word hbody => ?_⟩
  simp only [pack] at hbody
  have gd : fld word 3 16 = d := fld_eq _ _ _ (by omega)
  refine ⟨?_, ?_, ?_⟩
  · show some (Instr.fput (fld word 3 16) : Instr) = some (Instr.fput d)
    rw [gd]
  · rfl
  · show 0 = word.toNat % 2
    omega

theorem Encoding.fget (d : BitVec 16) : Encoding.Statement (.fget d) := by
  intro _ e he
  cases he
  have bd := d.isLt
  refine ⟨by show 0x01 < 255; decide, by show pack [(d.toNat, 3)] < 2 ^ 19; simp only [pack]; omega, fun word hbody => ?_⟩
  simp only [pack] at hbody
  have gd : fld word 3 16 = d := fld_eq _ _ _ (by omega)
  refine ⟨?_, ?_, ?_⟩
  · show some (Instr.fget (fld word 3 16) : Instr) = some (Instr.fget d)
    rw [gd]
  · rfl
  · show 0 = word.toNat % 2
    omega

theorem Encoding.famo (d : BitVec 16) : Encoding.Statement (.famo d) := by
  intro _ e he
  cases he
  have bd := d.isLt
  refine ⟨by show 0x02 < 255; decide, by show pack [(d.toNat, 3)] < 2 ^ 19; simp only [pack]; omega, fun word hbody => ?_⟩
  simp only [pack] at hbody
  have gd : fld word 3 16 = d := fld_eq _ _ _ (by omega)
  refine ⟨?_, ?_, ?_⟩
  · show some (Instr.famo (fld word 3 16) : Instr) = some (Instr.famo d)
    rw [gd]
  · rfl
  · show 0 = word.toNat % 2
    omega

theorem Encoding.facas (d : BitVec 16) : Encoding.Statement (.facas d) := by
  intro _ e he
  cases he
  have bd := d.isLt
  refine ⟨by show 0x03 < 255; decide, by show pack [(d.toNat, 3)] < 2 ^ 19; simp only [pack]; omega, fun word hbody => ?_⟩
  simp only [pack] at hbody
  have gd : fld word 3 16 = d := fld_eq _ _ _ (by omega)
  refine ⟨?_, ?_, ?_⟩
  · show some (Instr.facas (fld word 3 16) : Instr) = some (Instr.facas d)
    rw [gd]
  · rfl
  · show 0 = word.toNat % 2
    omega

theorem Encoding.fmcast (d : BitVec 16) : Encoding.Statement (.fmcast d) := by
  intro _ e he
  cases he
  have bd := d.isLt
  refine ⟨by show 0x04 < 255; decide, by show pack [(d.toNat, 3)] < 2 ^ 19; simp only [pack]; omega, fun word hbody => ?_⟩
  simp only [pack] at hbody
  have gd : fld word 3 16 = d := fld_eq _ _ _ (by omega)
  refine ⟨?_, ?_, ?_⟩
  · show some (Instr.fmcast (fld word 3 16) : Instr) = some (Instr.fmcast d)
    rw [gd]
  · rfl
  · show 0 = word.toNat % 2
    omega

theorem Encoding.fred (d : BitVec 16) : Encoding.Statement (.fred d) := by
  intro _ e he
  cases he
  have bd := d.isLt
  refine ⟨by show 0x05 < 255; decide, by show pack [(d.toNat, 3)] < 2 ^ 19; simp only [pack]; omega, fun word hbody => ?_⟩
  simp only [pack] at hbody
  have gd : fld word 3 16 = d := fld_eq _ _ _ (by omega)
  refine ⟨?_, ?_, ?_⟩
  · show some (Instr.fred (fld word 3 16) : Instr) = some (Instr.fred d)
    rw [gd]
  · rfl
  · show 0 = word.toNat % 2
    omega

theorem Encoding.gload (d : BitVec 16) : Encoding.Statement (.gload d) := by
  intro _ e he
  cases he
  have bd := d.isLt
  refine ⟨by show 0x06 < 255; decide, by show pack [(d.toNat, 3)] < 2 ^ 19; simp only [pack]; omega, fun word hbody => ?_⟩
  simp only [pack] at hbody
  have gd : fld word 3 16 = d := fld_eq _ _ _ (by omega)
  refine ⟨?_, ?_, ?_⟩
  · show some (Instr.gload (fld word 3 16) : Instr) = some (Instr.gload d)
    rw [gd]
  · rfl
  · show 0 = word.toNat % 2
    omega

theorem Encoding.grun (d : BitVec 16) : Encoding.Statement (.grun d) := by
  intro _ e he
  cases he
  have bd := d.isLt
  refine ⟨by show 0x07 < 255; decide, by show pack [(d.toNat, 3)] < 2 ^ 19; simp only [pack]; omega, fun word hbody => ?_⟩
  simp only [pack] at hbody
  have gd : fld word 3 16 = d := fld_eq _ _ _ (by omega)
  refine ⟨?_, ?_, ?_⟩
  · show some (Instr.grun (fld word 3 16) : Instr) = some (Instr.grun d)
    rw [gd]
  · rfl
  · show 0 = word.toNat % 2
    omega

theorem Encoding.gpatch (d : BitVec 16) : Encoding.Statement (.gpatch d) := by
  intro _ e he
  cases he
  have bd := d.isLt
  refine ⟨by show 0x08 < 255; decide, by show pack [(d.toNat, 3)] < 2 ^ 19; simp only [pack]; omega, fun word hbody => ?_⟩
  simp only [pack] at hbody
  have gd : fld word 3 16 = d := fld_eq _ _ _ (by omega)
  refine ⟨?_, ?_, ?_⟩
  · show some (Instr.gpatch (fld word 3 16) : Instr) = some (Instr.gpatch d)
    rw [gd]
  · rfl
  · show 0 = word.toNat % 2
    omega

theorem Encoding.gstat (h : BitVec 6) (d : BitVec 4) : Encoding.Statement (.gstat h d) := by
  intro _ e he
  cases he
  have bh := h.isLt
  have bd := d.isLt
  refine ⟨by show 0x09 < 255; decide, by show pack [(h.toNat, 10), (d.toNat, 1)] < 2 ^ 19; simp only [pack]; omega, fun word hbody => ?_⟩
  simp only [pack] at hbody
  have gh : fld word 10 6 = h := fld_eq _ _ _ (by omega)
  have gd : fld word 1 4 = d := fld_eq _ _ _ (by omega)
  refine ⟨?_, ?_, ?_⟩
  · show some (Instr.gstat (fld word 10 6) (fld word 1 4) : Instr) = some (Instr.gstat h d)
    rw [gh, gd]
  · rfl
  · show 0 = word.toNat % 2
    omega

theorem Encoding.gabort (h : BitVec 6) : Encoding.Statement (.gabort h) := by
  intro _ e he
  cases he
  have bh := h.isLt
  refine ⟨by show 0x0A < 255; decide, by show pack [(h.toNat, 10)] < 2 ^ 19; simp only [pack]; omega, fun word hbody => ?_⟩
  simp only [pack] at hbody
  have gh : fld word 10 6 = h := fld_eq _ _ _ (by omega)
  refine ⟨?_, ?_, ?_⟩
  · show some (Instr.gabort (fld word 10 6) : Instr) = some (Instr.gabort h)
    rw [gh]
  · rfl
  · show 0 = word.toNat % 2
    omega

theorem Encoding.fbar (h : BitVec 6) (m : BitVec 6) : Encoding.Statement (.fbar h m) := by
  intro _ e he
  cases he
  have bh := h.isLt
  have bm := m.isLt
  refine ⟨by show 0x0B < 255; decide, by show pack [(h.toNat, 10), (m.toNat, 1)] < 2 ^ 19; simp only [pack]; omega, fun word hbody => ?_⟩
  simp only [pack] at hbody
  have gh : fld word 10 6 = h := fld_eq _ _ _ (by omega)
  have gm : fld word 1 6 = m := fld_eq _ _ _ (by omega)
  refine ⟨?_, ?_, ?_⟩
  · show some (Instr.fbar (fld word 10 6) (fld word 1 6) : Instr) = some (Instr.fbar h m)
    rw [gh, gm]
  · rfl
  · show 0 = word.toNat % 2
    omega

theorem Encoding.ringcfg (k : BitVec 3) (f : BitVec 9) (v : BitVec 32) : Encoding.Statement (.ringcfg k f v) := by
  intro _ e he
  cases he
  have bk := k.isLt
  have bf := f.isLt
  have bv := v.isLt
  refine ⟨by show 0x0C < 255; decide, by show pack [(k.toNat, 16), (f.toNat, 1), (1, 0)] < 2 ^ 19; simp only [pack]; omega, fun word hbody => ?_⟩
  simp only [pack] at hbody
  have gk : fld word 16 3 = k := fld_eq _ _ _ (by omega)
  have gf : fld word 1 9 = f := fld_eq _ _ _ (by omega)
  refine ⟨?_, ?_, ?_⟩
  · show some (Instr.ringcfg (fld word 16 3) (fld word 1 9) (v) : Instr) = some (Instr.ringcfg k f v)
    rw [gk, gf]
  · rfl
  · show 1 = word.toNat % 2
    omega

theorem Encoding.ringbyp (k : BitVec 3) (s : BitVec 1) (f : BitVec 9) : Encoding.Statement (.ringbyp k s f) := by
  intro _ e he
  cases he
  have bk := k.isLt
  have bs := s.isLt
  have bf := f.isLt
  refine ⟨by show 0x0D < 255; decide, by show pack [(k.toNat, 16), (s.toNat, 10), (f.toNat, 1)] < 2 ^ 19; simp only [pack]; omega, fun word hbody => ?_⟩
  simp only [pack] at hbody
  have gk : fld word 16 3 = k := fld_eq _ _ _ (by omega)
  have gs : fld word 10 1 = s := fld_eq _ _ _ (by omega)
  have gf : fld word 1 9 = f := fld_eq _ _ _ (by omega)
  refine ⟨?_, ?_, ?_⟩
  · show some (Instr.ringbyp (fld word 16 3) (fld word 10 1) (fld word 1 9) : Instr) = some (Instr.ringbyp k s f)
    rw [gk, gs, gf]
  · rfl
  · show 0 = word.toNat % 2
    omega

theorem Encoding.ringinj (d : BitVec 16) : Encoding.Statement (.ringinj d) := by
  intro _ e he
  cases he
  have bd := d.isLt
  refine ⟨by show 0x0E < 255; decide, by show pack [(d.toNat, 3)] < 2 ^ 19; simp only [pack]; omega, fun word hbody => ?_⟩
  simp only [pack] at hbody
  have gd : fld word 3 16 = d := fld_eq _ _ _ (by omega)
  refine ⟨?_, ?_, ?_⟩
  · show some (Instr.ringinj (fld word 3 16) : Instr) = some (Instr.ringinj d)
    rw [gd]
  · rfl
  · show 0 = word.toNat % 2
    omega

theorem Encoding.fsync (k : BitVec 3) (m : BitVec 9) : Encoding.Statement (.fsync k m) := by
  intro _ e he
  cases he
  have bk := k.isLt
  have bm := m.isLt
  refine ⟨by show 0x0F < 255; decide, by show pack [(k.toNat, 16), (m.toNat, 1)] < 2 ^ 19; simp only [pack]; omega, fun word hbody => ?_⟩
  simp only [pack] at hbody
  have gk : fld word 16 3 = k := fld_eq _ _ _ (by omega)
  have gm : fld word 1 9 = m := fld_eq _ _ _ (by omega)
  refine ⟨?_, ?_, ?_⟩
  · show some (Instr.fsync (fld word 16 3) (fld word 1 9) : Instr) = some (Instr.fsync k m)
    rw [gk, gm]
  · rfl
  · show 0 = word.toNat % 2
    omega

theorem Encoding.repeatIteration (k : Stn) (e : Engine) : Encoding.Statement (.repeatIteration k e) :=
  fun _ _ h => by simp [Instr.encoding] at h

theorem Encoding.arrayOperationComplete (k : Stn) : Encoding.Statement (.arrayOperationComplete k) :=
  fun _ _ h => by simp [Instr.encoding] at h

theorem Encoding.mapTableLatch (k : Stn) (slot : Nat) : Encoding.Statement (.mapTableLatch k slot) :=
  fun _ _ h => by simp [Instr.encoding] at h

theorem Encoding.mapInstall (k : Stn) (slot : Nat) : Encoding.Statement (.mapInstall k slot) :=
  fun _ _ h => by simp [Instr.encoding] at h

theorem Encoding.fetchLine (k : Stn) : Encoding.Statement (.fetchLine k) :=
  fun _ _ h => by simp [Instr.encoding] at h

theorem Encoding.issueGroup (k : Stn) : Encoding.Statement (.issueGroup k) :=
  fun _ _ h => by simp [Instr.encoding] at h

theorem Encoding.scalarResultWrite (k : Stn) : Encoding.Statement (.scalarResultWrite k) :=
  fun _ _ h => by simp [Instr.encoding] at h

theorem Encoding.vectorResultWrite (k : Stn) : Encoding.Statement (.vectorResultWrite k) :=
  fun _ _ h => by simp [Instr.encoding] at h

theorem Encoding.timedAccessPerform (id : Nat) : Encoding.Statement (.timedAccessPerform id) :=
  fun _ _ h => by simp [Instr.encoding] at h

theorem Encoding.timedReplyDeliver (id : Nat) : Encoding.Statement (.timedReplyDeliver id) :=
  fun _ _ h => by simp [Instr.encoding] at h

theorem Encoding.timedStackRequest (id : Nat) : Encoding.Statement (.timedStackRequest id) :=
  fun _ _ h => by simp [Instr.encoding] at h

theorem Encoding.untimedPartPerform (id : Nat) (part : Nat) : Encoding.Statement (.untimedPartPerform id part) :=
  fun _ _ h => by simp [Instr.encoding] at h

theorem Encoding.bayReplyLand (k : Stn) (bay : Nat) (r : BayReply) : Encoding.Statement (.bayReplyLand k bay r) :=
  fun _ _ h => by simp [Instr.encoding] at h

theorem Encoding.copyTimedPiece (k : Stn) (ch : Nat) : Encoding.Statement (.copyTimedPiece k ch) :=
  fun _ _ h => by simp [Instr.encoding] at h

theorem Encoding.fifoLineAppend (k : Stn) (ch : Nat) : Encoding.Statement (.fifoLineAppend k ch) :=
  fun _ _ h => by simp [Instr.encoding] at h

theorem Encoding.slackRead (k : Stn) : Encoding.Statement (.slackRead k) :=
  fun _ _ h => by simp [Instr.encoding] at h

theorem Encoding.btChainRecord (ch : Nat) : Encoding.Statement (.btChainRecord ch) :=
  fun _ _ h => by simp [Instr.encoding] at h

theorem Encoding.btHandBack (ch : Nat) : Encoding.Statement (.btHandBack ch) :=
  fun _ _ h => by simp [Instr.encoding] at h

theorem Encoding.transportHeadRead (line : Nat) : Encoding.Statement (.transportHeadRead line) :=
  fun _ _ h => by simp [Instr.encoding] at h

theorem Encoding.tailWrite (line : Nat) : Encoding.Statement (.tailWrite line) :=
  fun _ _ h => by simp [Instr.encoding] at h

theorem Encoding.segmentCrcVerdict (line : Nat) (frame : Nat) : Encoding.Statement (.segmentCrcVerdict line frame) :=
  fun _ _ h => by simp [Instr.encoding] at h

theorem Encoding.linkLost (line : Nat) : Encoding.Statement (.linkLost line) :=
  fun _ _ h => by simp [Instr.encoding] at h

theorem Encoding.ringStateTransition (kind : Nat) (qm : Nat) (lnk : Nat) (trim : Nat) (toff : Option Nat) : Encoding.Statement (.ringStateTransition kind qm lnk trim toff) :=
  fun _ _ h => by simp [Instr.encoding] at h

theorem Encoding.ringConfigEffective : Encoding.Statement .ringConfigEffective :=
  fun _ _ h => by simp [Instr.encoding] at h

theorem Encoding.ringInjectionStaged (entry : Nat) (data : List Byte) : Encoding.Statement (.ringInjectionStaged entry data) :=
  fun _ _ h => by simp [Instr.encoding] at h

theorem Encoding.coachmanFrame (cl : Nat) : Encoding.Statement (.coachmanFrame cl) :=
  fun _ _ h => by simp [Instr.encoding] at h

theorem Encoding.coachmanTableUpdate (cl : Nat) : Encoding.Statement (.coachmanTableUpdate cl) :=
  fun _ _ h => by simp [Instr.encoding] at h

theorem Encoding.coachmanPresent (k : Stn) : Encoding.Statement (.coachmanPresent k) :=
  fun _ _ h => by simp [Instr.encoding] at h

theorem Encoding.timetableSlipCheck (k : Stn) : Encoding.Statement (.timetableSlipCheck k) :=
  fun _ _ h => by simp [Instr.encoding] at h

theorem Encoding.teamSlipTrap (k : Stn) : Encoding.Statement (.teamSlipTrap k) :=
  fun _ _ h => by simp [Instr.encoding] at h

theorem Encoding.barrierPhaseComplete (tag : Nat) : Encoding.Statement (.barrierPhaseComplete tag) :=
  fun _ _ h => by simp [Instr.encoding] at h

theorem Encoding.budgetExpiry (k : Stn) : Encoding.Statement (.budgetExpiry k) :=
  fun _ _ h => by simp [Instr.encoding] at h

theorem Encoding.checkpoint (k : Stn) : Encoding.Statement (.checkpoint k) :=
  fun _ _ h => by simp [Instr.encoding] at h

theorem Encoding.preemptHalt (k : Stn) : Encoding.Statement (.preemptHalt k) :=
  fun _ _ h => by simp [Instr.encoding] at h

theorem Encoding.saveImage (k : Stn) : Encoding.Statement (.saveImage k) :=
  fun _ _ h => by simp [Instr.encoding] at h

theorem Encoding.redirectedReply (ctx : Nat) (k : Stn) (bay : Nat) (r : BayReply) : Encoding.Statement (.redirectedReply ctx k bay r) :=
  fun _ _ h => by simp [Instr.encoding] at h

theorem Encoding.restoreLoad (k : Stn) : Encoding.Statement (.restoreLoad k) :=
  fun _ _ h => by simp [Instr.encoding] at h

theorem Encoding.teamResume (p : Nat) (team : Nat) : Encoding.Statement (.teamResume p team) :=
  fun _ _ h => by simp [Instr.encoding] at h

theorem Encoding.recoveryPointSave (k : Stn) : Encoding.Statement (.recoveryPointSave k) :=
  fun _ _ h => by simp [Instr.encoding] at h

theorem Encoding.recoveryPointCommit (p : Nat) (team : Nat) : Encoding.Statement (.recoveryPointCommit p team) :=
  fun _ _ h => by simp [Instr.encoding] at h

theorem Encoding.rollbackRestore (p : Nat) (team : Nat) : Encoding.Statement (.rollbackRestore p team) :=
  fun _ _ h => by simp [Instr.encoding] at h

theorem Encoding.trapEntry (k : Stn) : Encoding.Statement (.trapEntry k) :=
  fun _ _ h => by simp [Instr.encoding] at h

theorem Encoding.sigFire (k : Stn) : Encoding.Statement (.sigFire k) :=
  fun _ _ h => by simp [Instr.encoding] at h

theorem Encoding.sigFlagStore (k : Stn) : Encoding.Statement (.sigFlagStore k) :=
  fun _ _ h => by simp [Instr.encoding] at h

theorem Encoding.fabricCommandAccept : Encoding.Statement .fabricCommandAccept :=
  fun _ _ h => by simp [Instr.encoding] at h

theorem Encoding.fabricWriteBack (id : Nat) : Encoding.Statement (.fabricWriteBack id) :=
  fun _ _ h => by simp [Instr.encoding] at h

theorem Encoding.fabricResend (idx : Nat) : Encoding.Statement (.fabricResend idx) :=
  fun _ _ h => by simp [Instr.encoding] at h

theorem Encoding.fabricTimeout (idx : Nat) : Encoding.Statement (.fabricTimeout idx) :=
  fun _ _ h => by simp [Instr.encoding] at h

theorem Encoding.graphBarrierArrival (rank : Nat) (group : Nat) (phase : Nat) : Encoding.Statement (.graphBarrierArrival rank group phase) :=
  fun _ _ h => by simp [Instr.encoding] at h

theorem Encoding.graphSignal (group : Nat) (op : Nat) : Encoding.Statement (.graphSignal group op) :=
  fun _ _ h => by simp [Instr.encoding] at h

theorem Encoding.graphReplayStart (slot : Nat) : Encoding.Statement (.graphReplayStart slot) :=
  fun _ _ h => by simp [Instr.encoding] at h

theorem Encoding.graphOperationStart (slot : Nat) (op : Nat) : Encoding.Statement (.graphOperationStart slot op) :=
  fun _ _ h => by simp [Instr.encoding] at h

theorem Encoding.graphOperationFinish (slot : Nat) (op : Nat) : Encoding.Statement (.graphOperationFinish slot op) :=
  fun _ _ h => by simp [Instr.encoding] at h

theorem Encoding.graphReplayEnd (slot : Nat) : Encoding.Statement (.graphReplayEnd slot) :=
  fun _ _ h => by simp [Instr.encoding] at h

theorem Encoding.graphStallTimeout (slot : Nat) : Encoding.Statement (.graphStallTimeout slot) :=
  fun _ _ h => by simp [Instr.encoding] at h

theorem Encoding.migrationEpochStart : Encoding.Statement .migrationEpochStart :=
  fun _ _ h => by simp [Instr.encoding] at h

theorem Encoding.migrationMove (role : Nat) (p : Nat) (obj : Nat) (page : Nat) (node : Nat) (dobj : Nat) (dpage : Nat) (data : List Byte) : Encoding.Statement (.migrationMove role p obj page node dobj dpage data) :=
  fun _ _ h => by simp [Instr.encoding] at h

theorem Encoding.hostMailboxPost (mb : Nat) (aligned : Bool) (data : List Byte) : Encoding.Statement (.hostMailboxPost mb aligned data) :=
  fun _ _ h => by simp [Instr.encoding] at h

theorem Encoding.telemetrySample (p : Nat) : Encoding.Statement (.telemetrySample p) :=
  fun _ _ h => by simp [Instr.encoding] at h

theorem Encoding.pinFillComplete (k : Stn) : Encoding.Statement (.pinFillComplete k) :=
  fun _ _ h => by simp [Instr.encoding] at h

theorem Encoding.otinvComplete (p : Nat) : Encoding.Statement (.otinvComplete p) :=
  fun _ _ h => by simp [Instr.encoding] at h

theorem Encoding.partitionStart (p : Nat) (cfg : PartCfg) : Encoding.Statement (.partitionStart p cfg) :=
  fun _ _ h => by simp [Instr.encoding] at h

theorem Encoding.ringBringUp (cfg : RingCfg) : Encoding.Statement (.ringBringUp cfg) :=
  fun _ _ h => by simp [Instr.encoding] at h

theorem Encoding.ringBeatArrival (line : Nat) (beat : Beat) (good : Bool) : Encoding.Statement (.ringBeatArrival line beat good) :=
  fun _ _ h => by simp [Instr.encoding] at h

theorem Encoding.fabricRequestArrival (pkt : Packet) : Encoding.Statement (.fabricRequestArrival pkt) :=
  fun _ _ h => by simp [Instr.encoding] at h

theorem Encoding.fabricReplyArrival (pkt : Packet) : Encoding.Statement (.fabricReplyArrival pkt) :=
  fun _ _ h => by simp [Instr.encoding] at h

theorem Encoding.planeDown (plane : Nat) : Encoding.Statement (.planeDown plane) :=
  fun _ _ h => by simp [Instr.encoding] at h

theorem Encoding.hostWindowAccess (a : HostAccess) : Encoding.Statement (.hostWindowAccess a) :=
  fun _ _ h => by simp [Instr.encoding] at h

theorem Encoding.hostAtomic (a : HostAtomic) : Encoding.Statement (.hostAtomic a) :=
  fun _ _ h => by simp [Instr.encoding] at h

theorem Encoding.hostPostWindowRead (mb : Nat) : Encoding.Statement (.hostPostWindowRead mb) :=
  fun _ _ h => by simp [Instr.encoding] at h

theorem Encoding.thermalThreshold (temp : Nat) : Encoding.Statement (.thermalThreshold temp) :=
  fun _ _ h => by simp [Instr.encoding] at h

theorem Encoding.attestationRequest (nonce : List Byte) (parts : List Nat) : Encoding.Statement (.attestationRequest nonce parts) :=
  fun _ _ h => by simp [Instr.encoding] at h

theorem Encoding.pinFill (k : Stn) (v : Nat) : Encoding.Statement (.pinFill k v) :=
  fun _ _ h => by simp [Instr.encoding] at h

theorem Encoding.otinv (k : Stn) (v : DWord) : Encoding.Statement (.otinv k v) :=
  fun _ _ h => by simp [Instr.encoding] at h

theorem Encoding.btheadWrite (ch : Nat) (bits : BitVec 128) (tag : Bool) : Encoding.Statement (.btheadWrite ch bits tag) :=
  fun _ _ h => by simp [Instr.encoding] at h

theorem Encoding.pkretry (p : Nat) : Encoding.Statement (.pkretry p) :=
  fun _ _ h => by simp [Instr.encoding] at h

theorem Encoding.cfstResume (k : Stn) (ch : Nat) : Encoding.Statement (.cfstResume k ch) :=
  fun _ _ h => by simp [Instr.encoding] at h

theorem Encoding.ssstatWrite (k : Stn) (u : Nat) (v : DWord) : Encoding.Statement (.ssstatWrite k u v) :=
  fun _ _ h => by simp [Instr.encoding] at h

theorem Encoding.sscfgWrite (k : Stn) (u : Nat) (v : DWord) : Encoding.Statement (.sscfgWrite k u v) :=
  fun _ _ h => by simp [Instr.encoding] at h

theorem Encoding.migfreePush (p : Nat) (v : DWord) : Encoding.Statement (.migfreePush p v) :=
  fun _ _ h => by simp [Instr.encoding] at h

theorem Encoding.mbcfgWrite (k : Stn) (v : DWord) : Encoding.Statement (.mbcfgWrite k v) :=
  fun _ _ h => by simp [Instr.encoding] at h

theorem Encoding.tdqWrite (k : Stn) (v : DWord) : Encoding.Statement (.tdqWrite k v) :=
  fun _ _ h => by simp [Instr.encoding] at h

theorem Encoding.tskcurWrite (k : Stn) (v : DWord) : Encoding.Statement (.tskcurWrite k v) :=
  fun _ _ h => by simp [Instr.encoding] at h

theorem Encoding.hcfgWrite (k : Stn) (v : DWord) : Encoding.Statement (.hcfgWrite k v) :=
  fun _ _ h => by simp [Instr.encoding] at h

theorem Encoding.prereq (k : Stn) (v : DWord) : Encoding.Statement (.prereq k v) :=
  fun _ _ h => by simp [Instr.encoding] at h

theorem Encoding.prrst (k : Stn) (v : DWord) : Encoding.Statement (.prrst k v) :=
  fun _ _ h => by simp [Instr.encoding] at h

theorem Encoding.rbreq (k : Stn) (v : DWord) : Encoding.Statement (.rbreq k v) :=
  fun _ _ h => by simp [Instr.encoding] at h

theorem Encoding.hostSnoop (addr : Nat) : Encoding.Statement (.hostSnoop addr) :=
  fun _ _ h => by simp [Instr.encoding] at h

theorem Encoding.hostCompletion (c : HostCompletion) : Encoding.Statement (.hostCompletion c) :=
  fun _ _ h => by simp [Instr.encoding] at h

theorem Encoding.fabricBringUp (node : Nat) : Encoding.Statement (.fabricBringUp node) :=
  fun _ _ h => by simp [Instr.encoding] at h

theorem Encoding.unitFencing (kind : Nat) (unit : Nat) : Encoding.Statement (.unitFencing kind unit) :=
  fun _ _ h => by simp [Instr.encoding] at h

theorem Encoding.partitionEnd (p : Nat) : Encoding.Statement (.partitionEnd p) :=
  fun _ _ h => by simp [Instr.encoding] at h

end Sys2Proof.Laws
end

