-- ==== Sys2Proof/Laws/Units.lean ====
section
/-!
SUPPORT. What the operations of the memory ports and of the units that work line by line can do, said once: corrections of errors in a
read, the read of the tables, a line access of a unit, and the write of a leaf entry. Each keeps memory in its canonical form.
-/

namespace Sys2Proof.Machine

/-! ### Corrections -/

/-- A read of words without errors changes nothing (R386). -/
theorem State.correctWords_quiet {s : State} {k : Stn} {p port key n : Nat} (h : s.mem.softIn key n = false) : s.correctWords k p port key n = s :=
  if_neg (by simp [h])

/-- A read changes of memory only which words hold an error (R386). -/
theorem State.correctWords_mem (s : State) (k : Stn) (p port key n : Nat) :
    (s.correctWords k p port key n).mem = s.mem ∨ (s.correctWords k p port key n).mem = s.mem.scrub key n := by
  unfold State.correctWords
  split
  · refine .inr ?_
    exact foldl_keep State.mem (fun (t : State) (w : Nat) =>
      (t.countCorrected k).telemetry p port t.cyc (telWord 7 1 port 0x7F 0 0) (8 * w % 2 ^ 34) t.nodeId) (fun _ _ => rfl) _ _
  · exact .inl rfl

@[simp] theorem State.correctWords_byteAt (s : State) (k : Stn) (p port key n a : Nat) : (s.correctWords k p port key n).byteAt a = s.byteAt a := by
  unfold State.byteAt
  rcases s.correctWords_mem k p port key n with h | h <;> rw [h]
  rfl

theorem State.wf_correctWords {s : State} (k : Stn) (p port key n : Nat) (h : s.Inv) : (s.correctWords k p port key n).Inv := by
  unfold State.Inv
  rcases s.correctWords_mem k p port key n with e | e <;> rw [e]
  · exact h
  · exact Memory.wf_scrub _ _ h

/-- A memory without errors has none among the words of a read. -/
theorem Memory.softIn_nil {m : Memory} (h : m.soft = []) (key n : Nat) : m.softIn key n = false := by rw [Memory.softIn, h]; rfl

/-- A walk of tables without errors corrects nothing (R35, R386). -/
theorem State.correctTables_quiet {s : State} (h : s.mem.soft = []) (port p obj o : Nat) : s.correctTables port p obj o = s := by
  unfold State.correctTables
  generalize s.tableReads p obj o = l
  induction l with
  | nil => rfl
  | cons x r ih =>
    have : s.correctFor port p (stackKey (x.1 % 2 ^ 34)) x.2 = s := State.correctWords_quiet (Memory.softIn_nil h _ _)
    rw [List.foldl_cons]
    simpa only [this] using ih

/-! ### Line accesses of units -/

@[simp] theorem State.serve_mem (s : State) (ph : Phys) : (s.serve ph).mem = s.mem := by unfold State.serve; split <;> rfl
@[simp] theorem State.serve_stns (s : State) (ph : Phys) : (s.serve ph).stns = s.stns := by unfold State.serve; split <;> rfl
@[simp] theorem State.serve_pkg (s : State) (ph : Phys) : (s.serve ph).pkg = s.pkg := by unfold State.serve; split <;> rfl

/-- A line access that is still left is made where its place is free for it in this cycle, and waits otherwise (R48, R56, R59). -/
theorem State.runJob_cases (s : State) (id : Nat) : s.runJob id = s ∨
    ∃ j, s.pkg.jobs.find? (·.id == id) = some j ∧ s.placeTaken j.ph = false ∧ s.jobReady j = true ∧ s.runJob id = s.doJob j := by
  unfold State.runJob
  cases e : s.pkg.jobs.find? (·.id == id) with
  | none => exact .inl rfl
  | some j =>
    by_cases r : s.jobReady j = true
    · refine .inr ⟨j, rfl, ?_, r, if_pos r⟩
      simp only [State.jobReady, Bool.and_eq_true] at r
      simpa using r.1.1
    · exact .inl (if_neg r)

/-- The line accesses of an owner that are dropped are none of another's. -/
theorem State.jobsDone_dropJobs (s : State) (o : JobOwner) : (s.dropJobs o).jobsDone o = true := by
  simp [State.jobsDone, State.dropJobs]

/-- Line accesses are left to be made, and nothing else changes but the count of accesses (R48). -/
theorem State.addJobs_frame (s : State) (o : JobOwner) (port part : Nat) (l : List (Phys × Nat × JobUse)) :
    s.addJobs o port part l = { s with
      nextId := s.nextId + l.length
      pkg := { s.pkg with jobs := (s.addJobs o port part l).pkg.jobs } } := rfl

/-! ### Leaf entries -/

/-- A leaf entry is written while its channel is free, with what goes with it, and otherwise nothing happens yet (R56). -/
theorem State.putLeaf_cases (s : State) (a e : Nat) (f : State → State) :
    (s.placeTaken (.stack a) = true ∧ s.putLeaf a e f = s) ∨
      (s.placeTaken (.stack a) = false ∧ s.putLeaf a e f = f ((s.poke (stackKey (a % 2 ^ 34)) (leBytes 16 e)).serve (.stack a))) := by
  unfold State.putLeaf
  by_cases h : s.placeTaken (.stack a) = true
  · exact .inl ⟨h, if_pos h⟩
  · exact .inr ⟨by simpa using h, if_neg h⟩

theorem State.wf_putLeaf {s : State} (a e : Nat) {f : State → State} (g : ∀ t : State, t.Inv → (f t).Inv) (h : s.Inv) : (s.putLeaf a e f).Inv := by
  rcases s.putLeaf_cases a e f with ⟨-, c⟩ | ⟨-, c⟩ <;> rw [c]
  · exact h
  · refine g _ ?_
    unfold State.Inv
    rw [State.serve_mem]
    exact s.wf_poke _ _ h

end Sys2Proof.Machine
end

