-- ==== Sys2Proof/Tests/Slice0.lean ====
section
/-!
SUPPORT. Tests: ill-formed terms that the check refuses, words written out from the encoding tables, and for each statement with
hypotheses a state and operands that meet them. The states are the reset machine with a few fields set.
-/

namespace Sys2Proof.Tests

open Sys2Proof Sys2Proof.Machine

/-! ### States -/

/-- Scalars set by number. -/
def sregs (l : List (Nat × DWord)) (x : Station) : Station :=
  { x with regs := { x.regs with s := l.foldl (fun v p => v.setIfInBounds p.1 p.2) x.regs.s } }

/-- Capability registers set by number. -/
def cregs (l : List (Nat × Cap)) (x : Station) : Station :=
  { x with regs := { x.regs with c := l.foldl (fun v p => v.setIfInBounds p.1 p.2) x.regs.c } }

/-- One pinned page: entry, object, bank or stack, frame, format, geometry, atomic place. -/
def pinAt (i obj : Nat) (bank : Bool) (frame fmt geom aplace : Nat) (x : Station) : Station :=
  { x with pins := x.pins.setIfInBounds i (some ⟨obj, 0, 1, bank, frame, 0, [(fmt, geom, aplace, true)]⟩) }

/-- A bay set by number. -/
def bayAt (i : Nat) (b : Bay) (x : Station) : Station := { x with regs := { x.regs with bays := x.regs.bays.setIfInBounds i b } }

/-- Changes of the running block's fields. -/
def runs (f : Run → Run) (x : Station) : Station := { x with run := f x.run }

/-- A station with operands for most statements: s1 = 8, s2 = -1, s3 = -2^63, s4 = 511, s5 = 512, s6 = 2^40, s7 = 131072, s8 = 4096; c1 a raw
page of the own bank, c2 sealed, c3 untagged, c4 the null object, c5 of another node, c6 without rights, c7 of one byte, c8 not
pinned, c9 a block-format page, c10 a stack page, c11 a bank page with its atomics elsewhere, c12 a page of the bank of station 1,
c13 misplaced by one byte. -/
def bench (x : Station) : Station :=
  runs (fun r => { r with on := true }) <| bayAt 15 ⟨0, .pending, false⟩ <|
  pinAt 0 1 true 0 0 0 0 <| pinAt 1 3 true 1 1 0 0 <| pinAt 2 4 false 2 0 0 0 <| pinAt 3 5 true 3 0 0 1 <| pinAt 4 6 true 16 0 0 0 <|
  cregs [(1, Cap.make 0 1 0x7F 65536 0 true), (2, Cap.make 0 1 0xFF 65536 0 true), (3, Cap.make 0 1 0x7F 65536 0 false),
    (4, Cap.make 0 0 0x7F 65536 0 true), (5, Cap.make 5 1 0x7F 65536 0 true), (6, Cap.make 0 1 0 65536 0 true),
    (7, Cap.make 0 1 0x7F 1 0 true), (8, Cap.make 0 2 0x7F 65536 0 true), (9, Cap.make 0 3 0x7F 65536 0 true),
    (10, Cap.make 0 4 0x7F 65536 0 true), (11, Cap.make 0 5 0x7F 65536 0 true), (12, Cap.make 0 6 0x5F 65536 0 true),
    (13, Cap.make 0 1 0x7F 65536 1 true)] <|
  sregs [(1, 8), (2, BitVec.allOnes 64), (3, 0x8000_0000_0000_0000#64), (4, 511), (5, 512), (6, 0x100_0000_0000#64), (7, 131072),
    (8, 4096)] x

/-- The reset machine with its first station on the bench. -/
def lab : State := State.reset.onHere bench

/-- The same with one more change of that station. -/
def labWith (f : Station → Station) : State := State.reset.onHere fun x => f (bench x)

/-- A bank page of the bench in one line. -/
def segOf (k : Stn) (base po fmt n : Nat) : Seg := ⟨⟨some k, base, po, fmt, 0, 0, true⟩, n⟩

/-- A check that passes with an offset. -/
def gives (r : Except Nat Nat) (o : Nat) : Bool := match r with
  | .ok m => m == o
  | .error _ => false

/-- A check that fails with a subcode. -/
def fails (r : Except Nat Nat) (x : Nat) : Bool := match r with
  | .ok _ => false
  | .error y => y == x

theorem gives_ok {r : Except Nat Nat} {o : Nat} (h : gives r o = true) : r = .ok o := by
  cases r <;> simp_all [gives]

/-- A line with two bits set, for a mask of stations. -/
def labMask (m : Nat) : Line := BitVec.ofNat 2048 m

/-! ### Conductor -/

theorem witness_conductor_results : lab.rs 1 ≠ 0 ∧ ¬((lab.rs 3).toInt = -2 ^ 63 ∧ (lab.rs 1).toInt = -1) := by decide +kernel

theorem witness_division_borderline : lab.rs 0 = 0 ∧ (lab.rs 3).toInt = -2 ^ 63 ∧ (lab.rs 2).toInt = -1 := by decide +kernel

/-- Targets 0 and 511, and the indices beside them. -/
theorem witness_branches :
    (lab.pcRel : Int) + (0 : BitVec 9).toInt = 0 ∧ lab.rs 0 = lab.rs 9 ∧ lab.rs 1 ≠ lab.rs 0 ∧
      (lab.pcRel : Int) + (511 : BitVec 9).toInt < 0 ∧
      (({ lab with cur := ⟨0, .conductor, 0, 511, 1, none⟩ }.pcRel : Int) + (0 : BitVec 9).toInt = 511) ∧
      511 < ({ lab with cur := ⟨0, .conductor, 0, 511, 1, none⟩ }.pcRel : Int) + (1 : BitVec 9).toInt ∧
      (lab.rs 4).toNat = 511 ∧ (lab.rs 5).toNat = 512 := by decide +kernel

/-- A loop of the conductor at its own index, a stream code of 8, a reserved bit, an end below the start, and a break. -/
theorem witness_loops :
    let v := fun w : DWord => (labWith (sregs [(9, w)])).rs 9
    (v 0).toNat / 2 ^ 45 = 0 ∧ (v 0).toNat / 2 ^ 32 % 16 ≤ 1 ∧ lab.cur.pc - lab.here.run.lo + lab.cur.len ≤ (1 : BitVec 9).toNat ∧
      Engine.ofCode (max 0 1) = some .conductor ∧ 7 < (v 0x8_0000_0000).toNat / 2 ^ 32 % 16 ∧ (v 0x2000_0000_0000).toNat / 2 ^ 45 ≠ 0 ∧
      (0 : BitVec 9).toNat < 1 ∧ lab.rs 1 ≠ 0 ∧ (1 : BitVec 5) ≠ 0 ∧ (9 : BitVec 5) ≠ 0 ∧ lab.rs 9 = 0 ∧
      (⟨0, 5, 3, false⟩ : Loop).en = (⟨2, 5, 1, false⟩ : Loop).en ∧ (1 < (⟨0, 5, 3, false⟩ : Loop).ct) := by decide +kernel

/-- A fetched block that is whole, with the others exhausted and no predecessor. -/
def fetched (f : Fetch) : State := { labWith (runs fun r => { r with fetch := some f }) with cyc := 100 }

theorem witness_block_change :
    let f : Fetch := ⟨5, 0, 0, 1, false, 1, [], 0, false⟩
    lab.stay = false ∧ lab.jump = none ∧ lab.blockOk 0 0 = false ∧ (fetched f).here.run.fetch = some f ∧ f.block = (5 : BitVec 16).toNat ∧
      f.fault = false ∧ f.whole (fetched f).cyc = true ∧ (fetched f).othersBusy 0 = false ∧ bitOf (fetched f).here.sys.tskcur 63 = false ∧
      f.block ≠ (6 : BitVec 16).toNat ∧ lab.here.run.fetch = none ∧ (⟨5, 0, 0, 1, false, 0, [], 0, true⟩ : Fetch).fault = true ∧
      (⟨5, 0, 0, 1, false, 0, [], 0, false⟩ : Fetch).whole 100 = false := by decide +kernel

/-- An entry of the block table with one line; a stream with words to run; a predecessor that has not finished. -/
theorem witness_block_change_other :
    { labWith (fun x => { x with sys := { x.sys with codecfg := 0x0001_0000_0000_0000#64 } }) with
        mem := ⟨[(bankKey 0 0 + 4, 1), (bankKey 0 0 + 7, 0x80)], [], [], []⟩ }.blockOk 0 0 = true ∧
      (labWith fun x => { x with streams := x.streams.setIfInBounds 1 { x.streams[1] with len0 := 5, len1 := 5 } }).othersBusy 0 = true ∧
      (let s := labWith fun x => { x with sys := { x.sys with tskcur := 0x8000_0000_0000_0000#64, tskpre0 := 0x8000_0001#64 } }
       bitOf s.here.sys.tskcur 63 = true ∧ s.predsDone 0 = false) := by decide +kernel

theorem witness_padding_and_semaphores :
    (let s := labWith (runs fun r => { r with lag := 4 })
     0 < min s.here.run.lag (1 : BitVec 16).toNat ∧ s.paddingUsed 0 1 = false ∧ s.timedInFlight 0 = false) ∧
    min lab.here.run.lag (1 : BitVec 16).toNat = 0 ∧
    (labWith fun x => { x with pend := [⟨5, 0, 1, .raise 3⟩] }).timedInFlight 0 = true ∧ lab.here.regs.hs.getLsbD 63 = false ∧
    (labWith fun x => { x with regs := { x.regs with hs := 1 } }).here.regs.hs.getLsbD (0 : BitVec 6).toNat = true := by decide +kernel

theorem witness_pause_does_nothing :
    let s : State := { lab with todo := [.issue 0 .conductor] }
    s.todo = [.issue 0 .conductor] := by decide +kernel

/-- Route tag 0 over stations 0 and 1, with one arrival, and phase 3 completed. -/
def tagged (a : BitVec 384) : State :=
  { lab with pkg := { lab.pkg with tags := lab.pkg.tags.set 0 ⟨0x8000_0003_0000_0000#64 + BitVec.ofNat 64 (if a = 0 then 0 else 1), 3, a, none⟩ } }

theorem witness_barriers :
    ((tagged 2).tag 0).member 0 = true ∧ ((tagged 2).tag 0).arrived.getLsbD 0 = false ∧ ((tagged 1).tag 0).arrived.getLsbD 0 = true ∧
      ((tagged 2).tag 1).member 0 = false ∧ bitsOf ((tagged 2).tag 0).ctl 8 0 + 1 = ((tagged 2).tag 0).members ∧
      bitsOf ((tagged 0).tag 0).ctl 8 0 + 1 ≠ ((tagged 0).tag 0).members ∧
      (let d := fun a : BitVec 5 => (((tagged 0).rs a).truncate 16 - ((tagged 0).tag 0).ctl.extractLsb' 32 16 : BitVec 16).toInt
       2 ≤ d 1 ∧ d 0 ≤ -2 ∧ -2 < (3 - 3 : BitVec 16).toInt) ∧
      lab.here.run.level = .resident ∧ bitOf (lab.tag 0).ctl 63 = false ∧
      (labMask 1).extractLsb' 0 384 = (1 : BitVec 384) ∧ (lab.stn 0).run.on = true ∧ (lab.stn 0).run.part = lab.partOf 0 ∧
      bitsOf ((tagged 0).tag 0).ctl 61 58 = 0 ∧
      (let x := (labWith (runs fun r => { r with waitTag := some 0 })).stn 0
       x.run.waitTag = some (0 : BitVec 3).toNat ∧ x.trap.halted = false ∧ x.trap.taking = none) := by decide +kernel

theorem witness_system_instructions :
    (labWith (runs fun r => { r with level := .task })).here.run.level = .task ∧ lab.here.run.level = .resident ∧
      lab.here.trap.halted = false ∧ lab.here.trap.taking = none ∧ lab.here.trap.inHandler = false ∧
      (let s := labWith fun x => { x with trap := { x.trap with inHandler := true, tcause := 0x4000_0000_0000_0000#64 } }
       s.here.trap.inHandler = true ∧ bitOf s.here.trap.tcause 62 = true ∧ s.here.trap.forked = false) ∧
      (let u : Trap := ⟨2, 0, 0, false, 1, ⟨1, 0, 0, none⟩⟩
       (labWith fun x => { x with trap := { x.trap with taking := some (u, 0) } }).here.trap.taking = some (u, lab.now) ∧ u.async = false) := by decide +kernel

/-! ### Conductor memory -/

theorem witness_scalar_accesses :
    gives (capCheck (lab.rc 1) lab.nodeId ((0 : BitVec 7).toInt * szBytes 3) (szBytes 3) 1 false false) 0 ∧
      lab.segments lab.cur.k (lab.rc 1).obj 4 0 (szBytes 3) = some [segOf 0 0 0 0 8] ∧ lab.here.run.lag = 0 ∧
      scalarFormat [segOf 0 0 0 0 8] = 0 ∧
      gives (capCheck (lab.rc 1) lab.nodeId ((0 : BitVec 7).toInt * szBytes 7) (szBytes 7) 2 false true) 0 ∧
      lab.segments lab.cur.k (lab.rc 1).obj 4 0 (szBytes 7) = some [segOf 0 0 0 0 16] ∧
      [segOf 0 0 0 0 16].all (·.page.fmt == 0) = true ∧ (lab.rc 14).tag = false ∧
      lab.segments lab.cur.k (lab.rc 12).obj 4 0 16 = some [segOf 1 0 0 0 16] ∧ (lab.rc 12).tag = true ∧ (lab.rc 12).rights &&& 32 = 0 ∧
      [segOf 1 0 0 0 16].any (·.page.bank != some lab.cur.k) = true := by decide +kernel

/-- For each check a capability that fails it and none before it: of a load, and of a capability form. -/
theorem witness_capability_checks :
    (let ok := fun (c : BitVec 4) => capCheck (lab.rc c) lab.nodeId 0 8 1 false false
     fails (ok 3) 1 ∧ fails (ok 2) 2 ∧ fails (ok 4) 3 ∧ fails (ok 5) 4 ∧ fails (ok 6) 5 ∧ fails (ok 7) 7) ∧
    fails (capCheck (lab.rc 13) lab.nodeId 0 16 1 false true) 6 ∧
    (lab.rc 1).tag = true ∧ (lab.rc 1).sealed = false ∧ (lab.rc 1).obj ≠ 0 ∧ (lab.rc 1).node = lab.nodeId := by decide +kernel

/-- What an access whose capability passes may still trap on: an unpinned page, a block format, a stack page of a lagging station. -/
theorem witness_access_traps :
    gives (capCheck (lab.rc 8) lab.nodeId 0 8 1 false false) 0 ∧ lab.segments lab.cur.k (lab.rc 8).obj 4 0 8 = none ∧
      lab.segments lab.cur.k (lab.rc 9).obj 4 0 8 = some [segOf 0 65536 0 1 8] ∧ scalarFormat [segOf 0 65536 0 1 8] ≠ 0 ∧
      [segOf 0 65536 0 1 16].all (·.page.fmt == 0) = false ∧
      (let s := labWith (runs fun r => { r with lag := 1 }); let g : Seg := ⟨⟨none, 131072, 0, 0, 0, 0, true⟩, 8⟩
       s.segments s.cur.k (s.rc 10).obj 4 0 8 = some [g] ∧ s.here.run.lag ≠ 0 ∧ [g].any (·.page.bank.isNone) = true ∧ scalarFormat [g] = 0 ∧
         (∀ need ∈ [1, 2], gives (capCheck (s.rc 10) s.nodeId 0 8 need false false) 0 = true) ∧
         s.segments s.cur.k (s.rc 10).obj 4 0 16 = some [{ g with len := 16 }] ∧ (∀ x ∈ [g], x.page.fmt = 0) ∧
         (∀ need ∈ [1, 2], gives (capCheck (s.rc 10) s.nodeId 0 16 need false true) 0 = true) ∧ (s.rc 14).tag = false ∧ (s.rc 10).rights &&& 32 ≠ 0) := by
  decide +kernel

theorem witness_atomics :
    gives (capCheck (lab.rc 1) lab.nodeId 0 8 4 false false) 0 ∧ lab.segments lab.cur.k (lab.rc 1).obj 4 0 8 = some [segOf 0 0 0 0 8] ∧
      (lab.here.bay 0).st ≠ .pending ∧ (lab.here.bay 15).st = .pending ∧ blockFormat 0 = false ∧ blockFormat 1 = true ∧
      gives (capCheck (lab.rc 13) lab.nodeId 0 8 4 false false) 1 ∧ 1 % 8 ≠ 0 ∧
      lab.segments lab.cur.k (lab.rc 11).obj 4 0 8 = some [⟨⟨some 0, 196608, 0, 0, 0, 1, true⟩, 8⟩] ∧
      lab.segments lab.cur.k (lab.rc 13).obj 4 1 8 = some [segOf 0 0 1 0 8] := by decide +kernel

theorem witness_bays_and_fences :
    gives (capCheck (lab.rc 1) lab.nodeId ((0 : BitVec 7).toInt * 16) 16 1 true false) 0 ∧ (lab.here.bay 0).st ≠ .pending ∧
      (lab.here.bay 15).st = .pending ∧ gives (capCheck (lab.rc 13) lab.nodeId 0 16 1 true false) 1 ∧ 1 % 16 ≠ 0 ∧
      (labWith (sregs [(9, 255)])).rs 9 = 255 ∧ 256 ≤ (lab.rs 5).toNat ∧ lab.cur.e = .conductor ∧
      (1 : BitVec 9).toNat &&& 3 = (1 : BitVec 9).toNat ∧ (4 : BitVec 9).toNat &&& 3 ≠ (4 : BitVec 9).toNat ∧
      (256 : BitVec 9).toNat % 256 = 0 := by decide +kernel

theorem witness_capability_instructions :
    (lab.rc 1).tag = true ∧ (lab.rc 1).sealed = false ∧ (lab.rc 1).rights &&& 64 ≠ 0 ∧ (lab.rc 6).rights &&& 64 = 0 ∧
      (lab.rc 6).tag = true ∧ (lab.rc 6).sealed = false ∧ (lab.rc 2).tag = true ∧ (lab.rc 2).sealed = true ∧ (lab.rc 2).rights &&& 64 ≠ 0 ∧
      (lab.rc 3).tag = false ∧ lab.here.run.level = .resident := by decide +kernel

/-- A bound of the limit itself, one beyond it, and one of 2^40. -/
theorem witness_capability_bound :
    let s := labWith (sregs [(9, 65536), (10, 65537)])
    (s.rs 9).toNat ≤ (s.rc 1).limit ∧ (s.rs 9).toNat < 2 ^ 40 ∧ (s.rc 1).limit < (s.rs 10).toNat ∧ 2 ^ 40 ≤ (s.rs 6).toNat ∧
      (s.rc 1).tag = true ∧ (s.rc 1).sealed = false ∧ (s.rc 1).rights &&& 64 ≠ 0 ∧ (s.rc 3).tag = false ∧ (s.rc 2).sealed = true := by decide +kernel

/-- Records and waybill entries of a team, in a package of which no partition has a station. -/
def foreign : State :=
  State.reset.onCoachman 0 fun c => { c with records := [(0, 0x8000_0000_0000_0000#64)], waybill := [(0, BitVec.ofNat 128 (2 ^ 127))] }

theorem foreign_teamIn : foreign.teamIn 0 0 = false := by
  simp only [State.teamIn, List.any_eq_false]
  intro k _
  have : foreign.stn k = Station.reset := by simp [foreign, State.onCoachman, State.stn, State.reset]
  simp [this, Station.reset, Run.reset]

theorem witness_table_writes :
    4096 ≤ (lab.rs 8).toNat ∧ 8192 ≤ (lab.rs 7).toNat ∧ bitOf ((lab.coachman 0).record 8) 63 = false ∧ (lab.rs 1).toNat = 8 ∧
      bitOf ((foreign.coachman 0).record (foreign.rs 0).toNat) 63 = true ∧ wbV ((foreign.coachman 0).entry (foreign.rs 0).toNat) = true ∧
      wbV ((lab.coachman 0).entry 8) = false ∧ bitsOf (lab.rs 0) 49 48 = 0 ∧ bitsOf (lab.rs 0) 31 25 = 0 ∧ bitOf (lab.rs 0) 63 = false ∧
      (lab.rs 4).toNat < 2 ^ 25 ∧ lab.waybillOk 0 0 8 (lab.rs 0 ++ lab.rs 0) = true := by decide +kernel

/-- A mailbox of partition 0 with one message. -/
def mailed : State := { lab with pkg := { lab.pkg with boxes := [⟨8, 0x8001_0000_0000_0001#64⟩] } }

theorem witness_mailboxes_and_signals :
    lab.here.sigs.length < 16 ∧ (labWith fun x => { x with sigs := List.replicate 16 ⟨0, 0, 0, Cap.null, 0, .task⟩ }).here.sigs.length = 16 ∧
      gives (capCheck (lab.rc 1) lab.nodeId 0 8 2 true false) 0 ∧ gives (capCheck (lab.rc 13) lab.nodeId 0 8 2 true false) 1 ∧
      lab.here.run.level = .resident ∧ (lab.here.bay 15).st = .pending ∧ (lab.here.bay 0).st ≠ .pending ∧ lab.mbSelect 0 = none ∧
      mailed.mbSelect 0 = some (0, 8) ∧ bitsOf (mailed.mailbox 8) 62 59 = mailed.partOf 0 ∧ (mailed.rs 1).toNat = 8 ∧
      131072 ≤ (mailed.rs 7).toNat := by decide +kernel

/-! ### System registers and repeats -/

/-- A partition whose telemetry ring of 256 entries is open with h entries in it. -/
def telemetry (h : DWord) : State := lab.onPart 0 fun q => { q with tlcfg := 0x8000_0000_0000_0000#64, tlhead := h }

theorem witness_registers_and_marks :
    lab.csrRead 0 0xFFF = none ∧ (lab.csrRead 0 0x003).isSome = true ∧ lab.csrMay 0 0x003 0 = true ∧ lab.csrMay 0 0x000 0 = false ∧
      (lab.csrRead 0 0x000).isSome = true ∧ (labWith (runs fun r => { r with level := .task })).here.run.level = .task ∧
      (lab.rs 1).toNat < 96 ∧ (lab.stn 8).sys.teamid = lab.here.sys.teamid ∧ (lab.here.bay 0).st ≠ .pending ∧
      96 ≤ (lab.rs 4).toNat ∧ (labWith fun x => { x with sys := { x.sys with teamid := 1 } }).here.sys.teamid ≠ (lab.stn 8).sys.teamid ∧
      (lab.here.bay 15).st = .pending ∧
      (let q := (telemetry 255).part 0; let size := 2 ^ (bitsOf q.tlcfg 59 56 + 8)
       bitOf q.tlcfg 63 = true ∧ ¬(bitsOf q.tlhead 20 0 + 2 ^ 21 - bitsOf q.tltail 20 0) % 2 ^ 21 = size) ∧
      (let q := (telemetry 256).part 0; let size := 2 ^ (bitsOf q.tlcfg 59 56 + 8)
       (bitsOf q.tlhead 20 0 + 2 ^ 21 - bitsOf q.tltail 20 0) % 2 ^ 21 = size) ∧
      bitOf (lab.part 0).tlcfg 63 = false := by decide +kernel

/-- A record of the cycle before, next in its partition's turn, with its channel cycle free and taken. -/
theorem witness_record_append :
    let r : Rec := ⟨0, 0, false, 0, 0, [0, 6 * 2 ^ 60, 0, 0]⟩
    let s : State := { telemetry 255 with cyc := 1, todo := [.append 0 false] }
    let t : State := { s with pkg := { s.pkg with records := [r] } }
    let at_ := bitsOf (t.part 0).tlcfg 17 0 * 65536 + 255 % 256 * 32
    t.todo = [.append r.part false] ∧ t.pkg.records = [r] ∧ r.fault = false ∧ r.cyc < t.cyc ∧ t.placeTaken (.stack at_) = false ∧
      (t.serve (.stack at_)).placeTaken (.stack at_) = true := by decide +kernel

/-- `rpt 2` over +1 add s29, s1, s2 with D moved by 1 or 3, and over +1 acas b0, c0, s0 with B moved by 1: its second pair is odd. -/
def repeated (p i : Nat) : State := State.reset.withFetchWord 64 (p + i * 2 ^ 32)

theorem witness_repeats :
    (2 : BitVec 9) ≠ 0 ∧ (repeated 0x0FF80880 0x08075020).stridesOk 0 .conductor 0 2 1 0 0 = true ∧
      (repeated 0x0FF80980 0x08075020).stridesOk 0 .conductor 0 2 3 0 0 = false ∧
      ((repeated 0x0FF80880 0x08075020).iteration 0 .conductor).toBool = true ∧
      (let s := (repeated 0x0FF80802 0x0A380000).onStn 0 fun t => t.setStream .conductor { t.stream .conductor with rep := some 1 }
       (s.iteration 0 .conductor).toBool = false ∧ ((s.stn 0).stream .conductor).rep.isSome = true) := by decide +kernel

/-! ### Vector -/

/-- Vector registers set by number. -/
def vregs (l : List (Nat × Line)) (x : Station) : Station :=
  { x with regs := { x.regs with v := l.foldl (fun v p => v.setIfInBounds p.1 p.2) x.regs.v } }

/-- v1 lanes of 1, v2 the tree state of chunk 0, v3 that of chunk 2, v4 a quiet NaN in lane 5 of zeros, v5 256 in lane 0. -/
def vlab : State := labWith (vregs [(1, lineOfLanes (List.replicate 64 1)), (2, lineOfLanes (stateLanes (some (oneChunk false 0 ⟨0, false, false⟩)))),
  (3, lineOfLanes (stateLanes (some (oneChunk false 2 ⟨0, false, false⟩)))), (4, BitVec.ofNat 2048 (0x7FC0_0000 * 2 ^ 160)), (5, 256)])

/-- INT32 and FP32 lanes, signed and not; the words of `vsel` with and without its extension. -/
theorem witness_vector_lanes :
    (vext (some ⟨0, 0, 0xE, 0, 0⟩) 0xD).t = 0xE ∧ (vext none 0xD).t ≠ 0xE ∧ (⟨0, 0, 0xE, 0, 0x100000⟩ : VExt).low.getLsbD 20 = true ∧
      (⟨0, 0, 0xE, 0, 0⟩ : VExt).low.getLsbD 20 = false ∧ isNan (laneOf (vlab.rv 4) 5) = true := by decide +kernel

theorem witness_lane_selection :
    let w : Word := 0x0888_2083; let v : Word := 0xF088_2082; let x : Word := 0xF000_0000
    w.toNat / 2 ^ 19 % 256 = 0x11 ∧ w.toNat / 2 ^ 27 = 1 ∧ w.toNat % 2 = 1 ∧ x.toNat / 2 ^ 31 = 1 ∧ x.toNat % 2 ^ 28 = 0 ∧
      v.toNat / 2 ^ 19 % 256 = 0x11 ∧ v.toNat / 2 ^ 27 = 30 ∧ v.toNat % 2 = 0 ∧ (0x7000_0000 : Word).toNat / 2 ^ 31 = 0 ∧
      (0x8000_0001 : Word).toNat % 2 ^ 28 ≠ 0 := by decide

/-- Sixty-four FP32 elements fill the register from byte 0, and not from byte 1. -/
theorem witness_vector_functions :
    let n := fun e : VExt => 64 / (fmtUnit e.t.toNat 0).1 * (fmtUnit e.t.toNat 0).2
    n ⟨0, 0, 0xD, 0, 0⟩ = 256 ∧ 256 < (0x100 : Nat) / 2 ^ 8 % 256 + n ⟨0, 0, 0xD, 0, 0x100⟩ := by decide +kernel

theorem witness_vector_reductions :
    (61 : BitVec 6).toNat = 61 ∧ (60 : BitVec 6).toNat ≤ 60 ∧ (laneOf (vlab.rv 5) 0).toNat % 256 = 0 ∧ (laneOf (vlab.rv 1) 0).toNat % 256 ≠ 0 ∧
      (lanesState (lanesOf (vlab.rv 0))).isSome = true ∧
      (let u := lanesState (lanesOf (vlab.rv 2)); let v := lanesState (lanesOf (vlab.rv 3))
       u.isSome = true ∧ v.isSome = true ∧ (u.bind fun a => lanesState (lanesOf (vlab.rv 0)) |>.bind fun b => mergeOpt a b).isSome = true ∧
         ((u.bind fun a => v.map fun b => (mergeOpt a b).isNone) = some true)) ∧
      vlab.active (vext none 0xD) = BitVec.allOnes 64 ∧ vlab.active ⟨1, 0, 0xD, 0, 0⟩ = 0 ∧
      (nanPick (((List.range 64).filter fun i => (BitVec.allOnes 64).getLsbD i).map (laneOf (vlab.rv 4)))).isSome = true ∧
      (∀ j : Fin 64, (laneOf (vlab.rv 1) j).toInt ≤ (laneOf (vlab.rv 1) 0).toInt ∧ isNan (laneOf (vlab.rv 1) j) = false ∧
        f32Key (laneOf (vlab.rv 1) j) ≤ f32Key (laneOf (vlab.rv 1) 0)) := by decide +kernel

theorem witness_vector_moves_and_routing :
    (BitVec.ofNat 7 ((63 * 2 ^ 15 : Nat) / 2 ^ 15)).toInt = 63 ∧ (BitVec.ofNat 7 ((127 * 2 ^ 15 : Nat) / 2 ^ 15)).toInt = -1 ∧
      (BitVec.ofNat 7 ((65 * 2 ^ 15 : Nat) / 2 ^ 15)).toInt = -63 ∧ (3 * 2 ^ 20 + 5 : Nat) / 2 ^ 20 % 4 = 3 ∧
      (vext none 0xE).t = 0xE ∧ (⟨0, 0, 0, 0, 0⟩ : VExt).t = 0 ∧ (⟨0, 0, 0xD, 0, 0⟩ : VExt).t = 0xD ∧
      (laneOf (vlab.rv 1) 3).toNat < 2 ^ 24 ∧
      2 ^ 24 ≤ (laneOf ((labWith (vregs [(6, BitVec.ofNat 2048 (2 ^ 24 * 2 ^ 96))])).rv 6) 3).toNat ∧
      (0x200000 : BitVec 22).getLsbD 21 = true := by decide +kernel

theorem witness_vector_loads_stores :
    let e := vext none 0; let q := lab.active e
    q.getLsbD 0 = true ∧ e.low.getLsbD 21 = false ∧ (0x200000 : BitVec 22).getLsbD 21 = true ∧ lab.active ⟨1, 0, 0, 0, 0⟩ = 0 ∧
      ((List.range 64).all fun j => gives (capCheck (lab.rc 1) lab.nodeId ((j * 4 : Nat) : Int) 4 1 false false) (4 * j)) = true ∧
      fails (capCheck (lab.rc 7) lab.nodeId 0 4 2 false false) 7 = true ∧ lab.pin 0 (lab.rc 8).obj 0 = none ∧
      lab.pin 0 (lab.rc 1).obj 0 = some (segOf 0 0 0 0 0).page ∧ spanCheck 0 0 0 256 = 0 ∧
      lab.pin 0 (lab.rc 9).obj 0 = some (segOf 0 65536 0 1 0).page ∧ spanCheck 1 0 3 (64 / (fmtUnit 1 0).1 * (fmtUnit 1 0).2) ≠ 0 ∧
      (lab.footLines ⟨1, 0, 0, 0, 0, 1, 4, 256⟩ q).isSome = true ∧ lab.here.run.lag = 0 ∧ isBfp 1 = true ∧
      lab.formatPage (lab.rc 1).obj 0 = some ((segOf 0 0 0 0 0).page, 0) ∧ lab.formatPage (lab.rc 8).obj 0 = none ∧
      lab.formatPage (lab.rc 1).obj (-128) = some ((segOf 0 0 0 0 0).page, 65408) ∧
      (lab.footLines ⟨1, 65408, 65408, 0, 0, 1, 4, 256⟩ q).isNone = true ∧
      (let s := labWith (runs fun r => { r with lag := 1 }); let p : PageAt := ⟨none, 131072, 0, 0, 0, 0, true⟩
       s.pin 0 (s.rc 10).obj 0 = some p ∧ s.here.run.lag ≠ 0 ∧
         ((s.footLines ⟨4, 0, 0, 0, 0, 1, 4, 256⟩ q).map fun ls => ls.any (·.seg.page.bank.isNone)) = some true) := by decide +kernel

/-- A gather of lane 0 alone, at offset 0 of the bench's page; FIFO A with 127, 128 and no lines. -/
theorem witness_gathers_and_fifos :
    (let s := labWith fun x => { x with regs := { x.regs with q := x.regs.q.setIfInBounds 1 1 } }; let x : VExt := ⟨1, 1, 0, 0, 0⟩
     (gatherOffs (s.rc 1) s.nodeId 0 1 (s.rv 0) (lanesIn (s.active x))).toOption = some [(0, 0)] ∧
       (gatherOffs (s.rc 1) s.nodeId 0 2 (s.rv 0) (lanesIn (s.active x))).toOption = some [(0, 0)] ∧
       s.pin s.cur.k (s.rc 1).obj 0 = some (segOf 0 0 0 0 0).page ∧ (0 : Nat) % 4 = 0 ∧ (segOf 0 0 0 0 0).page.fmt ∈ [0, 0xD, 0xE] ∧
       (gatherOffs (s.rc 7) s.nodeId 0 1 (s.rv 0) (lanesIn (s.active x))).toBool = false ∧
       (gatherOffs (s.rc 7) s.nodeId 0 2 (s.rv 0) (lanesIn (s.active x))).toBool = false ∧ s.active ⟨1, 0, 0, 0, 0⟩ = 0) ∧
    (let s := fun n => labWith fun x => { x with mat := { x.mat with fa := ⟨List.replicate n ⟨0, ⟨0, 0, 0⟩, false⟩, 0, 0⟩ } }
     (s 127).here.untimedFill false = false ∧ (s 127).here.mat.fa.lines.length = 127 ∧ (s 128).here.mat.fa.lines.length = 128 ∧
       (s 1).here.mat.fa.lines ≠ [] ∧ (s 0).here.mat.fa.lines = []) ∧
    (vext none 0).low.getLsbD 21 = false := by decide +kernel

/-! ### Matrix engine -/

/-- An operation on tile 0 that is in flight until cycle n. -/
def flying (n : Nat) (done : Bool) : ArrayOp :=
  ⟨2, 0, 0, 0, 5, n, 0, 0, 0, true, false, 16, 0, none, 256, 0, false, 0, 0, 0, [], [], none, [], done⟩

theorem witness_tile_instructions :
    let fit := fun f g : Nat => 1 ≤ f ∧ f ≤ 12 ∧ g ≠ 3 ∧ (f ≤ 7 ∨ g = 0)
    fit 12 0 ∧ fit 1 2 ∧ ¬fit 0 0 ∧ ¬fit 13 0 ∧ ¬fit 12 1 ∧ (∃ o ∈ [flying 9 false], o.t = (0 : BitVec 3).toNat) ∧
      (labWith fun x => { x with mat := { x.mat with ops := [flying 9 false] } }).here.mat.ops = [flying 9 false] ∧ lab.here.mat.ops = [] ∧
      (flying 9 true).done = true ∧ (lanesState (lanesOf (lab.rv 0))).isSome = true ∧ (lanesState (lanesOf (vlab.rv 1))) = none := by
  decide +kernel

/-- FIFOs with n lines for A and m for B, the latter tagged, and formats: INT8 with FP32 sums, or block formats. -/
def panels (mx : DWord) (n m : Nat) (tag : MapTag) (slot : DWord) : State :=
  labWith fun x => { x with
    mat := { x.mat with
      mxfmt := mx
      fa := ⟨List.replicate n ⟨0, ⟨0, 0, 0⟩, false⟩, 0, 0⟩
      fb := ⟨List.replicate m ⟨0, tag, false⟩, 0, 0⟩
      maps := x.mat.maps.setIfInBounds 0 { MapSlot.reset with reg := slot } } }

/-- An operation that passes; one without formats; one line short of A; mixed and unknown tags, a pending table; chunk indices that are
no multiple of 256; an element that is empty; a heap without a length. -/
theorem witness_array_operations :
    let o : MOp := ⟨2, 0, 0, 0, true, false, false, 3, 0, .none⟩; let s := panels 0xCC00_0000 64 16 ⟨0, 0, 0⟩ 0
    s.here.mat.busyUntil ≤ s.now ∧ bitsOf s.here.mat.mxfmt 31 28 = 12 ∧ o.aCount s.here.mat.mxfmt = 64 ∧ o.bCount s.here.mat.mxfmt = 16 ∧
      s.here.coding o (s.here.mat.fb.lines.take 16) = .plain ∧ s.here.partShapes o (s.rq 0) = [] ∧ o.chunkOk none = true ∧
      bitsOf lab.here.mat.mxfmt 31 28 = 0 ∧ (panels 0xCC00_0000 63 16 ⟨0, 0, 0⟩ 0).here.mat.fa.lines.length < 64 ∧
      (panels 0xCC00_0000 64 16 ⟨1, 0, 0⟩ 0).here.coding o (List.replicate 16 ⟨0, ⟨1, 0, 0⟩, false⟩) = .bad ∧
      (panels 0x1100_0000 64 16 ⟨1, 0, 5⟩ 0x4001_4000_0000_0000#64).here.coding { o with kind := 3 } [⟨0, ⟨1, 0, 5⟩, false⟩] = .early ∧
      (panels 0x1100_0000 64 16 ⟨1, 0, 0⟩ 0x8000_0000_0000_0000#64).here.coding { o with kind := 3 } [⟨0, ⟨1, 0, 0⟩, false⟩] ≠ .bad ∧
      { o with x := .g 1 }.chunkOk none = false ∧ { o with first := false }.elemOk false none = false ∧ lab.here.spill 0 = 1 := by
  decide +kernel

/-- An operation due in the first cycle, the last that starts. -/
theorem witness_array_completion :
    let s := labWith fun x => { x with mat := { x.mat with ops := [flying 0 false] } }
    (s.here.mat.ops.filter fun o => !o.done && decide (o.due ≤ s.nom 0)) = [flying 0 false] ∧ (flying 0 false).last = false ∧
      (flying 0 false).t < 8 ∧ (flying 0 false).c0 + (flying 0 false).ncol ≤ 128 ∧ bitOf (s.part (s.partOf 0)).smpcfg 60 = false := by
  decide +kernel

/-- The last operation of each LAST form, due in the first cycle, over 16 logits of row 0, whose heap holds one entry. -/
def folding (kind : Nat) : ArrayOp := { flying 0 false with kind := kind, last := true, q := 1, hcfg := 0x0000_1001_0000_0000#64, hscl := 0x3F80_0000 }

theorem witness_last_folds :
    ∀ kind ∈ [8, 9], let s := labWith fun x => { x with mat := { x.mat with hcfg := 0x0000_1001_0000_0000#64, heapFree := 0, ops := [folding kind] } }
      let h := s.stn 0
      (h.mat.ops.filter fun o => !o.done && decide (o.due ≤ s.nom 0)) = [folding kind] ∧ (folding kind).last = true ∧ (folding kind).kind = kind ∧
        bitsOf (folding kind).hcfg 39 32 = h.heapK ∧ h.rowOk 0 = true ∧ h.mat.heapFree.getLsbD 0 = false ∧ (folding kind).q.getLsbD 0 = true ∧
        (∀ r : Fin 64, 0 < r.val → (folding kind).q.getLsbD r.val = false) ∧ 0 < bitsOf (folding kind).hcfg 63 40 := by decide +kernel

/-- A heap of one row with k = 1, and a row merge under way until cycle 9. -/
def heapLab (owned : List (Nat × Nat)) : State :=
  labWith fun x => { x with mat := { x.mat with hcfg := 0x0000_0001_8000_0000#64, heapOwned := owned, heapFree := 0 } }

theorem witness_maps_and_heap :
    gives (capCheck (lab.rc 1) lab.nodeId 0 256 1 false false) 0 = true ∧ lab.pin 0 (lab.rc 1).obj 0 = some (segOf 0 0 0 0 0).page ∧
      bitOf (lab.here.mapSlot 0).reg 62 = false ∧ bitOf (lab.here.mapSlot 0).reg 63 = false ∧
      (let m : MapSlot := { MapSlot.reset with reg := 0x4000_0000_0000_0000#64, latched := true }
       bitOf m.reg 62 = true ∧ m.latched = true ∧ m.ready ≤ 0 ∧ bitsOf m.reg 8 0 = 0) ∧
      (let s := heapLab []
       (0 : BitVec 6).toNat ≤ bitsOf s.here.mat.hcfg 28 23 ∧ (0 + 1) * ((bitsOf s.here.mat.hcfg 39 32 + 8) * 8) ≤ 65536 ∧
         ¬(1 : BitVec 6).toNat ≤ bitsOf s.here.mat.hcfg 28 23 ∧ s.here.mat.heapFree.getLsbD 0 = false ∧
         (∀ i, i < 4 → bitsOf s.here.mat.hcfg 31 29 ≤ i → laneOf (s.rv 0) i = 0xFFFF_FFFF) ∧ (63 : BitVec 6).toNat + 1 ≤ 64 ∧
         64 < (63 : BitVec 6).toNat + 2) ∧
      (∃ p ∈ (heapLab [(0, 9)]).here.mat.heapOwned, p.1 = 0 ∧ (heapLab [(0, 9)]).now < p.2) ∧
      ¬(∀ i, i < 4 → bitsOf (0 : DWord) 31 29 ≤ i → laneOf (lab.rv 0) i = 0xFFFF_FFFF) := by decide +kernel

/-- Images of a row that fit and that do not. -/
theorem witness_heap_merge :
    let k := 1; let img := HRow.ofWords (List.replicate 18 0)
    img.ne ≤ k ∧ ranked img.ents = true ∧ img.lidx = (HRow.ofWords (List.replicate 18 0)).lidx ∧
      img.lidx ≠ (HRow.ofWords (List.replicate 18 1)).lidx := by decide +kernel

/-! ### Copy channels -/

/-- Bytes of the bank of station 0. -/
def memo (l : List (Nat × List Byte)) : Memory := l.foldl (fun m p => m.writeN (bankKey 0 p.1) p.2) Memory.reset

/-- A copy descriptor at the start of the bank: 256 elements in one dimension. -/
def copying (h : Nat) : State := { lab with mem := memo [(0, leBytes 32 h), (32, leBytes 16 (256 * 2 ^ 104))] }

/-- The checks of a copy command in the words of its statement: place, room, semaphore, fields, capabilities, timed pieces, ring window, whole blocks,
formats, FIFO lengths, no overlap, no FIFO of another channel. -/
def copyChecksOf (s : State) (desc : BitVec 16) (opc : Nat) : List Bool :=
  let k := s.cur.k
  let c := s.chan k 0
  let d := s.copyDesc k (desc.toNat * 16)
  let raised := s.here.regs.hs.getLsbD (d.h / 2 ^ 30 % 64) = true
  let src := s.copySource opc d
  let dst := s.copyDest d
  let p0 := s.copyPlan k true src.1 dst.1 d src.2 dst.2
  let ps := s.copyPieces k s.nextId d.op p0
  let p := if ps.isSome then p0 else s.copyPlan k false src.1 dst.1 d src.2 dst.2
  let from_ := extentCheck (s.rc (BitVec.ofNat 4 (d.h / 2 ^ 60 % 16))) s.nodeId 8 p.srcExtent true
  let into := extentCheck (s.rc (BitVec.ofNat 4 (d.h / 2 ^ 56 % 16))) s.nodeId 16 p.dstExtent true
  let window := match src.1 with
    | .seg _ g => s.inWindow g
    | _ => true
  [decide (desc.toNat * 16 + 32 + 16 * d.dims.length ≤ 0xF_8000), decide (c.cmds.length < 16), decide (d.h / 2 ^ 36 % 2 = 1 → raised),
    decide (d.fieldsOk opc false = true ∧ (opc = 3 → 0 ≤ p.srcExtent.1 ∧ p.srcExtent.2 ≤ 2097152)),
    decide ((opc ≠ 3 → from_ = none) ∧ (d.dkind = 0 → into = none)), ps.isSome, window, s.copySpan k ps.isSome p == 0,
    s.copyFormats k ps.isSome (d.op == 1) p, decide (d.dkind ≠ 0 → (p.runs.map (·.dn)).sum % 256 = 0), !p.overlaps,
    !s.here.fifoClash 0 d.dkind ps.isSome]

/-- A copy from the station's own page to the bank of station 1, a transfer of it, a fill of FIFO A; then one failure each: the place of the
descriptor, the awaited semaphore, a reserved bit, the source's and the destination's right, an overlap, an untimed `cpyt`. -/
theorem witness_copy_commands :
    copyChecksOf (copying (0x1C * 2 ^ 56)) 0 0 = List.replicate 12 true ∧ copyChecksOf (copying (0x1C * 2 ^ 56)) 0 2 = List.replicate 12 true ∧
      copyChecksOf (copying (0x10 * 2 ^ 56 + 2 ^ 50)) 0 1 = List.replicate 12 true ∧
      (copyChecksOf (copying (0x1C * 2 ^ 56)) 0xFFFF 0)[0]? = some false ∧
      (copyChecksOf (copying (0x1C * 2 ^ 56 + 2 ^ 36)) 0 0).take 3 = [true, true, false] ∧
      (copyChecksOf (copying (0x1C * 2 ^ 56 + 1)) 0 0).take 4 = [true, true, true, false] ∧
      (copyChecksOf (copying (0x6C * 2 ^ 56)) 0 0).take 5 = [true, true, true, true, false] ∧
      (copyChecksOf (copying (0x16 * 2 ^ 56)) 0 0).take 5 = [true, true, true, true, false] ∧
      (copyChecksOf (copying (0x11 * 2 ^ 56)) 0 0).drop 4 = [true, true, true, true, true, true, false, true] ∧
      (copyChecksOf (copying (0x18 * 2 ^ 56)) 0 2).take 6 = [true, true, true, true, true, false] ∧
      (labWith fun x => { x with ch := x.ch.setIfInBounds 0 { x.ch[0] with starts := [(0, 256)], accepted := 1, wp := 128 } }).here.chan 0 =
        ⟨128, 0, 0, 0, [], [], [(0, 256)], 1, 0⟩ := by decide +kernel

/-- One accepted command, tested at its length and beyond; a bitmap with its chunks passed and not; a bitmap bound at a tile. -/
theorem witness_copy_channels :
    let s := labWith fun x => { x with
      ch := x.ch.setIfInBounds 0 { x.ch[0] with starts := [(0, 256)], accepted := 1, wp := 128 }
      bitmaps := x.bitmaps.setIfInBounds 1 ⟨0, 0x8000_0000_0000_0000#64, 1⟩ }
    let ch := s.chan 0 0
    (0 : BitVec 4).toNat < ch.accepted ∧ ch.accepted < (1 : BitVec 4).toNat + 1 ∧ ch.starts.reverse[0]? = some (0, 256) ∧
      (128 : BitVec 32).toNat ≤ 256 ∧ (0 : DWord).toNat + 128 ≤ ch.wp.toNat ∧ ch.wp.toNat < (0 : DWord).toNat + 129 ∧ 256 < (257 : BitVec 32).toNat ∧
      bitOf (s.here.bitmap 0).cfg 63 = false ∧ bitOf (s.here.bitmap 1).cfg 63 = true ∧ (s.here.bitmap 1).bits.getLsbD 0 = true ∧
      (s.here.bitmap 1).bits.getLsbD 1 = false ∧ bitsOf (s.here.bitmap 1).cfg 7 0 + 1 ≤ 1 ∧
      gives (capCheck (lab.rc 1) lab.nodeId 0 512 16 false false) 0 = true ∧ gives (capCheck (lab.rc 13) lab.nodeId 0 512 16 false false) 1 = true ∧
      fails (capCheck (lab.rc 6) lab.nodeId 0 512 16 false false) 5 = true ∧ ({ lab with cur := ⟨0, .copy0, 0, 0, 1, none⟩ }).cur.e = .copy0 ∧
      (4 : BitVec 9).toNat &&& 12 = (4 : BitVec 9).toNat ∧ (16 : BitVec 9).toNat &&& 12 ≠ (16 : BitVec 9).toNat ∧
      bitsOf (lab.btc 0).ctl 59 56 = lab.partOf 0 ∧
      bitsOf ({ lab with pkg := { lab.pkg with bt := lab.pkg.bt.set 0 { BtChan.reset with ctl := 0x0100_0000_0000_0000#64 } } }.btc 0).ctl 59 56 ≠ lab.partOf 0 ∧
      (lab.chan 0 0).cmds = [] := by decide +kernel

/-! ### Lane tap and fabric queue -/

/-- A beat in the stage of station 0 on lane 5 at cycle 10, which started n cycles ago in the slot that many back. -/
def beaten (n : Nat) (d : Option Line) (lag : Nat) : State :=
  { lab with cyc := 10, beats := [⟨0, 5, (104 - n) % 104, 10 - n, 20, d, lag, false⟩] }

theorem witness_lane_taps :
    let beat := fun s : State => s.beats.find? fun b => b.stands (clusterOf s.cur.k) 5 (slotOf (localOf s.cur.k)) s.cyc
    15 = bitsOf lab.here.sys.blane 4 0 ∧ 31 = bitsOf lab.here.sys.blane 9 5 ∧ ¬5 = bitsOf lab.here.sys.blane 4 0 ∧ ¬(5 % 16 < 4) ∧
      beat lab = none ∧ beat (beaten 0 (some 1) 0) = some ⟨0, 5, 0, 10, 20, some 1, 0, false⟩ ∧
      beat (beaten 1 (some 1) 0) = some ⟨0, 5, 103, 9, 20, some 1, 0, false⟩ ∧ beat (beaten 1 none 0) = some ⟨0, 5, 103, 9, 20, none, 0, false⟩ ∧
      beat (beaten 1 (some 1) 7) = some ⟨0, 5, 103, 9, 20, some 1, 7, false⟩ ∧ lab.here.run.lag % 2 ^ 24 = 0 ∧
      lab.here.untimedFill false = false ∧ lab.here.untimedFill true = false ∧
      (let place := lab.tapOperand 3 1 none; let c := lab.rc place.1
       gives (capCheck c lab.nodeId (tapDisp c place.2.1 place.2.2) 256 1 false false) 0 = true ∧
         lab.segments lab.cur.k c.obj 4 0 256 = some [segOf 0 0 0 0 256] ∧ (segOf 0 0 0 0 256).page.bank = some lab.cur.k) ∧
      (let place := lab.tapOperand 3 13 none; let c := lab.rc place.1
       gives (capCheck c lab.nodeId (tapDisp c place.2.1 place.2.2) 256 1 false false) 1 = true) ∧
      lab.segments lab.cur.k (lab.rc 8).obj 4 0 256 = none ∧ lab.segments lab.cur.k (lab.rc 12).obj 4 0 256 = some [segOf 1 0 0 0 256] ∧
      (labWith fun x => { x with ch := x.ch.setIfInBounds 0 { x.ch[0] with
        cmds := [⟨0, 1, false, 0, 0, 0, 0, 0, 256, 1, false, none, none, ⟨0, 0, 0⟩, 0, 0, false, [], 0, 0, 1, .task, false⟩] } }).here.untimedFill false = true := by
  decide +kernel

/-- The weight ring is up, at a lag of zero and of one cycle. -/
theorem witness_weight_taps :
    let s : State := { lab with cyc := 9000, pkg := { lab.pkg with ring := { lab.pkg.ring with up := true } } }
    s.pkg.ring.up = true ∧ (0 % 16 < 4) ∧ s.here.run.lag = 0 ∧ (s.weightSource s.cur.k 0 s.now).2.2.2.2 = false ∧
      (s.quarter (s.weightSource s.cur.k 0 s.now).1 (s.weightSource s.cur.k 0 s.now).2.1 (s.weightSource s.cur.k 0 s.now).2.2.1
        (s.weightSource s.cur.k 0 s.now).2.2.2.1).2 = false ∧
      (s.onHere (runs fun r => { r with lag := 1 })).here.run.lag ≠ 0 ∧ (s.onHere (runs fun r => { r with lag := 1 })).here.tap.slack = none := by
  decide +kernel

/-- A fabric descriptor of n bytes at the start of the bank, for a resident program of the ring manager's partition that owns graph slot 0. -/
def queued (d : Nat) : State :=
  { lab with
    mem := memo [(0, leBytes 64 d)]
    pkg := { lab.pkg with
      graphs := lab.pkg.graphs.set 0 { GSlot.reset with part := some 0, st := .idle, members := [0, 1] }
      ring := { lab.pkg.ring with
        manager := some 0
        lines := lab.pkg.ring.lines.set 0 { RingLine.reset with src := 0x8000_0000_0100_0000#64, cfg := 0x0000_0FFF_8004_0002#64 } } } }

/-- A transfer's checks in the words of its statement: its fields, the source's and the destination's extent, and whole elements. -/
def movesOf (s : State) (op d : Nat) : List Bool :=
  let src := s.rc (BitVec.ofNat 4 (d / 2 ^ 108 % 16))
  let dst := s.rc (BitVec.ofNat 4 (d / 2 ^ 104 % 16))
  let len := d / 2 ^ 128 % 2 ^ 32
  let p := s.transferPlan src dst d false
  [transferFields op d, (capCheck src s.nodeId 0 len 8 (op == 1) false).toBool, decide (d / 2 ^ 79 % 16 = 0 ∨ p.sv.fmt = 0xD),
    (capCheck dst s.nodeId 0 (p.extentBytes len) 16 (op != 1) false).toBool, s.transferSpan p len == 0, pairsAgree (s.copyPairs s.cur.k false p)]

theorem witness_fabric_commands :
    let put := 256 * 2 ^ 128 + 1 * 2 ^ 108 + 12 * 2 ^ 104; let s := queued put
    s.descNat 0 0 32 = put ∧ movesOf s 0 put = List.replicate 6 true ∧ put / 2 ^ 89 % 2 = 0 ∧ put / 2 ^ 101 % 2 = 0 ∧
      (s.pkg.fab.cmds.filter fun c => c.k == s.cur.k).length < 16 ∧ (0xFFFF : BitVec 16).toNat * 16 + 32 > 0xF_8000 ∧
      (put + 2 ^ 89) / 2 ^ 89 % 2 = 1 ∧ s.here.regs.hs.getLsbD ((put + 2 ^ 89) / 2 ^ 83 % 64) = false ∧
      (let d := 12 * 2 ^ 104 + 2 ^ 72
       atomicFields false d = true ∧ gives (capCheck (s.rc 12) s.nodeId (sint 48 (d / 2 ^ 256 % 2 ^ 48)) 8 4 true false) 0 = true) ∧
      graphFields 0 = true ∧ (s.slot 0).part = some s.here.run.part ∧ s.here.run.level = .resident ∧ s.isManager s.here.run.part = true ∧
      injectFields (2 ^ 108) = true ∧ (s.rline 0).source = true ∧ 0 < (s.rline 0).k ∧
      ({ s with cur := ⟨0, .fabric, 0, 0, 1, none⟩ }).cur.e = .fabric ∧ (64 : BitVec 9).toNat &&& 192 = (64 : BitVec 9).toNat ∧
      (1 : BitVec 9).toNat &&& 192 ≠ (1 : BitVec 9).toNat := by decide +kernel

/-- Slot 0 is the partition's and slot 1 is not; a bay that is free and one that is PENDING; two packages, of which one or both arrived;
the ring manager's partition with a line that admits a change, one that lost its input, one that is bypassed, one that admits a package,
also too soon; an abort that is due. -/
theorem witness_graph_and_ring_commands :
    let s := queued 0; let g := s.slot 0
    g.part = some s.here.run.part ∧ (s.slot 1).part ≠ some s.here.run.part ∧ (s.here.bay 0).st ≠ .pending ∧ (s.here.bay 15).st = .pending ∧
      (∀ i, i < 16 → bitOf lab.pkg.fab.fplane i = false) ∧
      (let t := { s with pkg := { s.pkg with fab := { s.pkg.fab with fplane := 4 } } }
       bitOf t.pkg.fab.fplane 2 = true ∧ ((t.slot 0).members.filter fun j => j ≠ t.nodeId) = [1]) ∧
      (s.slot 1).st = .empty ∧ g.st ≠ .empty ∧ g.own = none ∧ ¬(1 = g.rank ∨ (1, g.bph.toNat) ∈ g.arrived) ∧
      (let h := { g with arrived := [(1, 0)] }; ∀ x, x < h.members.length → x = h.rank ∨ (x, h.bph.toNat) ∈ h.arrived) ∧
      s.here.run.level = .resident ∧ s.pkg.ring.manager = some s.here.run.part ∧ lab.pkg.ring.manager = none ∧ (8 : BitVec 32).toNat ≤ 8 ∧
      ¬(9 : BitVec 32).toNat ≤ 8 ∧ (s.rline 0).hop + 0 + 1 ≤ (s.rline 0).segs_ ∧ (s.rline 0).inSel = 2 ∧
      ({ s.pkg.ring with state := .lost }).state = .lost ∧ (s.rline 1).inSel ≠ 2 ∧
      (let r := { s.pkg.ring with state := .bypass, side := 0 }; r.state = .bypass ∧ r.side = (0 : BitVec 1).toNat ∧ ¬r.side = (1 : BitVec 1).toNat) ∧
      (let r := { s.pkg.ring with state := .admitting, admitAt := 1000 }
       r.newcomer = false ∧ (s.cyc + 2048 - s.phase + 2047) / 2048 + 511 < r.admitAt + r.qm + 1) ∧
      ([(s.cyc, FabLate.abortGraph (0 : BitVec 6).toNat)] = [(s.cyc, .abortGraph (0 : BitVec 6).toNat)] ∧ s.cyc ≤ s.cyc ∧
        (s.slot 0).st ≠ .running ∧ ({ s.slot 0 with st := .running }).st = .running) ∧
      (let r := { s.pkg.ring with state := .admitting, newcomer := true }
       r.state = .admitting ∧ r.newcomer = true ∧ r.admitAt + r.qm + 1 ≤ (s.cyc + 2048 - s.phase + 2047) / 2048) := by decide +kernel

/-! ### Results, traps and the ends of groups -/

/-- A station that owes one effect of an engine. -/
def owing (eng : Nat) (e : Eff) : State := labWith fun x => { x with pend := [⟨0, 0, eng, e⟩] }

/-- One effect of each kind that is due, and two vector results of one cycle. -/
theorem witness_late_results :
    (let h := (owing 1 (.sreg 3 7)).stn 0
     (h.pend.filter fun p => decide (p.due ≤ 0) && Pend.of (fun e => e != 2 && e != 3) p && !p.eff.ofTap) = [⟨0, 0, 1, .sreg 3 7⟩]) ∧
    (let h := (labWith fun x => { x with pend := [⟨0, 0, 2, .vreg 1 3 1⟩, ⟨0, 0, 3, .vreg 1 1 0⟩] }).stn 0
     let due := fun n => h.pend.filter fun p => decide (p.due ≤ 0) && Pend.of (fun e => e == n) p && !p.eff.ofTap
     due 2 = [⟨0, 0, 2, .vreg 1 3 1⟩] ∧ due 3 = [⟨0, 0, 3, .vreg 1 1 0⟩]) ∧
    (∀ e ∈ [Eff.qreg 1 1 1, .flags 1, .push false 0, .pop false 1, .counts [0, 63]], ((owing 2 e).stn 0).pend = [⟨0, 0, 2, e⟩]) ∧
    (∀ e ∈ [Eff.zeroRows 0 1, .setRow 0 63 false [], .setElem 0 63 127 none, .raise 63], ((owing 3 e).stn 0).pend = [⟨0, 0, 3, e⟩]) ∧
    lab.here.mat.fa.lines.length < 128 ∧ [0, 63].Nodup ∧ (∀ i ∈ [0, 63], i < 64) ∧
    (labWith fun x => { x with mat := { x.mat with fa := ⟨[⟨0, ⟨0, 0, 0⟩, false⟩], 0, 0⟩ } }).here.mat.fa.lines = [⟨0, ⟨0, 0, 0⟩, false⟩] := by
  decide +kernel

/-- One due write of a register of each kind that a statement names. -/
theorem witness_csr_writes :
    (∀ n ∈ [0x003, 0x00D, 0x011, 0x012, 0x10D, 0x111, 0x601, 0x500, 0x400, 0x402, 0x306], let h := (owing 1 (.csr n 5)).stn 0
      h.pend = [⟨0, 0, 1, .csr n 5⟩] ∧ (0 : Nat) ≤ (owing 1 (.csr n 5)).nom 0) := by decide +kernel

/-- Block 0 of one line in the block table, at cycle 9000. -/
def blocked (f : Station → Station) : State :=
  { labWith (fun x => f { x with sys := { x.sys with codecfg := 0x0001_0000_0000_0000#64 } }) with
    mem := ⟨[(bankKey 0 0 + 4, 1), (bankKey 0 0 + 7, 0x80)], [], [], []⟩, cyc := 9000 }

theorem witness_trap_entry :
    (let t : Trap := ⟨2, 0, 0, false, 1, ⟨1, 5, 3, none⟩⟩
     let s := blocked fun x => { x with trap := { x.trap with taking := some (t, 8990) } }; let h := s.stn 0
     h.trap.entering = false ∧ h.trap.taking = some (t, 8990) ∧ 8990 < s.nom 0 ∧ h.running = true ∧ h.pre.st ≠ .hold ∧
       s.pkg.rollbacks.contains (s.partOf 0, s.teamNo 0) = false ∧ s.drained 0 = true ∧ s.blockOk 0 (bitsOf h.trap.tvec 47 32) = true ∧
       t.mask < 128 ∧ t.cause < 256 ∧ t.at_.eng < 16 ∧ t.sub < 16 ∧ t.code < 2 ^ 32 ∧ t.at_.pc < 1024) ∧
    (let f : Fetch := ⟨0, 8995, 0, 1, true, 1, [], 0, false⟩
     let s := blocked fun x => { x with trap := { x.trap with entering := true }, run := { x.run with fetch := some f } }; let h := s.stn 0
     h.trap.entering = true ∧ h.run.fetch = some f ∧ f.fault = false ∧ f.whole 9000 = true ∧ f.whole 8999 = false) := by decide +kernel

theorem witness_group_ends :
    (let f : Fetch := ⟨0, 8995, 0, 1, true, 1, [], 0, false⟩
     let s := { blocked (fun x => { x with run := { x.run with fetch := some f } }) with todo := [.start 0 9001] }
     s.todo = [.start 0 9001] ∧ (s.stn 0).run.fetch = some f) ∧
    (let s := { blocked (fun x => { x with trap := { x.trap with tnom := 8990, inHandler := true } }) with todo := [.resume 0] }; let h := s.stn 0
     s.todo = [.resume 0] ∧ h.trap.held = [] ∧ h.trap.slipDue = none ∧ h.pre.st ≠ .pending ∧
       s.cyc < s.phase + 2048 * (s.frameOf h.trap.tnom + (if s.phase ≤ h.trap.tnom then 1 else 0)) + bitsOf h.sys.lagcfg 15 0) ∧
    ({ lab with todo := [.relag 0 3] }).todo = [.relag 0 3] := by decide +kernel

/-! ### Steps of the stations -/

/-- A fetch of one line whose lanes hold a stamp base, one conductor word, and nothing more; its words on their way into the ring; a line
with a bad lane; a ring that is full. -/
def fetching (buf : List Word) (code : Nat) (len : Nat) : State :=
  { labWith (fun x => { x with
      run := { x.run with fetch := some ⟨5, 0, 0, 1, true, if buf = [] then 0 else 1, buf, 0, false⟩ }
      streams := x.streams.setIfInBounds 0 { x.streams[0] with len1 := len } }) with
    cyc := 9000, mem := memo [(0, leBytes 4 code)] }

theorem witness_fetch_lines :
    let lanes := fun s : State => lineLanes (fun j => BitVec.ofNat 32 (s.mem.readLe (bankKey 0 (s.remap 0 .resident 0 + 4 * j)) 4)) 0 (s.stn 0).ringRoom
    let f := fun s : State => (s.stn 0).run.fetch
    f (fetching [] 0 0) = some ⟨5, 0, 0, 1, true, 0, [], 0, false⟩ ∧ 0 + 2 + 0 ≤ 9000 ∧ (0 : Nat) < 1 ∧ ¬9001 + 2 + 0 ≤ 9000 ∧
      (lanes (fetching [] 0x11 0)).toBool = true ∧ (match lanes (fetching [] 0x11 512) with
        | .ok _ => false
        | .error c => c == 5) = true ∧
      (lanes (fetching [] 0xC1 0)).toBool = false ∧ bitOf (lab.stn 0).sys.ftst 63 = false ∧
      ((lineLanes (fun i => ([0x11, 0, 5] : List Word).getD i 0) 0 ((fetching [0x11, 0, 5] 0x11 0).stn 0).ringRoom).toOption.map List.length) = some 1 ∧
      f (fetching [0x11, 0, 5] 0x11 0) ≠ none := by decide +kernel

theorem witness_issue_and_time :
    let s := blocked id; let h := s.stn 0
    h.stands = false ∧ s.mayIssue 0 = true ∧ s.faultDue 0 = false ∧ s.dueStreams 0 = [] ∧
      (blocked fun x => { x with pre := { x.pre with st := .hold } }).here.pre.st = .hold ∧
      (let s := blocked fun x => { x with run := { x.run with level := .task, lag := 3000 } }; let h := s.stn 0
       h.running = true ∧ h.run.level = .task ∧ h.trap.taking = none ∧
         ({ s with cyc := 2048 * 4 + 0x800 }).cyc = s.phase + 2048 * 4 + bitsOf h.sys.lagcfg 15 0 ∧
         ({ s with cyc := 2048 * 4 + 0x800 }).nom 0 < s.phase + 2048 * 4) ∧
      (let h := (blocked fun x => { x with trap := { x.trap with slipDue := some 9000 }, run := { x.run with level := .task } }).stn 0
       h.trap.slipDue = some 9000 ∧ h.running = true ∧ h.run.level = .task ∧ h.trap.taking = none) ∧
      (let h := (blocked fun x => { x with
         sys := { x.sys with tskcur := 0x4000_0000_0000_0000#64, budget := 0x4000_0000_0000_0001#64 } }).stn 0
       h.run.on = true ∧ bitOf h.sys.tskcur 62 = true ∧ bitOf h.sys.budget 62 = true ∧ bitsOf h.sys.budget 47 0 = 1 ∧ h.pre.st = .run) ∧
      (let s := { lab with cyc := 12, pkg := { lab.pkg with tags := lab.pkg.tags.set 0 ⟨0, 0, 0, some 12⟩ } }
       (s.tag 0).due = some 12 ∧ 12 ≤ s.cyc ∧ ¬s.cyc < 12) := by decide +kernel

/-! ### Accesses under way -/

/-- A line access of 8 bytes from byte 0 of a line: on the stack, of its own bank, or of the bank of station 1. -/
def partOf (stack own : Bool) (line : Nat) (op : TOp) (st : TStat) : TPart :=
  ⟨7, stack, own, if own then 0 else 1, line, List.range 8, 0, 8, 1, true, 0, 20, 0, 95, 100, 105, 20, 0, op, st, false, false, false, 0, false⟩

/-- Its access, at cycle c. -/
def accessing (c : Nat) (use : TUse) (p : TPart) : State :=
  { lab with cyc := c, txns := [⟨0, 1, 0, 0, none, 90, 90, .task, use, none, [p]⟩] }

/-- A request at its drive, a read of the stack, a write of the own bank, one of its ring words, an access of another lag, an atomic, a
reply at its drive. -/
theorem witness_timed_performances :
    let p := partOf true false 256 .read .sent; let s := accessing 100 (.load 3 8 false) p
    let w := partOf false true 256 (.write [(0, 1)] none) .atPort; let r := partOf false true 0xF_8000 (.write [(0, 1)] none) .sent
    ((s.findPart 7).map (·.2)) = some p ∧ s.cyc = p.arr ∧ s.hazard (s.lineKey .task p) p = 0 ∧ p.op = .read ∧ s.mem.soft = [] ∧ p.stack = true ∧
      s.cyc ≠ p.drive ∧ (accessing 95 .none p).cyc = p.drive ∧ (accessing 95 .none p).stage 0 0 0 = none ∧
      (accessing 100 .none w).hazard ((accessing 100 .none w).lineKey .task w) w = 0 ∧ w.own = true ∧ [((0 : Nat), (1 : Byte))].Nodup = (True) ∧
      (accessing 100 .none r).hazard ((accessing 100 .none r).lineKey .task r) r = 5 ∧ lab.here.trap.taking = none ∧ lab.here.trap.halted = false ∧
      (let q := partOf false false 256 .read .sent
       ¬(q.stack = true ∨ q.own = true ∨ q.lag = ((accessing 100 .none q).onStn 1 (runs fun r => { r with lag := 1 }) |>.stn 1).run.lag % 2 ^ 24)) ∧
      (accessing 100 .none (partOf true false 256 (.atomic ⟨0, 8, false, 1, 0⟩) .sent)).hazard 256 (partOf true false 256 (.atomic ⟨0, 8, false, 1, 0⟩) .sent) = 0 ∧
      (accessing 105 .none p).cyc = p.reply ∧ (accessing 105 .none p).stage 0 p.back 103 = none := by
  simp only [List.nodup_cons, List.not_mem_nil, not_false_iff, List.nodup_nil, and_self]
  decide +kernel

/-- A load that has been performed, a bay whose access was refused, a line of a tap that finds room and one that does not, and a slack read
inside and outside the window. -/
theorem witness_timed_deliveries :
    (let p := partOf true false 256 .read .done; let s := accessing 105 (.load 3 8 false) p
     ((s.findPart 7).map (·.2)) = some p ∧ p.id = 7 ∧ p.st = .done ∧ p.lost = false ∧ p.poison = false ∧ p.len = 8) ∧
    (let p := partOf true false 256 .read (.refused 3)
     p.st = .refused 3 ∧ (accessing 105 (.bay 15) p).here.trap.taking = none ∧ (accessing 105 (.bay 15) p).here.trap.halted = false) ∧
    (∀ n ∈ [127, 128],
      let s := labWith fun x => { x with pend := [⟨0, 0, 4, .tapFifo false 1 ⟨0, 0, 0⟩ ⟨6, 0, 0, none⟩⟩], mat := { x.mat with fa := ⟨List.replicate n ⟨0, ⟨0, 0, 0⟩, false⟩, 0, 0⟩ } }
      (s.here.pend = [⟨0, 0, 4, .tapFifo false 1 ⟨0, 0, 0⟩ ⟨6, 0, 0, none⟩⟩]) ∧ (s.here.fifo false).lines.length = n) ∧
    (let s := labWith fun x => { x with tap := { x.tap with slack := some ⟨0, 3, 5, 1, ⟨6, 0, 0, none⟩, none⟩ } }
     s.here.tap.slack = some ⟨0, 3, 5, 1, ⟨6, 0, 0, none⟩, none⟩ ∧ ({ s with cyc := 2048 * 3 }).inWindow 3 = true ∧
       ({ s with cyc := 2048 * 40 }).inWindow 3 = false) := by decide +kernel

/-- An access that is to report in a cycle in which another of its lines has reported, and in a later one. -/
theorem witness_access_outcomes :
    let p := partOf true false 256 .read (.refused 3); let own : Trap := ⟨0x07, 4, 0, true, 1, ⟨1, 0, 0, none⟩⟩
    let s := (accessing 105 (.bay 15) p).onStn 0 fun x => { x with trap := { x.trap with taking := some (own, 105) } }
    let t := { s with txns := s.txns.map fun (x : Txn) => { x with reported := some 105 } }
    (∀ x ∈ t.txns, x.reported = some t.cyc ∧ x.eng = 1 ∧ x.parts = [p] ∧ x.use = .bay 15) ∧ t.nom 0 = 105 ∧ (t.stn 0).trap.taking = some (own, t.nom 0) ∧
      (t.stn 0).trap.halted = false ∧ ({ t with cyc := 106 }).cyc ≠ 105 := by decide +kernel

/-- A station with one timed copy of one piece, which has been read. -/
def pieced (m : CopyCmd) (p : Piece) : State :=
  { labWith (fun x => { x with ch := x.ch.setIfInBounds 0 { x.ch[0] with cmds := [m], pieces := [p] } }) with cyc := 100 }

/-- A timed copy of 8 bytes whose one piece has been issued, and its piece. -/
def moving : CopyCmd := ⟨3, 0, true, 0, 0, 0, 0, 0, 8, 0, false, none, none, ⟨0, 0, 0⟩, 0, 0, false, [], 1, 100, 1, .task, false⟩
def movingPiece : Piece := ⟨3, 0, [(bankKey 0 0, 8)], [(bankKey 0 256, 8)], (0, 0), 0, 8, none, none, 0, 0, false, 1⟩

/-- A timed copy whose piece is due to be written; one whose blocks wait for their scale unit behind a trap; one whose last line is
written. -/
theorem witness_copy_writes :
    let m := moving; let p := movingPiece
    (let w := { p with data := some (leBytes 8 5), wdue := 100 }; let s := pieced m w; let c := s.chan 0 0
     s.channelStill 0 0 = false ∧ (∀ p ∈ c.pieces, p.raw = none) ∧ w.wdue ≤ s.pieceNow 0 ∧ w.written = false ∧
       c.cmds.find? (fun m => m.id == w.cmd && m.dkind == 0) = some m ∧ s.here.run.lag = 0 ∧ (leBytes 8 5).length = (w.dst.map (·.2)).sum ∧
       c.cmds.find? (fun m => m.timed && decide (m.nextPiece < m.nPieces)) = none) ∧
    (let m := { m with convert := true, ssu := some 2, srcFmt := 12, dstFmt := 1 }; let w := { p with raw := some (leBytes 8 5) }
     let s := (pieced m w).onStn 0 fun x => { x with trap := { x.trap with inHandler := true } }
     (s.chan 0 0).pieces = [w] ∧ (s.chan 0 0).cmds = [m] ∧ s.channelStill 0 0 = true) ∧
    (let r := { partOf false true 256 (.write [(0, 5)] none) .sent with arr := 100 }; let w := { p with data := some (leBytes 8 5), written := true }
     let s := { pieced m w with txns := (accessing 100 (.copyWrite 0 3 0) r).txns }
     ((s.findPart 7).map (·.2)) = some r ∧ s.cyc = r.arr ∧ r.own = true ∧ s.hazard (s.lineKey .task r) r = 0 ∧ r.poison = false ∧ s.mem.wf = true ∧
       (s.chan 0 0).cmds = [m] ∧ m.done = [] ∧ w.pos = 0 ∧ w.pos + w.len ≤ m.len ∧ (s.chan 0 0).wp.toNat ≤ m.start + w.pos ∧
       bitOf (s.part (s.partOf 0)).smpcfg 59 = false ∧ w.left ≤ 1 ∧ 1 < ({ w with left := 2 }).left) := by decide +kernel

/-- A timed copy whose read has come back, with and without a conversion, and lost. -/
theorem witness_copy_reads :
    ∀ f ∈ [false, true], ∀ lost ∈ [false, true], let p := movingPiece; let m := { moving with convert := f, srcFmt := if f then 9 else 0, dstFmt := if f then 8 else 0 }
      let r := { partOf false true 0 .read .done with lost := lost }; let s := { pieced m p with txns := (accessing 100 (.copyRead 0 3 0) r).txns }
      ((s.findPart 7).map (·.2)) = some r ∧ (∀ x ∈ s.txns, x.parts = [r] ∧ x.use = .copyRead 0 3 0) ∧ (s.chan 0 0).cmds.find? (·.id == 3) = some m ∧
        (s.chan 0 0).pieces.find? (fun p => p.cmd == 3 && p.idx == 0) = some p := by decide +kernel

/-- A timed fill of FIFO A whose one line is due, with room and without. -/
theorem witness_fifo_lines :
    ∀ n ∈ [0, 128],
      let m : CopyCmd := ⟨3, 1, true, 0, 0, 0, 0, 0, 256, 1, false, none, none, ⟨0, 0, 0⟩, 0, 0, false, [], 1, 100, 1, .task, false⟩
      let p : Piece := ⟨3, 0, [(bankKey 0 0, 256)], [], (0, 0), 0, 256, none, some (leBytes 256 5), 98, 0, false, 0⟩
      let s := (pieced m p).onStn 0 fun x => { x with mat := { x.mat with fa := ⟨List.replicate n ⟨0, ⟨0, 0, 0⟩, false⟩, 0, 0⟩ } }
      (s.chan 0 0).cmds = [m] ∧ p.pos + 256 ≤ m.len ∧ (s.chan 0 0).pieces.filter (fun q => q.cmd == m.id && decide (p.pos ≤ q.pos) &&
        decide (q.pos < p.pos + 256)) = [p] ∧ p.data = some (leBytes 256 5) ∧ (leBytes 256 5).length = 256 ∧ p.wdue + 1 ≤ s.pieceNow 0 ∧
        ({ s with cyc := 98 }).pieceNow 0 < p.wdue + 1 ∧ (s.here.fifo false).lines.length = n ∧ s.here.trap.taking = none := by decide +kernel

/-- A slack read whose channel is taken, and one whose channel is not. -/
theorem witness_slack_reads :
    let ph := Phys.stack ((lab.rline 0).slotAddr 3 5 + 256)
    lab.placeTaken ph = false ∧ (lab.serve ph).placeTaken ph = true ∧ lab.mem.soft = [] := by decide +kernel

/-- A timed copy with one piece from its own bank, before and at its turn. -/
theorem witness_timed_pieces :
    let m : CopyCmd := ⟨3, 0, true, 0, 0, 0, 0, 0, 8, 0, false, none, none, ⟨0, 0, 0⟩, 0, 0, false, [], 0, 100, 1, .task, false⟩
    let p : Piece := ⟨3, 0, [(bankKey 0 0, 8)], [(bankKey 0 256, 8)], (0, 0), 0, 8, none, none, 0, 0, true, 0⟩
    let s := { labWith (fun x => { x with ch := x.ch.setIfInBounds 0 { x.ch[0] with cmds := [m], pieces := [p] } }) with cyc := 100 }
    let c := s.chan 0 0
    s.channelStill 0 0 = false ∧ c.cmds.find? (fun m => m.timed && decide (m.nextPiece < m.nPieces)) = some m ∧ (∀ p ∈ c.pieces, p.raw = none) ∧
      (c.pieces.filter fun p => !p.written && decide (p.wdue ≤ s.pieceNow 0)) = [] ∧ s.here.noPieces = false ∧
      c.pieces.find? (fun p => p.cmd == m.id && p.idx == m.nextPiece) = some p ∧ s.here.run.lag = 0 ∧ m.firstNom + m.nextPiece ≤ s.nom 0 ∧
      ({ s with cyc := 99 }).nom 0 < m.firstNom + m.nextPiece := by decide +kernel

/-! ### Untimed operations -/

/-- Object 1 of partition 0: one page, stack frame 5, with a leaf entry of residency r. -/
def paged (r : Nat) : State :=
  { (lab.onPart 0 fun q => { q with otcfg := BitVec.ofNat 64 (8 * 2 ^ 34), pstk := BitVec.ofNat 64 (7 * 2 ^ 32) }) with
    cyc := 50
    mem := (Memory.reset.writeN 32 (leBytes 32 (2 ^ 63 + 2 ^ 60 + 65536 * 2 ^ 64 + 2 * 2 ^ 143))).writeN 65536
      (leBytes 16 (5 + 2 ^ 56 + 3 * 2 ^ 110 + r * 2 ^ 108)) }

theorem witness_object_tables :
    (paged 2).look 0 1 0 16 = .at_ (.stack (5 * 65536)) (5 + 2 ^ 56 + 3 * 2 ^ 110 + 2 * 2 ^ 108) 65536 ∧
      (paged 1).look 0 1 65535 1 = .at_ (.stack (5 * 65536 + 65535)) (5 + 2 ^ 56 + 3 * 2 ^ 110 + 2 ^ 108) 65536 ∧
      (paged 3).look 0 1 0 1 = .transit ∧ (paged 0).look 0 1 0 1 = .fault 4 ∧ (paged 2).look 0 1 65535 2 = .fault 2 ∧
      (paged 2).look 0 2 0 1 = .fault 1 := by decide +kernel

/-- An operation of station 0 with one piece of 8 bytes of object 1. -/
def untimed (r : Nat) (o : Owner) (write : Bool) (st : UStat) : State :=
  { paged r with uops := [{ (paged r).newUOp o with
    id := 7, issue := 0, rq := 0, wq := 8, src := if write then none else some ⟨0, 1, 0⟩, dst := if write then some ⟨0, 1, 0⟩ else none,
    pieces := [{ UPiece.plain 0 0 8 0 [] with st := st }] }] }

/-- A read for a landing bay that is ready, one of a page that is absent, one whose bytes it holds already. -/
theorem witness_untimed_parts :
    (∀ r ∈ [1, 2, 0], let s := untimed r (.rld 15 8) false .idle
      ∀ u ∈ s.uops, s.uops.find? (·.id == 7) = some u ∧ s.serving 7 = none ∧ s.partReady u 0 false = true ∧ u.dead = false ∧
        u.owner = .rld 15 8 ∧ u.convert = false ∧ 8 = 0 + (s.partAt u (UPiece.plain 0 0 8 0 []) false).2.2) ∧
    (let s := untimed 2 (.rld 15 8) false .held; ∀ u ∈ s.uops, s.partReady u 0 false = false) ∧
    (lab.here.bay 0).st ≠ .pending ∧ (lab.here.bay 15).st = .pending ∧ lab.redirect 0 0 0 = none ∧
    (let e : Redirect := ⟨4, 0, 15, 6, none⟩; let s := { lab with pkg := { lab.pkg with redirects := [e] } }
     s.redirect 4 0 15 = some e ∧ s.awaiting 0 15 (some 4) = none) ∧
    (let r : HostReq := ⟨.rdCurr, 9, 7, 0, false, 0, 8, none, [], none⟩
     let s := { untimed 2 (.copy 0 0) false .reading with pkg := { lab.pkg with hostl := ⟨0, 0, [r]⟩ } }
     s.pkg.hostl.waiting.find? (·.id == 9) = some r ∧ r.piece = 0 ∧ s.serving r.op = none ∧ r.atom = none ∧ r.write = false) ∧
    (let p : UPiece := { UPiece.plain 0 0 8 0 (leBytes 8 5) with st := .reading, sent := 8 }
     let s := untimed 2 (.copy 0 0) false .idle
     p.waitsUnit = true ∧ (UPiece.plain 0 0 8 0 []).waitsUnit = false ∧
       ∀ u ∈ s.uops, s.cfmtOf { u with convert := true, pieces := [p] } = 0 ∧ s.serving 7 = none) ∧
    (let p : UPiece := { UPiece.plain 0 0 8 0 [] with st := .reading, stop := some 0 }
     let s := { untimed 2 (.copy 0 0) false .idle with uops := (untimed 2 (.copy 0 0) false .idle).uops.map fun (u : UOp) => { u with pieces := [p] } }
     s.stops 0 = [(0, 7, 0)]) ∧
    lab.stops 0 = [] ∧ (∀ n : Fin 64, (lab.btc n.val).state ≠ 3) := by decide +kernel

/-- What a walk finds does not depend on what the port's cache keeps. -/
theorem witness_walk : ((paged 2).walk 0 0 1 0 8 false).1 = (paged 2).look 0 1 0 8 := by
  have c : ¬bitsOf ((paged 2).part 0).otcfg 55 34 ≤ 1 := by decide +kernel
  have n : (paged 2).pkg.cache = [] := by decide +kernel
  have q : (paged 2).mem.soft = [] := by decide +kernel
  rw [State.walk, if_neg c, n]
  simp only [List.find?_nil, State.walkTables, State.correctTables_quiet q]
  split <;> simp_all

/-- Channels that are idle, running, or hold a record; a chain capability that passes and one that does not. -/
theorem witness_block_transfers :
    let run : BtChan := { BtChan.reset with ctl := 0x1000_0000_0000_0000#64, cur := Cap.make 0 1 0x7F 65536 0 true }
    run.state = 1 ∧ run.follows = true ∧ BtChan.reset.follows = false ∧ BtChan.reset.state ≠ 1 ∧ BtChan.reset.recs = [] ∧
      gives (capCheck run.cur 0 0 64 (Right.read ||| Right.write) true true) 0 = true ∧ 0 % 64 = 0 ∧ run.cur.node = (paged 2).nodeId ∧
      fails (capCheck Cap.null 0 0 64 (Right.read ||| Right.write) true true) 1 = true ∧
      ((List.range 4).all fun i => match (paged 2).granule 0 1 (16 * i) with
        | .ok (some k) => k == stackKey (5 * 65536 + 16 * i)
        | _ => false) = true ∧
      (paged 2).recordStatus 0 ⟨0, Cap.null, 0, false, 0, 0, 0, 0, 8, 0, some 1, false⟩ = some 1 ∧
      (untimed 2 (.bt 0 0) false .idle).recordStatus 0 ⟨0, Cap.null, 0, false, 0, 0, 0, 0, 8, 0, none, false⟩ = none ∧
      (let r : BtRec := ⟨0, Cap.make 0 1 0x7F 65536 0 true, 0, false, 0, 0, 0, 0, 8, 0, some 1, true⟩
       (paged 2).recordStatus 0 r = some 1 ∧ r.backing = true) := by decide +kernel

/-! ### The weight ring and the coachmen -/

/-- The transport of the ring, running, at cycle c; line 0 sends and has its input connected. -/
def ringing (c : Nat) : State :=
  { lab with
    cyc := c
    pkg := { lab.pkg with ring := { lab.pkg.ring with
      up := true
      lines := lab.pkg.ring.lines.set 0 { RingLine.reset with src := 0x8000_0000_0100_0000#64, cfg := 0x0000_0FFF_8004_0001#64 } } } }

theorem witness_ring_beats :
    lab.pkg.ring.up = false ∧ (ringing 9001).pkg.ring.up = true ∧ (ringing 9001).mem.soft = [] ∧ (ringing 9001).headAt.2 ≠ 0 ∧
      (ringing 8192).headAt.2 = 0 ∧ ((ringing 8192).rline 0).source = true ∧ ((ringing 8192).rline 0).inSel ≠ 2 ∧ (lab.rline 0).source = false ∧
      hdrPresent ((ringing 8192).modelAt 4) 0 0 = true ∧ ((ringing 9001).tailAt 0).2 ≠ 0 ∧ ((ringing 9001).rline 0).inject = none ∧
      (let r := { (ringing 9001).rline 0 with input := [(9001, 5, true)], judged := [(4, true, 9)] }
       r.input.find? (·.1 == 9001) = some (9001, 5, true) ∧ r.judged.find? (·.1 == 4) = some (4, true, 9)) ∧
      (let r := { (ringing 9001).rline 0 with fill := some 4 }
       r.source = true ∧ r.fills 4 = true ∧ r.fills 3 = false ∧ ((ringing 9001).rline 0).fills 4 = false ∧ r.inSel ≠ 2) ∧
      (ringing 9001).cyc + 64 ≤ (ringing 9001).fs 5 ∧ (ringing 9001).fs 4 < (ringing 9001).cyc + 64 := by decide +kernel

theorem witness_ring_states :
    (ringing 9001).pkg.ring.state = .run ∧ bitsOf (lab.pkg.ring.ringcfg) 63 56 ≠ 1 ∧ (ringing 9001).pkg.ring.up = true ∧
      ((ringing 9001).rline 0).inSel ≠ 2 ∧ ((queued 0).rline 0).inSel = 2 ∧ RingState.lost ≠ .bypass ∧ RingState.admitting ≠ .lost ∧
      (let s := { ringing 9001 with pkg := { lab.pkg with ring := { lab.pkg.ring with changes := [(1, 4, 9)] } } }
       s.pkg.ring.changes = [(1, 4, 9)] ∧ s.fs 4 ≤ s.cyc ∧ s.cyc < s.fs 5) ∧
      (lab.pkg.ring.buffer.find? (·.1 == 0)) = none ∧
      (let g : Staged := ⟨0, 0, none, 3⟩; let h := leNat ((leBytes 64 0).take 64)
       g.data = none ∧ nbits h 24 0 = g.line * 2 ^ 24 + g.idx ∧ nbits h 159 128 = bitsOf lab.pkg.ring.rmodel 31 0 ∧ nbits h 116 96 ≤ 2097088 ∧
         (crc32 []).toNat = nbits h 511 480) := by decide +kernel

/-- Station 0 alone is on the bench. -/
theorem labWith_other (f : Station → Station) (k : Stn) (h : k ≠ 0) : (labWith f).stn k = Station.reset := by
  exact (State.stn_onStn_ne State.reset (k := State.reset.cur.k) (fun x => f (bench x)) h).trans
    (by simp [State.stn, State.reset])

/-- A list of the stations of which only station 0 is chosen. -/
theorem only_first (P : Stn → Bool) (h0 : P 0 = true) (h : ∀ k, k ≠ 0 → P k = false) : allStns.filter P = [0] := by
  rw [allStns, List.finRange_succ, List.filter_cons_of_pos h0, List.filter_eq_nil_iff.mpr]
  intro k hk
  obtain ⟨j, -, rfl⟩ := List.mem_map.mp hk
  simp [h _ (Fin.succ_ne_zero j)]


theorem labWith_here (f : Station → Station) : (labWith f).stn 0 = f (bench Station.reset) :=
  (State.stn_onStn State.reset State.reset.cur.k fun x => f (bench x)).trans (by simp [State.stn, State.reset])

/-- A station of team 3. -/
def teamed (x : Station) : Station := { x with sys := { x.sys with teamid := 0x8000_0000_0000_0003#64 } }

/-- Station 0 in team 3, 64 cycles before frame 5, with a waybill entry for tag 0 of that team. -/
def boarding (up : Bool) (f : Station → Station) : State :=
  { labWith (fun x => f (teamed x)) with
    cyc := 10176
    pkg := { (ringing 0).pkg with
      ring := { (ringing 0).pkg.ring with up := up }
      coach := lab.pkg.coach.set 0 ⟨[(0, BitVec.ofNat 128 (2 ^ 127 + 3 * 2 ^ 112 + 2 ^ 64))], [], [], [], [], [], [], []⟩ } }

theorem boarding_teams (up : Bool) (f : Station → Station) (h : ∀ x, (f x).sys.teamid = x.sys.teamid ∧ (f x).run = x.run) :
    (boarding up f).clusterTeams 0 = [(0, 3)] ∧ (boarding up f).teamHere 0 0 3 = [0] := by
  have o (k : Stn) (hk : k ≠ 0) : (boarding up f).stn k = Station.reset := labWith_other (fun x => f (teamed x)) k hk
  have z : (boarding up f).stn 0 = f (teamed (bench Station.reset)) := labWith_here fun x => f (teamed x)
  have t : (boarding up f).teamOf 0 = some 3 := by simp only [State.teamOf, z, h]; rfl
  have n : ((boarding up f).stn 0).run.on = true := by rw [z, (h _).2]; decide +kernel
  have p : (boarding up f).partOf 0 = 0 := by rw [State.partOf, z, (h _).2]; decide +kernel
  constructor
  · rw [State.clusterTeams, only_first _ (by rw [n]; decide) (fun k hk => by rw [o k hk]; exact Bool.and_false _)]
    simp only [List.filterMap, t, p]; decide
  · exact only_first _ (by rw [n, t, p]; decide) (fun k hk => by rw [o k hk]; simp [Station.reset, Run.reset])

theorem witness_coachman_frames :
    (boarding true id).cyc + 64 = (boarding true id).fs 5 ∧ (∀ n, (boarding true id).cyc + 65 ≠ (boarding true id).fs n) ∧
      (boarding true id).teamAway [0] 5 = false ∧
      (boarding true fun x => { x with pre := { x.pre with st := .hold } }).teamAway [0] 5 = true ∧
      (let s := boarding true id
       ((s.coachman 0).matching [s.arrTag 0 5, s.arrTag 1 5] 0 3) = some (0, BitVec.ofNat 128 (2 ^ 127 + 3 * 2 ^ 112 + 2 ^ 64))) ∧
      wbCue (BitVec.ofNat 128 (2 ^ 127 + 3 * 2 ^ 112 + 2 ^ 64)) = false ∧
      (let s := boarding false id; ((s.coachman 0).matching [s.arrTag 0 5, s.arrTag 1 5] 0 3) = none) ∧
      (∀ way ∈ [false, true], let w : TableWrite := ⟨4, 0, 0, way, 0, 0, 0, 0, 0, 0⟩
       w.stn < 384 ∧ w.way = way ∧ ((boarding true id).coachman 0).waybill.Pairwise (fun x y => x.1 < y.1) ∧
         ((boarding true id).coachman 0).records.Pairwise (fun x y => x.1 < y.1)) ∧
      (let b : Boarding := ⟨4, 1, [7], 0, 0, 0⟩; let s := boarding true fun x => { x with boardings := [b] }
       s.boardingHeld 0 = [] ∧ s.boardingDue 0 = [b] ∧ b.map.length ≤ 64 ∧ ∀ x ∈ b.map, x < 2 ^ 16) ∧
      (boarding true id).boardingDue 0 = [] ∧
      (let s := boarding true fun x => { x with trap := { x.trap with inHandler := true }, boardings := List.replicate 33 ⟨4, 1, [7], 0, 0, 0⟩ }
       33 ≤ (s.boardingHeld 0).length) := by
  refine ⟨rfl, fun n h => ?_, ?_⟩
  · have : (10176 : Nat) + 65 = 0 + 2048 * n := h
    omega
  · decide +kernel

/-! ### Pre-emption and recovery -/

/-- A running station with changes of its state of pre-emption, at cycle c. -/
def preempted (c : Nat) (p : Preempt → Preempt) (f : Station → Station) : State := { blocked (fun x => f { x with pre := p x.pre }) with cyc := c }

theorem preempted_other (c : Nat) (p : Preempt → Preempt) (f : Station → Station) (k : Stn) (h : k ≠ 0) :
    (preempted c p f).stn k = Station.reset :=
  labWith_other (fun x : Station =>
    let y : Station := { x with sys := { x.sys with codecfg := 0x0001_0000_0000_0000#64 } }
    f { y with pre := p y.pre }) k h

/-- A team that waits for its resumption. -/
def resuming : State := preempted 9000 (fun p => { p with st := .restore, loaded := true, resumeAt := some 9000, team := 1024 }) id

theorem resuming_team : resuming.restoring 0 1024 = [0] := by
  have o (k : Stn) (hk : k ≠ 0) : resuming.stn k = Station.reset := preempted_other _ _ _ k hk
  exact only_first _ (by decide +kernel) fun k hk => by rw [o k hk]; simp [Station.reset, Run.reset]

theorem witness_preemptions :
    let pending := fun p : Preempt => { p with st := .pending, frame := 4 }
    (preempted 9000 id id).ckptAct 0 = none ∧ (preempted 9000 pending id).ckptAct 0 = some (.hold 4) ∧
      ((preempted 9000 pending id).stn 0).unclean = false ∧
      (preempted 9000 pending fun x => { x with pend := [⟨9999, 0, 1, .sreg 3 7⟩] }).ckptAct 0 = some (.hold 4) ∧
      ((preempted 9000 pending fun x => { x with pend := [⟨9999, 0, 1, .sreg 3 7⟩] }).stn 0).unclean = true ∧
      (preempted 8193 pending fun x => { x with run := { x.run with level := .task, lag := 3000 } }).ckptAct 0 = some (.lag 4) ∧
      (let h := (preempted 9000 (fun p => { p with st := .hold, haltAt := 9000 }) id).stn 0; h.pre.st = .hold ∧ h.pre.haltAt ≤ 9000) ∧
      bitOf (lab.stn 0).trap.tvec 63 = false ∧
      (let h := resuming.stn 0; h.pre.loaded = true ∧ h.pre.resumeAt = some 9000 ∧ 9000 ≤ resuming.cyc ∧ h.trap.taking = none) ∧
      ({ resuming with cyc := 8999 }).cyc < 9000 := by decide +kernel

/-- A save that may begin, with and without a record to look up, one whose lines are written, one that waits for its lines. -/
theorem witness_saves :
    let at_ := fun (n : Nat) (full : Bool) => preempted 9000 (fun p => { p with st := .halted, stage := n, full := full }) id
    let job : LineJob := ⟨0, 0, 0, .station 0, .stack 0, 64, .gather 0⟩
    (at_ 0 false).saveGoes 0 = true ∧ ((at_ 0 false).manifestNeeds 0 0).isSome = true ∧ (at_ 0 true).saveGoes 0 = true ∧
      ((at_ 0 true).stn 0).pre.full = true ∧ (at_ 8 false).saveGoes 0 = true ∧
      ({ at_ 8 false with pkg := { lab.pkg with jobs := [job] } }).saveGoes 0 = false ∧ (preempted 9000 id id).saveGoes 0 = false ∧
      (at_ 0 true).placeTaken job.ph = false ∧ ((at_ 0 true).serve job.ph).placeTaken job.ph = true ∧ (at_ 0 true).jobReady job = true ∧
      (let s := { at_ 0 true with pkg := { lab.pkg with jobs := [job, { job with id := 1, ph := .stack 64, use := .store [1] [] }] } }
       s.pkg.jobs.find? (·.id == 1) = some { job with id := 1, ph := .stack 64, use := .store [1] [] } ∧ (64 : Nat) / 256 = 0 / 256 ∧
         s.jobReady { job with id := 1, ph := .stack 64, use := .store [1] [] } = false) := by decide +kernel

/-- A load of a checkpoint image in each of its stages, one of no image, one that waits behind a fence. -/
theorem witness_loads :
    let at_ := fun (n : Nat) (k : Byte) =>
      let s := preempted 9000 (fun p => { p with st := .restore, stage := n, loadAt := 9000, team := 1024 }) fun x => { x with trap := { x.trap with tvec := 0 } }
      { s with pkg := { s.pkg with lines := [⟨.station 0, 0, leBytes 7 0 ++ [k], []⟩] } }
    (∀ n ∈ [0, 1, 2, 3, 4], (at_ n 0x10).loadGoes 0 = true ∧ ((at_ n 0x10).stn 0).pre.stage = n) ∧ (at_ 1 0x10).gotNat 0 0 64 / 2 ^ 60 % 16 = 1 ∧
      (at_ 1 0).gotNat 0 0 64 / 2 ^ 60 % 16 = 0 ∧ (at_ 2 0x10).mem.soft = [] ∧ ((at_ 2 0x10).stn 0).pre.roll = false ∧
      ((at_ 4 0x10).stn 0).run.on = true ∧ (preempted 9000 id id).loadGoes 0 = false ∧
      (let s := { at_ 1 0x10 with pkg := { (at_ 1 0x10).pkg with svc := { lab.pkg.svc with fenced := [(0, 1024)] } } }
       s.parked 0 = true ∧ s.loadGoes 0 = false) ∧ (at_ 1 0x10).parked 0 = false := by decide +kernel

/-- A station that takes recovery points every frame, at cycle c. -/
def pointing (c : Nat) (f : Station → Station) : State :=
  { blocked (fun x => f { x with trap := { x.trap with rpcfg := 0x8000_0001_0000_0000#64 } }) with cyc := c }

theorem witness_recovery_points :
    (pointing 8192 id).ckptAct 0 = some (.point 4) ∧
      (∀ n ∈ [0, 8], ∀ full ∈ [false, true], let s := pointing 9000 fun x => { x with
         pre := { x.pre with rp := 1, stage := n, rpFull := full }, regs := { x.regs with bays := Vector.replicate 16 ⟨0, .idle, false⟩ } }
       s.pointGoes 0 = true ∧ (s.stn 0).pre.stage = n ∧ (s.stn 0).pre.rpFull = full ∧ (s.manifestNeeds 0 0).isSome = (n == 0)) ∧
      (pointing 9000 id).pointGoes 0 = false ∧ (pointing 9000 fun x => { x with pre := { x.pre with rp := 2 } }).mayCommit 0 1024 = true ∧
      (pointing 9000 id).mayCommit 0 1024 = false ∧ (pointing 9000 id).team 0 1024 = [0] ∧
      (let s := { pointing 9000 id with pkg := { lab.pkg with rollbacks := [(0, 1024)] } }; let z := s.stopWork 0
       (0, 1024) ∈ s.pkg.rollbacks ∧ z.teamQuiet [0] = true ∧ bitOf (z.stn 0).trap.rpst 62 = false) ∧
      (let s := { pointing 9000 (fun x => { x with trap := { x.trap with rpst := 0x4000_0000_0000_0000#64 } }) with
         pkg := { lab.pkg with rollbacks := [(0, 1024)] } }; let z := s.stopWork 0
       z.teamQuiet [0] = true ∧ bitOf (z.stn 0).trap.rpst 62 = true ∧ bitOf (z.stn 0).trap.exlst 63 = false) ∧
      (let s := { untimed 2 (.copy 0 0) false .reading with
         pkg := { lab.pkg with rollbacks := [(0, 1024)], hostl := ⟨0, 0, [⟨.rdCurr, 9, 7, 0, false, 0, 8, none, [], none⟩]⟩ } }
       (0, 1024) ∈ s.pkg.rollbacks ∧ (s.stopWork 0).teamQuiet [0] = false) := by decide +kernel

/-! ### Signals and the host -/

/-- A station whose oldest signal has the form given. -/
def signalling (form : Nat) (fl : List (Sig × Nat)) : State :=
  { labWith (fun x => { x with sigs := [⟨0, form, 63, Cap.make 0 1 0x7F 65536 0 true, 5, .task⟩], flagStores := fl }) with cyc := 100 }

/-- The host window open on object 1. -/
def window (place : Nat) (h : DWord) : State :=
  { paged 2 with
    pkg := { (paged 2).pkg with hostl := ⟨0x8000_0000_0000_0000#64 ||| h, 0, []⟩ }
    mem := (paged 2).mem.writeN 65536 (leBytes 16 (5 + 2 ^ 56 + 3 * 2 ^ 110 + 2 * 2 ^ 108 + place * 2 ^ 106)) }

theorem witness_signals_and_host :
    (∀ form ∈ [0, 1, 2], ((signalling form []).sigReady 0).isSome = true) ∧ lab.sigReady 0 = none ∧ bitOf (lab.stn 0).trap.exlst 62 = false ∧
      bitOf (lab.stn 0).trap.exlcfg 63 = false ∧ lab.flagReady 0 = none ∧
      ((signalling 0 [(⟨0, 2, 0, Cap.null, 0, .task⟩, 1)]).flagReady 0) = some (⟨0, 2, 0, Cap.null, 0, .task⟩, 1) ∧
      (let v : DWord := 0x8000_0300_0000_0000#64
       bitOf v 63 = true ∧ bitsOf v 56 48 ≠ bitsOf v 47 40 + 1 ∧ (leBytes 64 5).length = 64 ∧ bitsOf (0x8004_0300_0000_0000#64) 56 48 = bitsOf v 47 40 + 1) ∧
      (match (window 3 1).windowAt 8 8 false with
        | .ok e => leafPlace e == 3
        | _ => false) = true ∧
      (match (window 2 1).windowAt 8 8 true with
        | .ok e => leafPlace e != 3
        | _ => false) = true ∧
      ((window 3 2).windowAt 8 8 true).toBool = false ∧ (lab.windowAt 8 8 true).toBool = false ∧
      (let q := { (lab.part 0) with tlcfg := 0x8000_0000_0000_0000#64, smpcfg := 0x8000_0001_0000_0010#64 }
       let s := { labWith id with pkg := { lab.pkg with parts := lab.pkg.parts.set 0 q }, cyc := 16 }
       s.sampleDue 0 = true ∧ ({ s with cyc := 17 }).sampleDue 0 = false ∧ bitsOf q.smpcfg 34 32 = Engine.conductor.code ∧
         (bitsOf q.tlhead 20 0 + 2 ^ 21 - bitsOf q.tltail 20 0) % 2 ^ 21 < 2 ^ (bitsOf q.tlcfg 59 56 + 8)) := by decide +kernel

/-- A window access under way. -/
def windowing (o : Owner) (write : Bool) (p : UPiece) : State :=
  { window 3 1 with cyc := 50, uops := [{ (window 3 1).newUOp o with
    id := 7, issue := 0, level := .task, src := if write then none else some ⟨0, 1, 0⟩, dst := if write then some ⟨0, 1, 0⟩ else none, pieces := [p] }] }

theorem witness_window_parts :
    (∀ c ∈ [(Owner.window none true, false, UPiece.plain 0 0 8 0 []),
        (.window none false, true, { UPiece.plain 0 0 8 0 (leBytes 8 5) with st := .held }),
        (.window (some ⟨0, 8, false, 1, 0⟩) false, true, UPiece.plain 0 0 8 0 [])],
      let s := windowing c.1 c.2.1 c.2.2
      ∀ u ∈ s.uops, s.uops.find? (·.id == 7) = some u ∧ u.owner = c.1 ∧ u.pieces = [c.2.2] ∧ s.serving 7 = none ∧ c.2.2.waitsUnit = false ∧
        s.partReady u 0 c.2.1 = true ∧ u.pinned = none ∧ u.dead = false ∧ s.mem.soft = [] ∧ s.mem.poison = [] ∧ u.convert = false ∧
        (s.partAt u c.2.2 c.2.1).2 = (0, 8) ∧
        (match s.look 0 1 0 8 with
          | .at_ (.stack a) e l => a == 5 * 65536 && leafPlace e == 3 && l == 65536
          | _ => false) = true) ∧
      leafPlace ((window 3 1).stackNat 65536 16) = 3 := by decide +kernel

/-- Station 0 alone has started in its partition. -/
theorem witness_sampled_station : (allStns.filter fun k => ((labWith id).stn k).run.part == 0 && ((labWith id).stn k).started) = [0] :=
  only_first _ (by decide +kernel) fun k hk => by rw [labWith_other id k hk]; decide +kernel

/-! ### Steps of the fabric engine and of graphs -/

/-- A command of station 0. -/
def fcmdOf (op : Nat) (acc : Bool) (st : Nat) : FCmd :=
  ⟨3, 0, 0, op, 0, 0, [], 1, 1, 0, 0, acc, st, 0, false, 0, if op = 1 then some 15 else none, some 5, 0, false, .task⟩

/-- A package of the fabric with plane 2 up, at cycle 100. -/
def linked (f : Fabric → Fabric) (g : GSlot → GSlot) (u : List UOp) : State :=
  { paged 2 with
    cyc := 100, uops := u
    pkg := { (paged 2).pkg with
      fab := f { (paged 2).pkg.fab with fplane := 4 }
      graphs := (paged 2).pkg.graphs.set 0 (g { GSlot.reset with part := some 0, members := [9, 8], group := 6 }) } }

/-- A packet of node 9. -/
def packetOf (seq cls opk rseq : Nat) (data : List Byte) : Packet :=
  ⟨9, 0, 2, seq, cls, opk, 9, 1, 0, false, 0, 0, rseq, 0, 1, 0, 0, 8, 0, 0, 0, 0, [], 0, false, false, data, 0⟩

/-- An unanswered packet to node 9 of part 0 of operation 7. -/
def unansweredOf (opk : Nat) : Unacked :=
  ⟨{ packetOf 4 0 opk 0 [] with src := 0, dst := 9 }, 50, 50, 0, 7, 0, none, none, none⟩

/-- An operation with one part of 8 bytes. -/
def partWith (o : Owner) (st : UStat) : UOp := { (paged 2).newUOp o with id := 7, pieces := [{ UPiece.plain 0 0 8 0 [] with st := st }] }

theorem witness_fabric_commands_accepted :
    lab.acceptable = none ∧ (∀ op ∈ [0, 5, 6, 7, 8, 14], (linked (fun f => { f with cmds := [fcmdOf op false 0] }) id []).acceptable = some (fcmdOf op false 0)) ∧
      bitOf ((linked id id []).part 0).smpcfg 61 = false ∧ ((linked id id []).slot 0).st = .empty ∧ GState.empty ≠ .running ∧
      ((linked id (fun g => { g with st := .idle }) []).slot 0).st = .idle ∧ nbits 0 61 61 = 0 ∧ (linked id id []).pkg.ring.buffer = [] ∧
      lab.fcmd 3 = none ∧ (linked (fun f => { f with cmds := [fcmdOf 1 true 0] }) id []).fcmd 3 = some (fcmdOf 1 true 0) ∧
      (linked (fun f => { f with cmds := [fcmdOf 1 true 0] }) id []).cmdEnd (fcmdOf 1 true 0) = none ∧
      (linked (fun f => { f with cmds := [fcmdOf 1 true 3] }) id []).cmdEnd (fcmdOf 1 true 3) = some (3, 0) ∧
      (linked id id []).redirect 0 0 15 = none ∧ (((linked id id []).stn 0).bay 15).st = .pending := by decide +kernel

theorem witness_packets :
    (let s := linked (fun f => { f with unacked := [unansweredOf 2] }) id [partWith (.rld 15 8) .reading]
     s.pkg.fab.unacked[1]? = none ∧ s.pkg.fab.unacked[0]? = some (unansweredOf 2) ∧ s.nextPlane (s.peer 9).plane = some 2 ∧
       (unansweredOf 2).fwd = none ∧ (unansweredOf 2).piece = 0 ∧ s.uops.find? (·.id == 7) = some (partWith (.rld 15 8) .reading) ∧
       (partWith (.rld 15 8) .reading).convert = false ∧
       (let find := fun x : Packet => s.pkg.fab.unacked.find? fun u => u.pkt.dst == x.src && u.pkt.seq == x.rseq
        (packetOf 0 1 0x10 4 []).cls = 1 ∧ (packetOf 0 1 0x10 4 []).rsv = 0 ∧ { packetOf 0 1 0x10 4 [] with rsv := 1 }.rsv % 2 ^ 18 ≠ 0 ∧
          find (packetOf 0 1 0x10 4 (leBytes 8 5)) = some (unansweredOf 2) ∧ find (packetOf 0 1 0x12 4 []) = some (unansweredOf 2) ∧
          find (packetOf 0 1 0x10 5 []) = none)) ∧
    (let s := linked (fun f => { f with unacked := [unansweredOf 1] }) id [partWith (.fabric 3) .writing]
     (s.pkg.fab.unacked.find? fun u => u.pkt.dst == 9 && u.pkt.seq == 4) = some (unansweredOf 1) ∧ (unansweredOf 1).pkt.opk = 1 ∧
       (partWith (.fabric 3) .writing).dead = false ∧ (partWith (.fabric 3) .writing).pieces.map (·.dstLen) = [0 + (unansweredOf 1).pkt.len]) := by
  decide +kernel

/-- Object 1 open to partition 1 of node 9. -/
def served : State :=
  let s := linked id id []
  { s.onPart 0 fun q => { q with on := true, bindings := [(9, 1)] } with
    mem := s.mem.writeN 32 (leBytes 32 (2 ^ 63 + 2 ^ 62 + 2 ^ 60 + 65536 * 2 ^ 64 + 2 * 2 ^ 143)) }

theorem witness_requests :
    (packetOf 0 0 2 0 []).cls = 0 ∧ (packetOf 0 0 2 0 []).rsv = 0 ∧ (∀ u ∈ served.uops, u.id ≠ served.nextId) ∧ descBad (served.descriptor 0 1) 0 = false ∧ served.pkg.fab.serving = [] ∧ (served.peer 9).held = [] ∧ (1 + 65536 - (served.peer 9).expect.toNat) % 65536 = 1 ∧
      (65535 + 65536 - (served.peer 9).expect.toNat) % 65536 = 65535 ∧ (0 + 65536 - (served.peer 9).expect.toNat) % 65536 = 0 ∧
      served.planeUp 2 = true ∧ served.uops = [] ∧ served.boundPart 9 1 = some 0 ∧ lab.boundPart 9 1 = none ∧ 1 < bitsOf (served.part 0).otcfg 55 34 ∧
      descV (served.descriptor 0 1) = true ∧ descPeer (served.descriptor 0 1) = true ∧ 0 + 8 ≤ descLen (served.descriptor 0 1) ∧
      served.look 0 1 0 8 = .at_ (.stack (5 * 65536)) (5 + 2 ^ 56 + 3 * 2 ^ 110 + 2 * 2 ^ 108) 65536 := by
  decide +kernel

/-- The read of that request under way. -/
def serving : State :=
  { served with
    uops := [{ served.newUOp .serve with
      id := 7, part := 0, issue := 0, src := some ⟨served.nodeId, 1, 0⟩, pieces := [UPiece.plain 0 0 8 0 []] }]
    pkg := { served.pkg with fab := { served.pkg.fab with serving := [(7, packetOf 0 0 2 0 [])] } } }

theorem witness_served_read :
    (∀ u ∈ serving.uops, serving.uops.find? (·.id == 7) = some u ∧ u.owner = .serve ∧ u.pieces = [UPiece.plain 0 0 8 0 []] ∧ u.pinned = none ∧ u.dst = none ∧
      u.convert = false ∧ u.dead = false ∧ serving.partReady u 0 false = true ∧ serving.look 0 1 0 8 = served.look 0 1 0 8 ∧
      (serving.partAt u (UPiece.plain 0 0 8 0 []) false).2 = (0, 8)) ∧
      serving.pkg.fab.serving = [(7, packetOf 0 0 2 0 [])] ∧ (serving.peer 9).held = [] ∧ 0 = (serving.peer 9).expect.toNat ∧
      (UPiece.plain 0 0 8 0 []).waitsUnit = false ∧ serving.mem.soft = [] := by decide +kernel

/-- Whatever the port's cache keeps, the walk finds that place, and leaves no soft error. -/
theorem witness_request_walk : (served.walk 0 0 1 0 8 false).1 = served.look 0 1 0 8 ∧ (served.walk 0 0 1 0 8 false).2.1 = none ∧
    (served.walk 0 0 1 0 8 false).2.2.mem.soft = [] := by
  have c : ¬bitsOf (served.part 0).otcfg 55 34 ≤ 1 := by decide +kernel
  have n : served.pkg.cache = [] := by decide +kernel
  have k : served.look 0 1 0 8 = .at_ (.stack (5 * 65536)) (5 + 2 ^ 56 + 3 * 2 ^ 110 + 2 * 2 ^ 108) 65536 := by decide +kernel
  have q : served.mem.soft = [] := by decide +kernel
  rw [State.walk, if_neg c, n]
  simp only [List.find?_nil, State.walkTables, State.correctTables_quiet q, k, true_and]
  refine ⟨by decide +kernel, ?_⟩
  split <;> decide +kernel

/-- An operation of the graph of slot 0: a copy here, or a signal to a member. -/
def gopOf (kind peer : Nat) (succ : List Nat) : GOp := ⟨succ, 0, peer, kind, 0, 0, 0, 0, 8, 0, 0⟩

/-- A replay under way. -/
def replaying (ops : List GOp) (f : GSlot → GSlot) (u : List UOp) : State :=
  linked id (fun g => f { g with
    st := .running, ops := ops, counters := ops.map (·.deps), done := ops.map fun _ => false, started := ops.map fun _ => false, runner := some 3 }) u

theorem witness_graph_steps :
    let base := Cap.make 0 1 0x7F 65536 0 true
    let starts := fun l (g : GSlot) => { g with startAt := some 9, patch := l }
    let allowed := fun s : State => ((s.slot 0).ops.filter fun o => o.rank == (s.slot 0).rank).all (s.gopAllowed { (s.slot 0) with active := (s.slot 0).patch })
    (linked id id []).slot 1 = GSlot.reset ∧ GSlot.reset.st ≠ .running ∧
      (let s := replaying [gopOf 0 0 []] (starts [base]) []
       (s.slot 0).st = .running ∧ (s.slot 0).startAt = some 9 ∧ (s.slot 0).early = [] ∧ (s.slot 0).shf = false ∧ allowed s = true) ∧
      allowed (replaying [gopOf 0 0 []] (starts []) []) = false ∧ (∀ n : Fin 16, bitOf ((linked id id []).part n.val).smpcfg 61 = false) ∧
      ((replaying [gopOf 0 0 []] id []).slot 0).startable 0 = true ∧ ((replaying [gopOf 0 0 []] id []).slot 0).startable 1 = false ∧
      (let s := replaying [gopOf 3 1 []] id []
       (s.slot 0).startable 0 = true ∧ 1 ≠ (s.slot 0).rank ∧ s.nextPlane (s.peer ((s.slot 0).members.getD 1 0)).plane = some 2) ∧
      (let s := replaying [gopOf 0 0 [0]] id [partWith (.graph 0 0) .done]; s.gopDone 0 0 = some (partWith (.graph 0 0) .done)) ∧
      (replaying [gopOf 0 0 [0]] id []).gopDone 0 0 = none ∧
      ((replaying [gopOf 0 0 []] (fun g => { g with done := [true] }) []).slot 0).complete = true ∧
      ((replaying [gopOf 0 0 []] id []).slot 0).complete = false ∧
      ((replaying [gopOf 0 0 []] (fun g => { g with counters := [1] }) []).slot 0).waiting = some 0 ∧ ((replaying [gopOf 0 0 []] id []).slot 0).waiting = none ∧
      (let s := { replaying [gopOf 0 0 []] (fun g => { g with counters := [1] }) [] with cyc := 3000000 }; (s.slot 0).progress + s.fabTO ≤ s.cyc) ∧
      (replaying [gopOf 0 0 [0]] id []).slotOfGroup 6 = some 0 ∧ lab.slotOfGroup 6 = none ∧
      (let g := (replaying [gopOf 0 0 [0]] id []).slot 0; g.startAt = none ∧ 0 ∉ g.heard ∧ g.ops[0]? = some (gopOf 0 0 [0]) ∧ g.own = none ∧ 0 = g.bph.toNat ∧
         g.members.length = 2 ∧ g.rank = 0) ∧
      ((replaying [] (fun g => { g with own := some (0, 63) }) []).slot 0).own = some (0, 63) := by decide +kernel

/-! ### Registers of units and the service processor -/

/-- A page in the stack whose origin entry may move, and a free frame for one that moves in. -/
def migrating (place kind res : Nat) : State :=
  (({ paged 1 with mem := (paged 1).mem.writeN 65536 (leBytes 16 (5 + kind * 2 ^ 56 + 3 * 2 ^ 110 + res * 2 ^ 108 + place * 2 ^ 106)) }).onPart 0 fun q =>
    { q with migcfg := 0x8000_0001_0000_0040#64 })

theorem witness_unit_registers :
    (let leaf := fun s : State => s.stackNat 65536 16; let s := fun place kind res => migrating place kind res
     (∀ kind ∈ [1, 3], (s 2 kind 1).leafOf 0 1 0 = some 65536 ∧ (s 2 kind 1).mayMove (leaf (s 2 kind 1)) = true ∧ leafKind (leaf (s 2 kind 1)) = kind ∧
       leafRes (leaf (s 2 kind 1)) = 1 ∧ leafRes (leaf (s 2 kind 3)) = 3 ∧ (s 2 kind 3).frameQuiet (leaf (s 2 kind 3)) = true ∧
       (s 0 kind 1).mayMove (leaf (s 0 kind 1)) = false) ∧ bitOf ((s 2 1 1).part 0).migcfg 63 = true ∧ bitOf (lab.part 0).migcfg 63 = false ∧
       ((s 2 3 3).part 0).migfree = [] ∧ 1 ≠ lab.nodeId) ∧
      (let s := { migrating 2 3 3 with pkg := { (migrating 2 3 3).pkg with fab := { (migrating 2 3 3).pkg.fab with
         unacked := [{ unansweredOf 1 with pkt := { (unansweredOf 1).pkt with dst := 0, obj := 0, off := 5 * 65536 } }] } } }
       s.frameQuiet (s.stackNat 65536 16) = false) ∧
      (let s := { (paged 0).onPart 0 fun q => { q with migcfg := 0x8000_0001_0000_0040#64, migfree := [0] } with
         mem := (paged 0).mem.writeN 65536 (leBytes 16 (5 + 2 ^ 56)) }
       let w := s.stackNat 65536 16
       (s.part 0).migfree = [0] ∧ s.leafOf 0 (bitsOf (s.part 0).migcfg 53 32) 0 = some 65536 ∧ bitOf (s.part 0).migcfg 63 = true ∧ leafRes w = 0 ∧ leafKind w = 1 ∧
         s.leafBad 0 w = false ∧ 65536 % 2 ^ 34 + 16 ≤ leafFrame w * 65536) ∧
      lab.here.pinDue = none ∧
      (let f := fun n r => ((paged r).pinWalk 0 0 1 0 n).1.toBool
       f 1 2 = true ∧ f 1 0 = false ∧ f 2 2 = false) ∧
      (let s := (untimed 2 (.copy 0 0) false .reading).onPart 0 fun q => { q with otbusy := [(8, some 1), (8, some 2)] }
       ∀ u ∈ s.uops, u.part = 0 ∧ u.id < 8 ∧ s.usesEntry u (some 1) = true ∧ s.usesEntry u (some 2) = false) ∧
      ((lab.part 0).migfree.length < 64) ∧ (List.replicate 64 5).length = 64 := by decide +kernel

theorem witness_service_processor :
    (lab.pkg.svc.measures[0]? = some (List.replicate 32 0)) ∧ lab.pkg.svc.power.toNat ≤ 4 ∧ (lab.part 0).on = false ∧ served.pkg.svc.power = 0 ∧
      (served.part 0).on = true ∧
      (let s := { lab with pkg := { lab.pkg with svc := { lab.pkg.svc with fenced := [(2, 3), (1, 0)], pendingFw := some [1], failedFw := [(1, 0)] } } }
       (2, 3) ∈ s.pkg.svc.fenced ∧ s.pkg.svc.pendingFw = some [1] ∧ (2, 3) ∉ s.pkg.svc.failedFw ∧ (2, 4) ∉ s.pkg.svc.fenced ∧ (1, 0) ∈ s.pkg.svc.failedFw) ∧ (lab.stn 1).run.on = false ∧ (lab.stn 0).run.on = true ∧ (lab.stn 0).pre.st = .run := by decide +kernel

theorem witness_quiet_cluster : State.reset.clusterQuiet 0 = true ∧ lab.clusterQuiet 0 = false := by
  refine ⟨List.all_eq_true.mpr fun k _ => ?_, List.all_eq_false.mpr ⟨0, List.mem_finRange _, by decide +kernel⟩⟩
  have : State.reset.stn k = Station.reset := by simp [State.stn, State.reset]
  refine Bool.or_eq_true_iff.mpr (.inr ?_)
  simp [State.stopped, this, Station.reset, Run.reset]

/-! ### What waits, moves and comes back -/

/-- A walk that sets bits of a leaf entry: its swap is an access of its own. -/
theorem witness_swap :
    let s := { untimed 2 (.rld 15 8) false .idle with mem := (paged 2).mem.writeN 65536 (leBytes 16 (5 + 2 ^ 56 + 2 * 2 ^ 108)) }
    (∀ u ∈ s.uops, s.partReady u 0 false = true ∧ u.seg = none ∧ u.pinned = none ∧ u.src = some ⟨s.nodeId, 1, 0⟩) ∧
      (s.walk 0 0 1 0 8 false).2.1 = some 65536 ∧ (UPiece.plain 0 0 8 0 []).waitsUnit = false := by decide +kernel

/-- A tail at rest, one muted, lines whose tail a bypass and a rejoin move. -/
theorem witness_ring_moves :
    (let s := { ringing 9001 with pkg := { (ringing 9001).pkg with ring := { (ringing 9001).pkg.ring with
       lines := (ringing 9001).pkg.ring.lines.set 1 { RingLine.reset with rest := 9002 } } } }
     s.cyc < (s.rline 1).rest ∧ (s.rline 0).rest ≤ s.cyc) ∧
    (let s := { ringing 9001 with pkg := { (ringing 9001).pkg with ring := { (ringing 9001).pkg.ring with
       lines := (ringing 9001).pkg.ring.lines.set 1 { RingLine.reset with mute := 9002 } } } }
     s.cyc < (s.rline 1).mute ∧ (s.rline 0).mute ≤ s.cyc) ∧
    (let g := (ringing 9001).pkg.ring
     (∀ m, ({ g with state := .run, transition := none }).transition ≠ some (0, m)) ∧ ({ g with transition := some (0, 3) }).transition = some (0, 3) ∧
       g.state = .run ∧ ({ g with state := .admitting }).newcomer = false ∧ ({ g with state := .admitting, newcomer := true }).newcomer = true) := by
  refine ⟨by decide +kernel, by decide +kernel, fun m h => by simp at h, by decide +kernel⟩

/-- A post to a mailbox with room that is appended, that waits for the channel of its slot, behind another post, or for a message that is
being read; one to a full mailbox. -/
theorem witness_posts :
    let v : DWord := 0x8000_0300_0000_0000#64; let a := bitsOf v 19 0 * 16384 + bitsOf v 35 28 * 64
    (∃ b ∈ ({ lab with pkg := { lab.pkg with boxes := [⟨8, v⟩] } }).pkg.boxes, b.cfg = v) ∧ lab.placeTaken (.stack a) = false ∧ lab.mailUnread a = false ∧
      (lab.serve (.stack a)).placeTaken (.stack a) = true ∧ (∀ x ∈ lab.pkg.posts, x.1 ≠ 8) ∧
      (∃ x ∈ ({ lab with pkg := { lab.pkg with posts := [(8, leBytes 64 5)] } }).pkg.posts, x.1 = 8) ∧
      ({ lab with uops := [{ lab.newUOp (.mail 15 8 1) with pieces := [{ UPiece.plain a 0 64 0 [] with st := .idle }] }] }).mailUnread a = true ∧
      bitsOf (0x8004_0300_0000_0000#64) 56 48 = bitsOf v 47 40 + 1 := by decide +kernel

/-- A multicast packet to two peers, with the error of its first peer, the end of its last, and the reply of its first hop. -/
theorem witness_multicast :
    let p := { packetOf 4 0 1 0 [] with src := 0, dst := 9, peers := [9, 8] }
    let m : Unacked := ⟨p, 50, 50, 0, 7, 0, none, none, none⟩
    let w := partWith (.fabric 3) .writing; let s := linked (fun f => { f with unacked := [m] }) id [w]
    let found := fun x : Packet => s.pkg.fab.unacked.find? fun u => u.chained && u.pkt.peers == x.peers && u.pkt.seq == x.rseq
    found { packetOf 0 1 0x11 4 [] with peers := [9, 8], chx := 1 } = some m ∧ found { packetOf 0 1 0x12 4 [] with peers := [9, 8], chx := 0 } = some m ∧
      found { packetOf 0 1 0x11 5 [] with peers := [9, 8] } = none ∧ (1 : Nat) + 1 = m.pkt.peers.length ∧ (0 : Nat) + 1 ≠ m.pkt.peers.length ∧
      1 < m.pkt.peers.length ∧ m.fwd = none ∧ (s.pkg.fab.unacked.find? fun u => u.pkt.dst == 9 && u.pkt.seq == 4) = some m ∧
      s.uops.find? (·.id == 7) = some w ∧ w.pieces = [{ UPiece.plain 0 0 8 0 [] with st := .writing }] ∧ w.dead = false ∧
      (UPiece.plain 0 0 8 0 []).code = 0 ∧ (UPiece.plain 0 0 8 0 []).dstLen = 0 + m.pkt.len := by decide +kernel

/-- A peer that comes up again while a read of its is unanswered. -/
theorem witness_bring_up :
    let s := linked (fun f => { f with unacked := [unansweredOf 2] }) id [partWith (.rld 15 8) .reading]
    s.pkg.fab.unacked.filter (·.pkt.dst == 9) = [unansweredOf 2] ∧ (∀ u ∈ s.pkg.fab.unacked, u.pkt.dst ≠ 8) ∧ s.pkg.fab.serving = [] ∧
      s.uops.find? (·.id == 7) = some (partWith (.rld 15 8) .reading) := by decide +kernel

/-- The package of a move of page 0 of object 1 that has come as far as given, with or without a line access still to be made. -/
def movingPage (kind res : Nat) (st : MoveState) (left : Bool) : State :=
  let s := migrating 2 kind res
  { s with pkg := { s.pkg with
      moves := [⟨0, 1, 0, 9, st, 6, 2⟩]
      jobs := if left then [⟨0, 0, 0, .page 0 1 0, .stack 0, 256, .gather 0⟩] else [] } }

theorem witness_moves :
    (∀ st ∈ [MoveState.due, .leaving, .arriving, .returning], ((movingPage 1 1 st false).moveAt 0 1 0 st).isSome = true ∧
      (movingPage 1 1 st false).jobsDone (.page 0 1 0) = true ∧ (movingPage 1 1 st true).jobsDone (.page 0 1 0) = false ∧
      (movingPage 1 1 st false).leafOf 0 1 0 = some 65536 ∧ (movingPage 1 1 st false).placeTaken (.stack 65536) = false ∧
      ((movingPage 1 1 st false).serve (.stack 65536)).placeTaken (.stack 65536) = true) ∧
      (movingPage 1 1 .due false).pageQuiet 0 1 0 = true ∧ lab.leafOf 0 1 0 = none ∧ ((movingPage 1 1 .due false).moveAt 0 1 0 .leaving).isSome = false ∧
      (let s := (movingPage 3 1 .due false); s.mayMove (s.renewed (s.stackNat 65536 16)) = true ∧ (s.moveAt 0 1 0 .returning).isSome = false) ∧
      (9 : Nat) ≠ lab.nodeId := by decide +kernel

/-- A unit that has stopped and one that has not; a program measured since boot and one that was not. -/
theorem witness_units :
    lab.unitStopped (2, 3) = true ∧ ({ lab with pkg := { lab.pkg with fab := { lab.pkg.fab with fplane := 8 } } }).unitStopped (2, 3) = false ∧
      ({ lab with pkg := { lab.pkg with svc := { lab.pkg.svc with power := 1 } } }).pkg.svc.power ≠ 0 ∧
      (2, [1]) ∈ (lab.pkg.svc.measure 2 [1]).images ∧ (2, [1]) ∉ lab.pkg.svc.images := by decide +kernel

/-! ### Words and ill-formed terms -/

/-- The first instruction of a block, with gap 1, reads as i. -/
def reads (e : Engine) (ws : List Nat) (i : Instr) : Bool :=
  match ws with
  | [] => false
  | w :: r => match decode e true ((BitVec.ofNat 32 w, false) :: r.map fun x => (BitVec.ofNat 32 x, true)) with
    | .ok d => d == ⟨1, i, ws.length⟩
    | .error _ => false

/-- Words of the conductor stream: the fixed bits of each row with its fields set to distinct values, and extension words field by field (R218 to R220). -/
def conductorWords1 : List (List Nat × Instr) := [
  ([0x08059B90], .add 22#5 13#5 25#5), ([0x080D9B90], .sub 22#5 13#5 25#5), ([0x08159B90], .mul 22#5 13#5 25#5),
  ([0x081D9B90], .mulh 22#5 13#5 25#5), ([0x08259B90], .mulhu 22#5 13#5 25#5), ([0x082D9B90], .div 22#5 13#5 25#5),
  ([0x08359B90], .divu 22#5 13#5 25#5), ([0x083D9B90], .rem 22#5 13#5 25#5), ([0x08459B90], .remu 22#5 13#5 25#5),
  ([0x084D9B90], .and 22#5 13#5 25#5), ([0x08559B90], .or 22#5 13#5 25#5), ([0x085D9B90], .xor 22#5 13#5 25#5), ([0x08659B90], .andn 22#5 13#5 25#5),
  ([0x086D9B90], .shl 22#5 13#5 25#5), ([0x08759B90], .shr 22#5 13#5 25#5), ([0x087D9B90], .sra 22#5 13#5 25#5),
  ([0x08859B90], .rotl 22#5 13#5 25#5), ([0x088D9B90], .min 22#5 13#5 25#5), ([0x08959B90], .max 22#5 13#5 25#5), ([0x089D9B90], .minu 22#5 13#5 25#5)]

def conductorWords2 : List (List Nat × Instr) := [
  ([0x08A59B90], .maxu 22#5 13#5 25#5), ([0x08AD9A00], .clz 22#5 13#5), ([0x08B59A00], .popc 22#5 13#5), ([0x08BD9B90], .seq 22#5 13#5 25#5),
  ([0x08C59B90], .slt 22#5 13#5 25#5), ([0x08CD9B90], .sltu 22#5 13#5 25#5), ([0x08D59B90], .sel 22#5 13#5 25#5),
  ([0x09059AA7], .addi 22#5 13#5 167#9), ([0x090D9AA7], .andi 22#5 13#5 167#9), ([0x09159AA7], .ori 22#5 13#5 167#9),
  ([0x091D9AA7], .xori 22#5 13#5 167#9), ([0x09259A39], .shli 22#5 13#5 57#6), ([0x092D9A39], .shri 22#5 13#5 57#6),
  ([0x09359A39], .srai 22#5 13#5 57#6), ([0x093D89A7], .li 22#5 2471#13), ([0x094589A7], .lih 22#5 2471#13), ([0x09859AA7], .beq 22#5 13#5 167#9),
  ([0x098D9AA7], .bne 22#5 13#5 167#9), ([0x09959AA7], .blt 22#5 13#5 167#9), ([0x099D9AA7], .bge 22#5 13#5 167#9)]

def conductorWords3 : List (List Nat × Instr) := [
  ([0x09A59AA7], .bltu 22#5 13#5 167#9), ([0x09AD9AA7], .bgeu 22#5 13#5 167#9), ([0x09B02CA7], .jmp 22#5 167#9),
  ([0x09BD9AA7], .call 22#5 13#5 167#9), ([0x09C02C00], .ret 22#5), ([0x09CD80A7], .lpset 22#5 0#1 167#9), ([0x09D580A7], .lpbrk 22#5 0#1 167#9),
  ([0x0A05A983], .lds 22#5 10#4 3#3 3#7), ([0x0A0DA983], .sts 22#5 10#4 3#3 3#7), ([0x0A116983], .rld 5#4 10#4 3#3 3#7),
  ([0x0A1D9597], .bayrd 22#5 10#4 25#5 1#1 3#2), ([0x0A200000], .align), ([0x0A2B00A7], .fence 3#3 167#9),
  ([0x0A31559D], .amo 5#4 10#4 25#5 1#1 5#3), ([0x0A395468], .acas 5#4 10#4 3#4 1#1), ([0x0A400ADD], .ared 5#4 13#5 1#1 5#3),
  ([0x0A495591], .cderive 5#4 10#4 25#5 1#4), ([0x0A515590], .cbound 5#4 10#4 25#5), ([0x0A5D9406], .cfield 22#5 10#4 6#4),
  ([0x0A820015], .fork 1#1 21#16)]

def conductorWords4 : List (List Nat × Instr) := [
  ([0x0A830015], .forkPf 1#1 21#16), ([0x0A880000], .rdv), ([0x0A900005], .barr 5#3), ([0x0A982C02], .bwait 22#5 2#3),
  ([0x0A982C0A], .bwaitP 22#5 2#3), ([0x0AA00036], .hsig 54#6), ([0x0AA10036], .hsigLo 54#6), ([0x0AA9000D], .hchk 1#1 13#6),
  ([0x0AB0B2C5], .pause 45765#16), ([0x0AB8B2C5], .resync 45765#16), ([0x0AC01B93], .board 0#5 13#5 25#5 3#4),
  ([0x0AC81B80], .wbset 0#5 13#5 24#5 0#4), ([0x0AD3800D], .sig 3#3 2#2 13#6), ([0x0AD94000], .mbrecv 5#4), ([0x0AE02CA0], .mbpost 22#5 10#4),
  ([0x0B05A9A7], .csr 22#5 2#2 2471#12), ([0x0B08B2C5], .trap 45765#16), ([0x0B100000], .eret), ([0x0B180000], .halt),
  ([0x0B215A00], .rcsnap 5#4 13#5)]

def conductorWords5 : List (List Nat × Instr) := [
  ([0x0B2DB2C5], .smark 5#3 45765#16), ([0x0B300AD3], .bcfg 5#4 13#5 3#3), ([0x093DA000, 0x89ABCDEF], .liWide 22#5 0x89ABCDEF#32),
  ([0x0945A000, 0x89ABCDEF], .lihWide 22#5 0x89ABCDEF#32)]

def conductorWords : List (List Nat × Instr) := conductorWords1 ++ conductorWords2 ++ conductorWords3 ++ conductorWords4 ++ conductorWords5

theorem test_conductor_words : conductorWords.all (fun x => reads .conductor x.1 x.2) = true := by decide +kernel

/-- Words of the vector stream: the fixed bits of each row with its fields set to distinct values, and extension words field by field (R218 to R220). -/
def vectorWords1 : List (List Nat × Instr) := [
  ([0x0806C6F2], .vadd 54#6 13#6 57#6 none), ([0x080EC6F2], .vsub 54#6 13#6 57#6 none), ([0x0816C6F2], .vmul 54#6 13#6 57#6 none),
  ([0x081EC6F2], .vfma 54#6 13#6 57#6 none), ([0x0826C6F2], .vfms 54#6 13#6 57#6 none), ([0x082EC6F2], .vmax 54#6 13#6 57#6 none),
  ([0x0836C6F2], .vmin 54#6 13#6 57#6 none), ([0x083EC680], .vabs 54#6 13#6 none), ([0x0846C680], .vneg 54#6 13#6 none),
  ([0x084EC6F2], .vand 54#6 13#6 57#6 none), ([0x0856C6F2], .vor 54#6 13#6 57#6 none), ([0x085EC6F2], .vxor 54#6 13#6 57#6 none),
  ([0x0866C6F2], .vshl 54#6 13#6 57#6 none), ([0x086EC6F2], .vshr 54#6 13#6 57#6 none), ([0x0876C6F2], .vsra 54#6 13#6 57#6 none),
  ([0x0880A6F2], .vcmp 5#3 13#6 57#6 none), ([0x08954C00], .pand 5#3 2#3 3#3), ([0x089D4C00], .por 5#3 2#3 3#3), ([0x08A54C00], .pxor 5#3 2#3 3#3),
  ([0x08AD4000], .pnot 5#3 2#3)]

def vectorWords2 : List (List Nat × Instr) := [
  ([0x091EC6F2], .vscale 54#6 13#6 57#6 none), ([0x0926C680], .vexp2 54#6 13#6 none), ([0x092EC680], .vrcp 54#6 13#6 none),
  ([0x0936C680], .vrsq 54#6 13#6 none), ([0x093EC680], .vlog2 54#6 13#6 none), ([0x0986C6F2], .vredsum 54#6 13#6 57#6 none),
  ([0x098EC680], .vredmax 54#6 13#6 none), ([0x0996C6F2], .vscan 54#6 13#6 57#6 none), ([0x099EC6F2], .vperm 54#6 13#6 57#6 none),
  ([0x09A6C680], .vbcast 54#6 13#6 none), ([0x09AEC6F2], .vslide 54#6 13#6 57#6 none), ([0x09B6C6F2], .vpack 54#6 13#6 57#6 none),
  ([0x0A06D54E], .vld 54#6 10#4 167#8 none), ([0x0A0ED54E], .vst 54#6 10#4 167#8 none), ([0x0A86C6F2], .vrng 54#6 13#6 57#6 none),
  ([0x0A8EC6F2], .vdrop 54#6 13#6 57#6 none), ([0x0A96C6F2], .vtopk 54#6 13#6 57#6 none), ([0x0B06C680], .vmov 54#6 13#6 none),
  ([0x0B0ED34E], .vli 54#6 2471#12 none), ([0x0B16C6F2], .vlse 54#6 13#6 57#6 none)]

def vectorWords3 : List (List Nat × Instr) := [
  ([0x0B181B00], .vpush 54#6 none), ([0x0B26C000], .vpop 54#6 none), ([0x088EC6F3, 0xB0000000], .vsel 54#6 13#6 57#6 ⟨1#1, 3#3, 0#4, 0#2, 0#22⟩),
  ([0x0906C681, 0x0A744000], .vcvt 54#6 13#6 ⟨0#1, 0#3, 0xA#4, 1#2, 0x344000#22⟩),
  ([0x0A16D54F, 0x0D2D0000], .vgat 54#6 10#4 167#8 ⟨0#1, 0#3, 0xD#4, 0#2, 0x2D0000#22⟩),
  ([0x0A1ED54F, 0x8E2D0000], .vsct 54#6 10#4 167#8 ⟨1#1, 0#3, 0xE#4, 0#2, 0x2D0000#22⟩),
  ([0x0806C6F3, 0xBE000000], .vadd 54#6 13#6 57#6 (some ⟨1#1, 3#3, 0xE#4, 0#2, 0#22⟩)),
  ([0x0A928413, 0x0D210000], .vtopk 20#6 8#6 9#6 (some ⟨0#1, 0#3, 0xD#4, 0#2, 0x210000#22⟩)),
  ([0x090EC681, 0x01155500], .vquant 54#6 13#6 (some ⟨0#1, 0#3, 1#4, 0#2, 0x155500#22⟩)),
  ([0x0916C681, 0x01105500], .vdeq 54#6 13#6 (some ⟨0#1, 0#3, 1#4, 0#2, 0x105500#22⟩))]

def vectorWords : List (List Nat × Instr) := vectorWords1 ++ vectorWords2 ++ vectorWords3

theorem test_vector_words : vectorWords.all (fun x => reads .vector x.1 x.2) = true := by decide +kernel

/-- Words of the matrix stream: the fixed bits of each row with its fields set to distinct values, and extension words field by field (R218 to R220). -/
def matrixWords : List (List Nat × Instr) := [
  ([0x080D4000], .mzero 5#3 2#3), ([0x08154014], .mma 5#3 2#3 0#1 1#2 1#2 .none), ([0x081D4414], .mmaw 5#3 2#3 0#1 1#1 1#2 1#2 .none),
  ([0x08254014], .mmat 5#3 2#3 0#1 1#2 1#2 .none), ([0x082D0680], .mwait 5#3 13#6), ([0x08350DE4], .mrd 5#3 13#5 57#6 none),
  ([0x083D0DE4], .mwr 5#3 13#5 57#6 none), ([0x08454014], .mvoc 5#3 2#3 0#1 0#1 1#2 1#2 .none),
  ([0x084D4014], .mvocbFwd 5#3 2#3 0#1 0#1 1#2 1#2 .none), ([0x084C436C], .mvocbBwd 4#3 2#3 0#1 5#3 2#2 3#2 .none),
  ([0x08000001, 0xAB000000], .mfmt 0x1560#13), ([0x08511B01, 0x00000039], .hmerge 1#1 54#6 57#6), ([0x08581B01, 0x00000039], .hread 54#6 57#6),
  ([0x086216D1, 0xADA00000], .mapld 2#2 45#6 5#3 10#4 1#1 45#6), ([0x086A1B01, 0x00000039], .mnorm 2#2 54#6 57#6),
  ([0x08350DE5, 0x72000000], .mrd 5#3 13#5 57#6 (some ⟨1#1, 100#7⟩)), ([0x08155015, 0x00000300], .mma 5#3 2#3 1#1 1#2 1#2 (.g 0x300#32)),
  ([0x08455816, 0x00000300, 0x0012341F], .mvoc 5#3 2#3 1#1 1#1 1#2 1#2 (.gk 0x300#32 0x1234#24 0x1F#8))]

theorem test_matrix_words : matrixWords.all (fun x => reads .matrix x.1 x.2) = true := by decide +kernel

/-- Words of the copy stream: the fixed bits of each row with its fields set to distinct values, and extension words field by field (R218 to R220). -/
def copyWords : List (List Nat × Instr) := [
  ([0x08059628], .cpy 45765#16), ([0x080D9628], .cpyf 45765#16 none), ([0x08159628], .cpyt 45765#16), ([0x081D9628], .cpyw 45765#16),
  ([0x08259628], .cpyr 45765#16), ([0x08293406], .cwp 1#1 13#6 3#4 none), ([0x08310014], .cwait 1#1 10#4 none), ([0x0838D814], .chead 54#6 10#4),
  ([0x0853014E], .cfence 3#3 167#9), ([0x08590000], .cabort 1#1), ([0x085CD800], .cabortBt 54#6), ([0x08450015, 0x000000A7], .cmap 5#3 10#4 167#8),
  ([0x084DB60D, 0x89ABCDEF], .cmwait 5#3 45#6 1#1 6#3 0x89ABCDEF#32), ([0x080D9629, 0xD6800000], .cpyf 45765#16 (some ⟨1#1, 2#2, 45#6⟩)),
  ([0x08293407, 0x89ABCDEF], .cwp 1#1 13#6 3#4 (some 0x89ABCDEF#32)), ([0x08310015, 0x89ABCDEF], .cwait 1#1 10#4 (some 0x89ABCDEF#32))]

theorem test_copy_words : copyWords.all (fun x => reads .copy0 x.1 x.2) = true := by decide +kernel

/-- Words of the tap stream: the fixed bits of each row with its fields set to distinct values, and extension words field by field (R218 to R220). -/
def tapWords : List (List Nat × Instr) := [
  ([0x08025D78], .ltap 9#5 3#3 700#10 none), ([0x081806D4], .lsel 54#6 10#4 none), ([0x0820014E], .lidle 167#10), ([0x08280016], .lcfg 11#4),
  ([0x080E5D79, 0x00000067], .ldrive 25#5 3#3 700#10 103#7), ([0x0816402B, 0x00000067], .lfwd 25#5 21#5 103#7),
  ([0x08025815, 0xFFFFFF00], .ltap 9#5 3#3 10#10 (some 0xFFFFFF00#32)), ([0x08180015, 0xFFFFFF00], .lsel 0#6 10#4 (some 0xFFFFFF00#32))]

theorem test_tap_words : tapWords.all (fun x => reads .tap x.1 x.2) = true := by decide +kernel

/-- Words of the fabric stream: the fixed bits of each row with its fields set to distinct values, and extension words field by field (R218 to R220). -/
def fabricWords : List (List Nat × Instr) := [
  ([0x08059628], .fput 45765#16), ([0x080D9628], .fget 45765#16), ([0x08159628], .famo 45765#16), ([0x081D9628], .facas 45765#16),
  ([0x08259628], .fmcast 45765#16), ([0x082D9628], .fred 45765#16), ([0x08359628], .gload 45765#16), ([0x083D9628], .grun 45765#16),
  ([0x08459628], .gpatch 45765#16), ([0x0848D814], .gstat 54#6 10#4), ([0x0850D800], .gabort 54#6), ([0x0858D81A], .fbar 54#6 13#6),
  ([0x086A054E], .ringbyp 2#3 1#1 167#9), ([0x08759628], .ringinj 45765#16), ([0x087B014E], .fsync 3#3 167#9),
  ([0x0861014F, 0x00000005], .ringcfg 1#3 167#9 5#32)]

theorem test_fabric_words : fabricWords.all (fun x => reads .fabric x.1 x.2) = true := by decide +kernel
/-- Gaps in the word and in an extended stamp word, and a repeat with the instruction that it repeats (R215, R222). -/
theorem test_gaps_and_repeats :
    (match decode .tap true [(0xF8001000#32, false), (0x000000C5#32, true)] with
      | .ok d => d == ⟨197, .ltap 0 2 0 none, 2⟩
      | .error _ => false) = true ∧
    (match decode .conductor false [(0x0FF84400#32, false), (0x08059B90#32, false)] with
      | .ok d => d == ⟨1, .rpt 1 17 0 0 0, 2⟩
      | .error _ => false) = true ∧
    (match decode .matrix false [(0xF841F812#32, false), (0x8D#32, true), (0#32, true), (0x1F#32, true)] with
      | .ok d => d == ⟨141, .mvoc 1 7 1 1 1 0 (.gk 0 0 0x1F), 4⟩
      | .error _ => false) = true := by decide +kernel

/-! One ill-formed term for each check. -/

def illFormed1 : List Instr := [
  .lds 16#5 0#4 7#3 0#7, .sts 16#5 0#4 7#3 0#7, .sts 1#5 0#4 4#3 0#7, .rld 0#4 0#4 5#3 0#7, .fence 5#3 0#9, .amo 0#4 0#4 0#5 1#1 7#3,
  .ared 0#4 0#5 0#1 6#3, .ared 0#4 0#5 1#1 7#3, .cderive 0#4 0#4 0#5 6#4, .cderive 0#4 0#4 1#5 3#4, .cfield 0#5 0#4 8#4, .fork 1#1 32#16,
  .forkPf 1#1 32#16, .board 0#5 0#5 0#5 6#4, .board 1#5 0#5 0#5 0#4, .board 0#5 0#5 1#5 1#4, .wbset 0#5 0#5 0#5 4#4, .wbset 1#5 0#5 0#5 2#4,
  .wbset 1#5 0#5 0#5 0#4, .wbset 0#5 0#5 1#5 0#4]

def illFormed2 : List Instr := [
  .wbset 0#5 0#5 2#5 1#4, .sig 5#3 0#2 0#6, .sig 0#3 0#2 1#6, .sig 0#3 2#2 16#6, .sig 0#3 3#2 0#6, .csr 0#5 3#2 0#12, .rpt 0#5 1#9 0#3 0#3 0#3,
  .rpt 31#5 1#9 0#3 0#3 0#3, .vadd 0#6 0#6 0#6 (some ⟨0#1, 0#3, 0#4, 0#2, 0#22⟩), .vsub 0#6 0#6 0#6 (some ⟨0#1, 0#3, 0xE#4, 1#2, 0#22⟩),
  .vmul 0#6 0#6 0#6 (some ⟨0#1, 0#3, 0xD#4, 0#2, 1#22⟩), .vfma 0#6 0#6 0#6 (some ⟨0#1, 0#3, 0xD#4, 0#2, 0x200000#22⟩),
  .vfms 0#6 0#6 0#6 (some ⟨0#1, 0#3, 0xA#4, 0#2, 0#22⟩), .vmax 0#6 0#6 0#6 (some ⟨0#1, 0#3, 0xD#4, 1#2, 0#22⟩),
  .vmin 0#6 0#6 0#6 (some ⟨0#1, 0#3, 0xD#4, 0#2, 0x100000#22⟩), .vabs 0#6 0#6 (some ⟨0#1, 0#3, 0xD#4, 0#2, 0x200000#22⟩),
  .vneg 0#6 0#6 (some ⟨0#1, 0#3, 0#4, 0#2, 0#22⟩), .vand 0#6 0#6 0#6 (some ⟨0#1, 0#3, 0xD#4, 0#2, 0#22⟩),
  .vor 0#6 0#6 0#6 (some ⟨0#1, 0#3, 0#4, 1#2, 0#22⟩), .vxor 0#6 0#6 0#6 (some ⟨0#1, 0#3, 0#4, 0#2, 1#22⟩)]

def illFormed3 : List Instr := [
  .vshl 0#6 0#6 0#6 (some ⟨0#1, 0#3, 0xE#4, 0#2, 0#22⟩), .vshr 0#6 0#6 0#6 (some ⟨0#1, 0#3, 0#4, 0#2, 1#22⟩),
  .vsra 0#6 0#6 0#6 (some ⟨0#1, 0#3, 0#4, 2#2, 0#22⟩), .vcmp 0#3 0#6 0#6 (some ⟨0#1, 0#3, 0xD#4, 0#2, 0x380000#22⟩),
  .vcmp 0#3 0#6 0#6 (some ⟨0#1, 0#3, 0xE#4, 0#2, 0x300000#22⟩), .vsel 0#6 0#6 0#6 ⟨0#1, 0#3, 0#4, 0#2, 0#22⟩,
  .vcvt 0#6 0#6 ⟨0#1, 0#3, 0xD#4, 0#2, 0x344000#22⟩, .vcvt 0#6 0#6 ⟨0#1, 0#3, 1#4, 0#2, 0x340000#22⟩, .vquant 0#6 0#6 none,
  .vquant 0#6 0#6 (some ⟨1#1, 0#3, 1#4, 0#2, 0#22⟩), .vquant 0#6 0#6 (some ⟨0#1, 0#3, 8#4, 0#2, 0x100000#22⟩),
  .vdeq 0#6 0#6 (some ⟨0#1, 0#3, 1#4, 0#2, 0x300000#22⟩), .vdeq 0#6 0#6 (some ⟨0#1, 0#3, 9#4, 0#2, 0x100000#22⟩),
  .vscale 0#6 0#6 0#6 (some ⟨0#1, 0#3, 0xE#4, 0#2, 0#22⟩), .vexp2 0#6 0#6 (some ⟨0#1, 0#3, 0xD#4, 0#2, 1#22⟩),
  .vrcp 0#6 0#6 (some ⟨0#1, 0#3, 0xE#4, 0#2, 0#22⟩), .vrsq 0#6 0#6 (some ⟨0#1, 0#3, 0#4, 0#2, 0#22⟩),
  .vlog2 0#6 0#6 (some ⟨0#1, 0#3, 0xD#4, 0#2, 0x200000#22⟩), .vredsum 0#6 0#6 0#6 (some ⟨0#1, 0#3, 0xD#4, 0#2, 0x300000#22⟩),
  .vredsum 0#6 0#6 1#6 (some ⟨0#1, 0#3, 0xD#4, 0#2, 0x200000#22⟩)]

def illFormed4 : List Instr := [
  .vredsum 0#6 0#6 0#6 (some ⟨0#1, 0#3, 0xD#4, 0#2, 0x101000#22⟩), .vredmax 0#6 0#6 (some ⟨0#1, 0#3, 0xD#4, 1#2, 0#22⟩),
  .vscan 0#6 0#6 0#6 (some ⟨0#1, 0#3, 0#4, 0#2, 0#22⟩), .vperm 0#6 0#6 0#6 (some ⟨0#1, 0#3, 0#4, 0#2, 1#22⟩),
  .vbcast 0#6 0#6 (some ⟨0#1, 0#3, 0#4, 0#2, 0x8000#22⟩), .vslide 0#6 0#6 0#6 (some ⟨0#1, 0#3, 0#4, 0#2, 0x200000#22⟩),
  .vpack 0#6 0#6 1#6 (some ⟨0#1, 0#3, 0#4, 0#2, 0x200000#22⟩), .vpack 0#6 0#6 0#6 (some ⟨0#1, 0#3, 0#4, 0#2, 0x40000#22⟩),
  .vld 0#6 0#4 0#8 (some ⟨0#1, 0#3, 0#4, 1#2, 0#22⟩), .vst 0#6 0#4 0#8 (some ⟨0#1, 0#3, 1#4, 0#2, 0#22⟩),
  .vgat 0#6 0#4 0#8 ⟨0#1, 0#3, 0#4, 1#2, 0#22⟩, .vsct 0#6 0#4 0#8 ⟨0#1, 0#3, 0xD#4, 0#2, 1#22⟩, .vrng 0#6 0#6 0#6 (some ⟨0#1, 0#3, 0#4, 0#2, 1#22⟩),
  .vdrop 0#6 0#6 0#6 (some ⟨0#1, 0#3, 0xE#4, 0#2, 0#22⟩), .vtopk 0#6 0#6 0#6 (some ⟨0#1, 0#3, 0xD#4, 0#2, 1#22⟩),
  .vmov 0#6 0#6 (some ⟨0#1, 0#3, 0xD#4, 0#2, 0#22⟩), .vli 0#6 0#12 (some ⟨0#1, 0#3, 0xD#4, 0#2, 0x200000#22⟩),
  .vlse 0#6 0#6 0#6 (some ⟨1#1, 0#3, 0xD#4, 0#2, 0x200000#22⟩), .vpush 0#6 (some ⟨1#1, 0#3, 0#4, 0#2, 0#22⟩),
  .vpop 0#6 (some ⟨0#1, 0#3, 0#4, 0#2, 1#22⟩)]

def illFormed5 : List Instr := [
  .mma 0#3 0#3 0#1 3#2 0#2 .none, .mma 0#3 0#3 0#1 0#2 1#2 .none, .mma 0#3 0#3 1#1 0#2 0#2 .none, .mmaw 0#3 0#3 0#1 0#1 0#2 0#2 (.gk 0#32 1#24 0#8),
  .mmat 0#3 0#3 0#1 1#2 2#2 .none, .mrd 0#3 0#5 0#6 (some ⟨0#1, 1#7⟩), .mwr 0#3 0#5 0#6 (some ⟨0#1, 1#7⟩), .mvoc 0#3 0#3 0#1 1#1 0#2 0#2 (.g 0#32),
  .mvocbFwd 0#3 0#3 0#1 1#1 0#2 0#2 .none, .mvocbBwd 1#3 0#3 0#1 0#3 0#2 0#2 .none, .mapld 0#2 0#6 0#3 0#4 0#1 0#6, .mnorm 3#2 0#6 0#6,
  .cmwait 0#3 1#6 0#1 0#3 0#32, .cfence 5#3 0#9, .ltap 9#5 0#3 1#10 none, .ltap 0#5 2#3 0#10 (some 0#32), .ltap 9#5 2#3 0#10 (some 1#32),
  .ltap 9#5 3#3 16#10 (some 0#32), .ltap 9#5 4#3 0#10 none, .ldrive 9#5 0#3 1#10 5#7]

def illFormed6 : List Instr := [
  .ldrive 9#5 3#3 0#10 0#7, .ldrive 9#5 1#3 0#10 5#7, .lfwd 0#5 9#5 104#7, .lsel 1#6 0#4 (some 0#32), .lcfg 13#4, .ringcfg 2#3 0#9 0#32,
  .ringbyp 3#3 0#1 0#9, .fsync 5#3 0#9]

def illFormed : List Instr := illFormed1 ++ illFormed2 ++ illFormed3 ++ illFormed4 ++ illFormed5 ++ illFormed6

theorem test_ill_formed : illFormed.all (fun i => !i.wf) = true := by decide +kernel

/-! ### Decoding -/

/-- A state that is to issue the instruction at the head of a stream, an instruction that decodes, and words that a check refuses. -/
theorem witness_step_runs_decoded :
    (let s := lab.withFetchWord 32 0x08004430; let x := (s.stn 0).stream .conductor
     s.todo = [.issue 0 .conductor] ∧ (match decode .conductor x.first (s.wordsAt 0 .conductor x.pc) with
       | .ok d => d == ⟨1, .add 1 2 3, 1⟩
       | .error _ => false) = true ∧
       (match exec (.add 1 2 3) { s with cur := ⟨0, .conductor, 1, 0, 1, none⟩, todo := [] } with
        | .next _ => true
        | _ => false) = true) ∧
      (let s := lab.withFetchWord 32 0x08004431; let x := (s.stn 0).stream .conductor
       (match decode .conductor x.first (s.wordsAt 0 .conductor x.pc) with
        | .ok _ => false
        | .error _ => true) = true) ∧
      ({ lab with todo := [.ev (.repeatIteration 0 .conductor)] }).todo = [.ev (.repeatIteration 0 .conductor)] ∧ State.reset.todo = [] ∧
      (lab.stn 0).run.lo ≤ lab.cur.pc ∧ (∀ i : Fin 2, ((lab.stn 0).stream .conductor).loops[i.val].ct = 0 ∧
        ((lab.stn 0).stream .conductor).loops[i.val].skip = false) ∧ lab.stay = false ∧ lab.jump = none ∧ ({ lab with stay := true }).stay = true := by
  decide +kernel

/-- A well-formed instruction with its words, in a block and as its first with no gap. -/
theorem witness_decode_encode :
    (Instr.add 1 2 3).wf = true ∧ (5 : Nat) < 2 ^ 32 ∧ encode 5 (.add 1 2 3) = some (Engine.conductor.space, [(0x28004430#32, false)]) ∧
      encode 0 (.add 1 2 3) = some (Engine.conductor.space, [(0x00004430#32, false)]) ∧ (Instr.rpt 1 17 0 0 0).wf = true ∧ (Instr.add 1 2 3).noRepeat = false ∧
      (Instr.rpt 1 17 0 0 0).noRepeat = true := by decide +kernel
end Sys2Proof.Tests
end

section
/-!
PROOFS. The capability format, the borderline divisions, the release of an instruction that completes, and the statements of
`cbound`, of the two borderline cases of division and of `pause` (R237, R254, R260).
-/

namespace Sys2Proof

/-! ### Decoding one word -/

/-- A word that stands alone and is no repeat word is decoded as one instruction (R216). -/
theorem decode_singleton (e : Engine) (first : Bool) {w : Word} (h : w.toNat / 2 ^ 19 % 256 ≠ 0xFF) :
    decode e first [(w, false)] = decodeOne e first w [] := if_neg h

/-- An assigned opcode that demands no extension word passes the counts of a word without an extended stamp (R215, R216). -/
theorem decodeCounts_nil {sp : Space} {w : Word} {i : Instr} (op : build sp (w.toNat / 2 ^ 19 % 256) w [] = some i)
    (nx : nxOf sp (w.toNat / 2 ^ 19 % 256) w = 0) (gap : w.toNat / 2 ^ 27 < 31) : decodeCounts sp w [] = .ok () := by
  have short : w.toNat / 2 ^ 27 ≠ 31 := Nat.ne_of_lt gap
  simp only [decodeCounts, op, nx, if_neg short]
  rfl

/-- A word with a gap in its own field is the instruction of its fields where these make up the operand bits again, and holds a
reserved bit otherwise (R216). -/
theorem decodeFields_nil {sp : Space} {w : Word} {i : Instr} (first : Bool) (op : build sp (w.toNat / 2 ^ 19 % 256) w [] = some i)
    (pos : 0 < w.toNat / 2 ^ 27) (gap : w.toNat / 2 ^ 27 < 31) :
    decodeFields sp first w [] =
      if i.wf = true ∧ i.encoding = some ⟨sp, w.toNat / 2 ^ 19 % 256, w.toNat % 2 ^ 19, []⟩ then .ok ⟨w.toNat / 2 ^ 27, i, 1⟩
      else .error .reserved := by
  have short : w.toNat / 2 ^ 27 ≠ 31 := Nat.ne_of_lt gap
  have released : ¬(w.toNat / 2 ^ 27 = 0 ∧ (first = false ∨ w.toNat / 2 ^ 27 = 31)) := fun ⟨zero, _⟩ => Nat.ne_of_gt pos zero
  simp only [decodeFields, if_neg short, if_neg released, op]
  rfl

/-- The operand bits of a word make up those of a `pause` of its IMM16 exactly when K is 0 (R219). -/
theorem encoding_pause_iff (w : Word) : (Instr.pause (fld w 0 16)).encoding = some ⟨.conductor, 0x56, w.toNat % 2 ^ 19, []⟩ ↔
    w.toNat / 2 ^ 16 % 8 = 0 := by
  have body : (Instr.pause (fld w 0 16)).encoding = some ⟨.conductor, 0x56, w.toNat % 2 ^ 16, []⟩ := by
    simp [Instr.encoding, pack, fld]
  simp only [body, Option.some.injEq, Encoding.mk.injEq, true_and, and_true]
  omega

/-- The word of `pause` (R260): IMM16 is its operand, and any K other than 0 is reserved. -/
theorem decode_pause (first : Bool) {w : Word} (op : w.toNat / 2 ^ 19 % 256 = 0x56) (pos : 0 < w.toNat / 2 ^ 27)
    (gap : w.toNat / 2 ^ 27 < 31) :
    decode .conductor first [(w, false)] =
      if w.toNat / 2 ^ 16 % 8 = 0 then .ok ⟨w.toNat / 2 ^ 27, .pause (fld w 0 16), 1⟩ else .error .reserved := by
  have read : build .conductor (w.toNat / 2 ^ 19 % 256) w [] = some (.pause (fld w 0 16)) := by rw [op]; rfl
  have counts : decodeCounts Engine.conductor.space w [] = .ok () := decodeCounts_nil read (by rw [op]; rfl) gap
  have wf : (Instr.pause (fld w 0 16)).wf = true := rfl
  rw [decode_singleton _ _ (by omega), decodeOne, counts]
  refine (decodeFields_nil first read pos gap).trans ?_
  simp only [op, wf, true_and, encoding_pause_iff]

end Sys2Proof

namespace Sys2Proof.Machine

/-! ### The capability format -/

/-- The bits of a capability made from fields: no field reaches into another (R15). -/
theorem Cap.make_toNat (n o r l c : Nat) (t : Bool) : (Cap.make n o r l c t).bits.toNat =
    n % 2 ^ 10 * 2 ^ 118 + o % 2 ^ 22 * 2 ^ 96 + r % 2 ^ 8 * 2 ^ 88 + l % 2 ^ 40 * 2 ^ 48 + c % 2 ^ 48 := by
  rw [Cap.make, BitVec.toNat_ofNat]
  exact Nat.mod_eq_of_lt (by omega)

theorem Cap.node_make (n o r l c : Nat) (t : Bool) : (Cap.make n o r l c t).node = n % 2 ^ 10 := by
  rw [Cap.node, Cap.make_toNat]; omega

theorem Cap.obj_make (n o r l c : Nat) (t : Bool) : (Cap.make n o r l c t).obj = o % 2 ^ 22 := by
  rw [Cap.obj, Cap.make_toNat]; omega

theorem Cap.rights_make (n o r l c : Nat) (t : Bool) : (Cap.make n o r l c t).rights = r % 2 ^ 8 := by
  rw [Cap.rights, Cap.make_toNat]; omega

theorem Cap.limit_make (n o r l c : Nat) (t : Bool) : (Cap.make n o r l c t).limit = l % 2 ^ 40 := by
  rw [Cap.limit, Cap.make_toNat]; omega

theorem Cap.cursor_make (n o r l c : Nat) (t : Bool) : (Cap.make n o r l c t).cursor = c % 2 ^ 48 := by
  rw [Cap.cursor, Cap.make_toNat]; omega

/-! The fields of a register fit their places, so that a derived capability takes them over unchanged. -/

theorem Cap.node_mod (c : Cap) : c.node % 2 ^ 10 = c.node :=
  Nat.mod_eq_of_lt (by have := c.bits.isLt; unfold Cap.node; omega)

theorem Cap.obj_mod (c : Cap) : c.obj % 2 ^ 22 = c.obj := Nat.mod_mod _ _
theorem Cap.rights_mod (c : Cap) : c.rights % 2 ^ 8 = c.rights := Nat.mod_mod _ _
theorem Cap.cursor_mod (c : Cap) : c.cursor % 2 ^ 48 = c.cursor := Nat.mod_mod _ _

/-! ### `cbound` -/

theorem exec_cbound (s : State) (d a : BitVec 4) (b : BitVec 5) : exec (.cbound d a b) s = execCbound d a b s := rfl

/-- `cbound` of a register without a tag (R253, R254). -/
theorem State.cbound_untagged (s : State) (d : BitVec 4) {a : BitVec 4} (b : BitVec 5) (tag : (s.rc a).tag = false) :
    s.TrapsWith (.cbound d a b) 0x03 1 := by
  simp [State.TrapsWith, exec_cbound, execCbound, State.capViolation, tag]

/-- `cbound` of a sealed register (R253, R254). -/
theorem State.cbound_sealed (s : State) (d : BitVec 4) {a : BitVec 4} (b : BitVec 5) (tag : (s.rc a).tag = true)
    (sealing : (s.rc a).sealed = true) : s.TrapsWith (.cbound d a b) 0x03 2 := by
  simp [State.TrapsWith, exec_cbound, execCbound, State.capViolation, tag, sealing]

/-- `cbound` without the derive right, beyond the limit, or to a bound that LIMIT cannot hold (R254). -/
theorem State.cbound_refused (s : State) (d : BitVec 4) {a : BitVec 4} {b : BitVec 5} (tag : (s.rc a).tag = true)
    (sealing : (s.rc a).sealed = false)
    (bad : (s.rc a).rights &&& Right.derive = 0 ∨ (s.rc a).limit < (s.rs b).toNat ∨ 2 ^ 40 ≤ (s.rs b).toNat) :
    s.TrapsWith (.cbound d a b) 0x03 0xA := by
  simp only [State.TrapsWith, exec_cbound, execCbound, State.capViolation, tag, sealing, if_pos bad]
  rfl

/-- `cbound` whose checks pass gives the capability with the new limit (R254). -/
theorem State.cbound_yields (s : State) (d : BitVec 4) {a : BitVec 4} {b : BitVec 5} (tag : (s.rc a).tag = true)
    (sealing : (s.rc a).sealed = false) (derive : (s.rc a).rights &&& Right.derive ≠ 0) (within : (s.rs b).toNat ≤ (s.rc a).limit)
    (fits : (s.rs b).toNat < 2 ^ 40) :
    s.Yields (.cbound d a b) 1
      (.creg d (.make (s.rc a).node (s.rc a).obj (s.rc a).rights (s.rs b).toNat (s.rc a).cursor true)) := by
  have good : ¬((s.rc a).rights &&& Right.derive = 0 ∨ (s.rc a).limit < (s.rs b).toNat ∨ 2 ^ 40 ≤ (s.rs b).toNat) := by
    rintro (h | h | h)
    · exact derive h
    · exact Nat.not_le_of_lt h within
    · exact Nat.not_lt_of_le h fits
  refine State.yields_after ?_
  simp only [exec_cbound, execCbound, tag, sealing, if_neg good]
  rfl

/-- Settles O13: the checks of R253 and R254 in their order, and the fields of the bounded capability. -/
theorem capabilityBound : Obligations.capability_bound := by
  unfold Obligations.capability_bound
  intro s d a b
  refine ⟨?_, ?_, s.cbound_untagged d b, s.cbound_sealed d b⟩
  · rintro ⟨tag, sealing⟩ derive within fits
    exact ⟨_, s.cbound_yields d tag sealing derive within fits, Cap.limit_make .., (Cap.rights_make ..).trans (Cap.rights_mod _),
      (Cap.cursor_make ..).trans (Cap.cursor_mod _), (Cap.obj_make ..).trans (Cap.obj_mod _),
      (Cap.node_make ..).trans (Cap.node_mod _), rfl⟩
  · rintro ⟨tag, sealing⟩ bad
    exact s.cbound_refused d tag sealing bad

/-! ### Division -/

theorem quotS_zero (a : DWord) : quotS a 0 = 0xFFFF_FFFF_FFFF_FFFF#64 := rfl
theorem quotU_zero (a : DWord) : quotU a 0 = BitVec.ofNat 64 (2 ^ 64 - 1) := rfl
theorem remS_zero (a : DWord) : remS a 0 = a := rfl
theorem remU_zero (a : DWord) : remU a 0 = a := rfl

theorem ne_zero_of_toInt_eq_neg_one {b : DWord} (h : b.toInt = -1) : b ≠ 0 := by
  rintro rfl
  exact absurd h (by decide)

/-- The quotient 2^63 of -2^63 by -1 wraps to -2^63 (R237). -/
theorem quotS_overflow {a b : DWord} (ha : a.toInt = -2 ^ 63) (hb : b.toInt = -1) : quotS a b = BitVec.ofInt 64 (-2 ^ 63) := by
  rw [quotS, if_neg (ne_zero_of_toInt_eq_neg_one hb), ha, hb]
  decide

/-- The remainder of -2^63 by -1 is 0 (R237). -/
theorem remS_overflow {a b : DWord} (ha : a.toInt = -2 ^ 63) (hb : b.toInt = -1) : remS a b = 0 := by
  rw [remS, if_neg (ne_zero_of_toInt_eq_neg_one hb), ha, hb]
  decide

/-- Settles O2: a division only owes its result, and the results of the borderline cases are those of R237. -/
theorem divisionBorderline : Obligations.division_borderline := by
  unfold Obligations.division_borderline
  intro s d a b
  refine ⟨fun zero => ⟨?_, ?_, ?_, ?_⟩, fun ⟨least, minusOne⟩ => ⟨?_, ?_⟩⟩
  · exact State.yields_of rfl (by rw [zero, quotS_zero])
  · exact State.yields_of rfl (by rw [zero, quotU_zero])
  · exact State.yields_of rfl (by rw [zero, remS_zero])
  · exact State.yields_of rfl (by rw [zero, remU_zero])
  · exact State.yields_of rfl (quotS_overflow least minusOne).symm
  · exact State.yields_of rfl (remS_overflow least minusOne).symm

/-! ### The release of an instruction that completes -/

theorem engIdx_ne {e f : Engine} (h : f ≠ e) : (engIdx e).val ≠ (engIdx f).val := by
  revert h
  cases e <;> cases f <;> decide

@[simp] theorem Station.stream_setStream (t : Station) (e : Engine) (x : Stream) : (t.setStream e x).stream e = x := by
  simp [Station.stream, Station.setStream]

theorem Station.stream_setStream_ne (t : Station) {e f : Engine} (x : Stream) (h : f ≠ e) :
    (t.setStream e x).stream f = t.stream f := by
  simp [Station.stream, Station.setStream, Vector.getElem_set_ne _ _ (engIdx_ne h)]

/-- A stream that advances is replaced by one with the stamp of the instruction, and nothing else changes (R169, R243). -/
theorem State.advance_cases (s : State) (k : Stn) (e : Engine) (pc len stamp : Nat) (jump : Option Nat) :
    ∃ x : Stream, x.stamp = stamp ∧ s.advance k e pc len stamp jump = s.onStn k fun t => t.setStream e x := by
  cases jump with
  | none => exact ⟨_, rfl, rfl⟩
  | some i => exact ⟨_, rfl, rfl⟩

/-- The check for a next instruction with a gap of 0 changes only what is still to be done in the cycle (R216). -/
theorem State.gapZero_cases (s : State) (k : Stn) (e : Engine) : ∃ l, s.gapZero k e = { s with todo := l } := by
  unfold State.gapZero
  dsimp only
  split
  · exact ⟨_, rfl⟩
  · exact ⟨_, rfl⟩

/-- An instruction that completes leaves its stream at its own stamp; no other part of its station, no other station, no byte of memory
and no unit of the package changes (R169). -/
theorem State.finishInstr_frame (s : State) (h : s.stay = false) : ∃ x : Stream, x.stamp = s.cur.stamp ∧
    s.finishInstr.stn s.cur.k = s.here.setStream s.cur.e x ∧ s.finishInstr.mem = s.mem ∧ s.finishInstr.pkg = s.pkg ∧
    ∀ j, j ≠ s.cur.k → s.finishInstr.stn j = s.stn j := by
  obtain ⟨x, stamp, advanced⟩ := s.advance_cases s.cur.k s.cur.e s.cur.pc s.cur.len s.cur.stamp s.jump
  obtain ⟨l, checked⟩ := (s.advance s.cur.k s.cur.e s.cur.pc s.cur.len s.cur.stamp s.jump).gapZero_cases s.cur.k s.cur.e
  have finished : s.finishInstr = { s.onStn s.cur.k fun t => t.setStream s.cur.e x with todo := l } := by
    rw [State.finishInstr, h, ← advanced]
    exact checked
  rw [finished]
  exact ⟨x, stamp, s.stn_onStn s.cur.k fun t => t.setStream s.cur.e x, rfl, rfl, fun j other =>
    s.stn_onStn_ne (fun t => t.setStream s.cur.e x) other⟩

/-- A step that releases an instruction executes it and lets its stream advance (R169). -/
theorem step_issue {s t : State} {k : Stn} {e : Engine} {r : List Act} {d : Decoded} (todo : s.todo = .issue k e :: r)
    (next : ({ s with todo := r } : State).nextInstr k e = .ok d)
    (run : exec d.instr (({ s with todo := r } : State).beginInstr k e d) = .next t) : step s = .next t.finishInstr := by
  simp only [step, todo, issueNext, next, run]

/-- A step that releases an instruction which does nothing leaves its stream at the instruction's stamp, its gap after the one before it,
and changes no other part of its station, no other station, no byte of memory and no unit of the package (R169). -/
theorem step_issue_idle {s : State} {k : Stn} {e : Engine} {r : List Act} {d : Decoded} (todo : s.todo = .issue k e :: r)
    (next : ({ s with todo := r } : State).nextInstr k e = .ok d) (idle : ∀ u, exec d.instr u = .next u) :
    ∃ (t : State) (x : Stream), step s = .next t ∧ x.stamp = ((s.stn k).stream e).stamp + d.gap ∧ t.stn k = (s.stn k).setStream e x ∧
      t.mem = s.mem ∧ t.pkg = s.pkg ∧ ∀ j, j ≠ k → t.stn j = s.stn j := by
  obtain ⟨x, frame⟩ := (({ s with todo := r } : State).beginInstr k e d).finishInstr_frame rfl
  exact ⟨_, x, step_issue todo next (idle _), frame⟩

/-! ### `pause` -/

theorem exec_pause (s : State) (n : BitVec 16) : exec (.pause n) s = .next s := rfl

/-- Settles O6: `pause` is the identity on states, so that a step that issues it only lets its stream advance. -/
theorem pauseDoesNothing : Obligations.pause_does_nothing := by
  unfold Obligations.pause_does_nothing
  refine ⟨exec_pause, ?_, ?_⟩
  · intro first w g op pos gap
    rw [decode_pause first op pos gap, fld, Nat.pow_zero, Nat.div_one]
  · intro s k r g n todo x decoded
    obtain ⟨t, y, run, stamp, here, mem, -, others⟩ := step_issue_idle todo decoded fun u => exec_pause u n
    refine ⟨t, run, ?_, ?_, mem, ?_, others⟩
    · rw [here, Station.stream_setStream]
      exact stamp
    · rw [here, Station.setStream_regs]
    · intro e other
      rw [here, Station.stream_setStream_ne _ _ other]

end Sys2Proof.Machine
end

section
/-!
PROOFS. The lanes of a register and of a mask, the word with one extension word, and the statement of `vsel` (R216, R220, R221, R278).
-/

namespace Sys2Proof

/-! ### Decoding a word with one extension word -/

/-- A word that one continuation word follows and that is no repeat word is decoded as one instruction (R215, R216). -/
theorem decode_pair (e : Engine) (first : Bool) {w : Word} (x : Word) (h : w.toNat / 2 ^ 19 % 256 ≠ 0xFF) :
    decode e first [(w, false), (x, true)] = decodeOne e first w [x] := if_neg h

/-- An assigned opcode whose NX is 1 passes the counts with one continuation word where the stamp is not extended (R215, R216). -/
theorem decodeCounts_singleton {sp : Space} {w : Word} {i : Instr} (x : Word) (op : build sp (w.toNat / 2 ^ 19 % 256) w [] = some i)
    (nx : nxOf sp (w.toNat / 2 ^ 19 % 256) w = 1) (gap : w.toNat / 2 ^ 27 < 31) : decodeCounts sp w [x] = .ok () := by
  have short : w.toNat / 2 ^ 27 ≠ 31 := Nat.ne_of_lt gap
  simp only [decodeCounts, op, nx, if_neg short]
  rfl

/-- A word with a gap in its own field and one extension word is the instruction of its fields where these make up the operand bits
and the extension word again, and holds a reserved bit otherwise (R216). -/
theorem decodeFields_singleton {sp : Space} {w x : Word} {i : Instr} (first : Bool)
    (op : build sp (w.toNat / 2 ^ 19 % 256) w [x] = some i) (pos : 0 < w.toNat / 2 ^ 27) (gap : w.toNat / 2 ^ 27 < 31) :
    decodeFields sp first w [x] =
      if i.wf = true ∧ i.encoding = some ⟨sp, w.toNat / 2 ^ 19 % 256, w.toNat % 2 ^ 19, [x]⟩ then .ok ⟨w.toNat / 2 ^ 27, i, 2⟩
      else .error .reserved := by
  have short : w.toNat / 2 ^ 27 ≠ 31 := Nat.ne_of_lt gap
  have released : ¬(w.toNat / 2 ^ 27 = 0 ∧ (first = false ∨ w.toNat / 2 ^ 27 = 31)) := fun ⟨zero, _⟩ => Nat.ne_of_gt pos zero
  simp only [decodeFields, if_neg short, if_neg released, op]
  rfl

/-! ### The word of `vsel` -/

/-- The value of a field. -/
theorem fld_toNat (w : Word) (lo n : Nat) : (fld w lo n).toNat = w.toNat / 2 ^ lo % 2 ^ n := BitVec.toNat_ofNat ..

/-- A field is 0 exactly when its bits are. -/
theorem fld_eq_zero_iff (w : Word) (lo n : Nat) : fld w lo n = 0#n ↔ w.toNat / 2 ^ lo % 2 ^ n = 0 := by
  rw [← BitVec.toNat_inj, fld_toNat, BitVec.toNat_zero]

/-- The fields of R220 cover the extension word. -/
theorem VExt.word_ofWord (x : Word) : (VExt.ofWord x).word = x := by
  have bound := x.isLt
  apply BitVec.eq_of_toNat_eq
  simp only [VExt.word, VExt.ofWord, wordOf_toNat, fld_toNat]
  omega

/-- QE is set and every field but the selector is 0: the extension words that `vsel` takes (R220, R278). -/
theorem vsel_wf_iff (d a b : BitVec 6) (x : Word) :
    (Instr.vsel d a b (.ofWord x)).wf = true ↔ x.toNat / 2 ^ 31 = 1 ∧ x.toNat % 2 ^ 28 = 0 := by
  have bound := x.isLt
  have qe : fld x 31 1 = 1#1 ↔ x.toNat / 2 ^ 31 % 2 ^ 1 = 1 := by
    rw [← BitVec.toNat_inj, fld_toNat]; rfl
  simp only [Instr.wf, VExt.ofWord, VExt.tIn, fld_toNat, Bool.and_eq_true, beq_iff_eq, List.contains_cons, List.contains_nil,
    Bool.or_false, qe, BitVec.ofNat_eq_ofNat, fld_eq_zero_iff]
  omega

/-- The register fields and NX = 1 fill the operand bits of `vsel` (R218). -/
theorem encoding_vsel_iff (w x : Word) :
    (Instr.vsel (fld w 13 6) (fld w 7 6) (fld w 1 6) (.ofWord x)).encoding = some ⟨.vector, 0x11, w.toNat % 2 ^ 19, [x]⟩ ↔
      w.toNat % 2 = 1 := by
  simp only [Instr.encoding, VExt.word_ofWord, pack, fld_toNat, Option.some.injEq, Encoding.mk.injEq, true_and, and_true]
  omega

theorem build_vsel (w : Word) (xs : List Word) :
    build .vector 0x11 w xs = some (.vsel (fld w 13 6) (fld w 7 6) (fld w 1 6) (.ofWord (ext0 xs))) := rfl

/-- The word of `vsel` with its extension word: QE must be set, and T, RM and the instruction-specific field must be 0 (R278). -/
theorem decode_vsel (first : Bool) {w : Word} (x : Word) (op : w.toNat / 2 ^ 19 % 256 = 0x11) (pos : 0 < w.toNat / 2 ^ 27)
    (gap : w.toNat / 2 ^ 27 < 31) (nx : w.toNat % 2 = 1) :
    decode .vector first [(w, false), (x, true)] =
      if x.toNat / 2 ^ 31 = 1 ∧ x.toNat % 2 ^ 28 = 0 then
        .ok ⟨w.toNat / 2 ^ 27, .vsel (fld w 13 6) (fld w 7 6) (fld w 1 6) (.ofWord x), 2⟩
      else .error .reserved := by
  have read := fun xs => (congrArg (build .vector · w xs) op).trans (build_vsel w xs)
  have counts : decodeCounts Engine.vector.space w [x] = .ok () := decodeCounts_singleton x (read []) nx gap
  rw [decode_pair _ _ x (by omega), decodeOne, counts]
  refine (decodeFields_singleton first (read [x]) pos gap).trans ?_
  simp only [op, ext0, List.headD_cons, vsel_wf_iff, encoding_vsel_iff, nx, and_true]

/-- The word of `vsel` without an extension word (NX = 0) is reserved: `vsel` needs its selector (R278). -/
theorem decode_vsel_short (first : Bool) {w : Word} (op : w.toNat / 2 ^ 19 % 256 = 0x11) (pos : 0 < w.toNat / 2 ^ 27)
    (gap : w.toNat / 2 ^ 27 < 31) (nx : w.toNat % 2 = 0) : decode .vector first [(w, false)] = .error .reserved := by
  have read := (congrArg (build .vector · w []) op).trans (build_vsel w [])
  have counts : decodeCounts Engine.vector.space w [] = .ok () := decodeCounts_nil read nx gap
  rw [decode_singleton _ _ (by omega), decodeOne, counts]
  refine (decodeFields_nil first read pos gap).trans (if_neg fun ⟨wf, _⟩ => ?_)
  obtain ⟨qe, -⟩ := (vsel_wf_iff _ _ _ _).mp wf
  exact absurd qe (by decide)

/-- An extension word whose fields but QE and the selector are 0. -/
theorem VExt.ofWord_of_selector {x : Word} (qe : x.toNat / 2 ^ 31 = 1) (low : x.toNat % 2 ^ 28 = 0) :
    VExt.ofWord x = ⟨1, fld x 28 3, 0, 0, 0⟩ := by
  rw [VExt.ofWord, VExt.mk.injEq]
  exact ⟨fld_eq _ _ _ (by rw [qe]; rfl), rfl, (fld_eq_zero_iff ..).mpr (by omega), (fld_eq_zero_iff ..).mpr (by omega),
    (fld_eq_zero_iff ..).mpr (by omega)⟩

end Sys2Proof

namespace Sys2Proof.Machine

/-! ### Lanes -/

theorem getLsbD_laneOf (l : Line) (i : Nat) {j : Nat} (h : j < 32) : (laneOf l i).getLsbD j = l.getLsbD (32 * i + j) := by
  rw [laneOf, BitVec.getLsbD_extractLsb', decide_eq_true h, Bool.true_and]

/-- A lane of a line is that part of its number (R221). -/
theorem laneOf_ofNat (n : Nat) {i : Nat} (h : i < 64) : laneOf (BitVec.ofNat 2048 n) i = BitVec.ofNat 32 (n / 2 ^ (32 * i)) := by
  apply BitVec.eq_of_getLsbD_eq
  intro j hj
  have inLine : 32 * i + j < 2048 := by omega
  rw [getLsbD_laneOf _ _ hj, BitVec.getLsbD_ofNat, BitVec.getLsbD_ofNat, decide_eq_true inLine, decide_eq_true hj,
    Nat.testBit_div_two_pow, Nat.add_comm]

/-- The lanes of a number that a list of lanes spells are those of the list. -/
theorem ofNat_laneNat_div (ws : List Word) (i : Nat) : BitVec.ofNat 32 (laneNat ws / 2 ^ (32 * i)) = ws.getD i 0 := by
  induction ws generalizing i with
  | nil => simp [laneNat]
  | cons w r ih =>
    have bound := w.isLt
    cases i with
    | zero =>
      apply BitVec.eq_of_toNat_eq
      simp only [laneNat, BitVec.toNat_ofNat, List.getD_cons_zero]
      omega
    | succ i =>
      have next : laneNat (w :: r) / 2 ^ 32 = laneNat r := by
        rw [laneNat]
        omega
      rw [Nat.mul_succ, Nat.add_comm, Nat.pow_add, ← Nat.div_div_eq_div_mul, next, ih, List.getD_cons_succ]

/-- The lanes of a line made from lanes (R221). -/
theorem laneOf_lineOfLanes (ws : List Word) {i : Nat} (h : i < 64) : laneOf (lineOfLanes ws) i = ws.getD i 0 :=
  (laneOf_ofNat _ h).trans (ofNat_laneNat_div ws i)

/-- The mask of the lanes that q sets holds ones in them and zeros in the others (R272). -/
theorem laneOf_laneMask (q : DWord) {i : Nat} (h : i < 64) : laneOf (laneMask q) i = if q.getLsbD i then 0xFFFF_FFFF#32 else 0 := by
  refine (laneOf_lineOfLanes _ h).trans ?_
  simp [List.getD_eq_getElem?_getD, List.getElem?_range h]

/-- Every lane of a whole register is covered by its mask. -/
theorem laneOf_allOnes {i : Nat} (h : i < 64) : laneOf (BitVec.allOnes 2048) i = BitVec.allOnes 32 := by
  apply BitVec.eq_of_getLsbD_eq
  intro j hj
  have inLine : 32 * i + j < 2048 := by omega
  rw [getLsbD_laneOf _ _ hj, BitVec.getLsbD_allOnes, BitVec.getLsbD_allOnes, decide_eq_true inLine, decide_eq_true hj]

theorem merge_allOnes {w : Nat} (old new : BitVec w) : merge old (BitVec.allOnes w) new = new := by simp [merge]

theorem merge_zero {w : Nat} (old new : BitVec w) : merge old 0#w new = old := by simp [merge]

/-- A merge of lines merges their lanes (R221). -/
theorem laneOf_merge (old mask new : Line) {i : Nat} (h : i < 64) :
    laneOf (merge old mask new) i = merge (laneOf old i) (laneOf mask i) (laneOf new i) := by
  apply BitVec.eq_of_getLsbD_eq
  intro j hj
  have inLine : 32 * i + j < 2048 := by omega
  simp only [merge, getLsbD_laneOf _ _ hj, BitVec.getLsbD_or, BitVec.getLsbD_and, BitVec.getLsbD_not, hj, inLine]

/-- Under the mask of the lanes that q sets, a merge takes those lanes from the new line and the others from the old one. -/
theorem laneOf_merge_laneMask (old new : Line) (q : DWord) {i : Nat} (h : i < 64) :
    laneOf (merge old (laneMask q) new) i = if q.getLsbD i then laneOf new i else laneOf old i := by
  rw [laneOf_merge _ _ _ h, laneOf_laneMask _ h]
  split
  · exact merge_allOnes _ _
  · exact merge_zero _ _

/-! ### Whole vector registers -/

/-- A whole vector register written without flags is owed in every lane. -/
theorem State.owesLanes_after (s : State) (lat : Nat) (d : BitVec 6) {data : Line} {f : Nat → Word}
    (lanes : ∀ i, i < 64 → laneOf data i = f i) :
    s.OwesLanes (s.after lat (.vreg d (BitVec.allOnes 2048) data)) lat d (BitVec.allOnes 64) (fun i => (f i, 0)) := by
  refine ⟨BitVec.allOnes 2048, data, 0, ?_, fun i h _ => lanes i h, ?_, s.owes_after lat _⟩
  · intro i h
    rw [laneOf_allOnes h, BitVec.getLsbD_allOnes, decide_eq_true h]
    rfl
  · simp

/-! ### `vsel` -/

theorem exec_vsel (s : State) (d a b : BitVec 6) (x : VExt) : exec (.vsel d a b x) s =
    .next (s.after 1 (.vreg d (BitVec.allOnes 2048) (merge (s.rv b) (laneMask (s.rq x.q)) (s.rv a)))) := rfl

/-- Settles O19: the mask of the selector takes A over B lane by lane, and the fields of the word make it up again exactly when NX
and QE are 1 and the rest of the extension word is 0. -/
theorem laneSelection : Obligations.lane_selection := by
  unfold Obligations.lane_selection
  refine ⟨?_, ?_⟩
  · intro s d a b y
    exact ⟨_, exec_vsel s d a b y, s.owesLanes_after 1 d fun i h => laneOf_merge_laneMask _ _ _ h⟩
  · intro first w x g op pos gap
    refine ⟨?_, ?_, decode_vsel_short first op pos gap⟩
    · intro nx qe low
      rw [decode_vsel first x op pos gap nx, if_pos ⟨qe, low⟩, VExt.ofWord_of_selector qe low]
      simp only [fld, Nat.pow_one, g]
    · intro nx bad
      rw [decode_vsel first x op pos gap nx, if_neg]
      omega

end Sys2Proof.Machine
end
